-- ==== Sys2Proof/Word.lean ====
section
/-! DEFINITION. The word and byte types of the block: every register is 64 bits (R14), a byte is 8 bits (R10). -/

namespace Sys2Proof

/-- A 64-bit register or operand word (R14). -/
abbrev Word := BitVec 64

/-- One byte (R10). -/
abbrev Byte := BitVec 8

end Sys2Proof
end

