-- ==== Sys2Proof/Syntax.lean ====
section
/-! DEFINITION. The commands of the block: one constructor per row of spec/opcode_table.json, with what comes
from outside the block at that step as its operands (log entry 7). -/

namespace Sys2Proof

/-- The part of the register window an access comes by: the manager's, or the page of one instance (R43). -/
inductive Path where
  | manager
  | page (i : Fin 1024)
  deriving DecidableEq, Repr

/-- The tag of a memory-port request (R32). -/
structure Tag where
  inst : BitVec 10
  gen  : BitVec 16
  slot : BitVec 14
  deriving DecidableEq, Repr

/-- One beat of the read-data channel of a memory port (R30, R33): the bytes of the enabled lanes, lowest lane
first, the positions among them that fail parity (R36), the beat status, the last-beat flag, and whether the swap and
CRC stages of a check find bad parity on its bytes (R139). -/
structure RBeat where
  tag  : Tag
  data : List Byte
  bad  : List Nat
  stat : BitVec 2
  last : Bool
  dp   : Bool := false
  deriving DecidableEq, Repr

/-- One received flit after the header: its 64 bytes and the positions that fail parity (R37, R371). -/
structure Flit where
  data : List Byte
  bad  : List Nat
  deriving DecidableEq, Repr

/-- One received span message (R37, R362): the port, the source node, the 64 B header flit, whether the header
flit passed parity, the data flits up to EOM, and whether an inbound buffer became free in time (R368). -/
structure InMsg where
  port   : Fin 4
  src    : Fin 1024
  hdr    : List Byte
  hdrOk  : Bool
  flits  : List Flit
  buffer : Bool
  deriving DecidableEq, Repr

/-- One copy of the factory fuses: CAL_FUSE0 to CAL_FUSE3, FUSE_SEC and the digests of keys 0 and 1 (R485). -/
structure Fuses where
  cal0 : Word
  cal1 : Word
  cal2 : Word
  cal3 : Word
  sec  : Word
  key0 : List Byte
  key1 : List Byte
  deriving DecidableEq, Repr

/-- Causes of a wake (R474, R477). -/
inductive WakeCause where
  | pin
  | fabric
  | register
  | fault
  deriving DecidableEq, Repr

/-- What the datapath checks find on a beat, or on a 64 B line of a remote write, at write-out (R139). -/
inductive OutPar where
  | good
  | holdPar
  | dpPar
  deriving DecidableEq, Repr

/-- Who needs a translation (R327): a fragment, a poll, a record read of one side of a queue's entry, a link fetch, a completion
overwrite of a ring slot, an event record, an MSI write, or the Purser. -/
inductive XCtx where
  | frag (id : Nat)
  | poll (q : Fin 16384)
  | man (q : Fin 16384) (dst : Bool)
  | link (n : Fin 512)
  | ovr (q : Fin 16384) (slot : Nat)
  | evt (i : Fin 1024)
  | msi (i : Fin 1024)
  | pur
  deriving DecidableEq, Repr

/-- A port with an arbiter (R142, R146). -/
inductive ArbPort where
  | mem (c : Fin 8)
  | fab (f : Fin 4)
  deriving DecidableEq, Repr

/-- Attribution of a detection: its kind (R409), unit, and instance if it has one. -/
structure Attr where
  kind : Nat
  unit : Nat
  inst : Option Nat
  deriving DecidableEq, Repr

/-- A fault condition found (R411): its source number (R413), attribution, the DETAIL of R425, the cause of a failed
translation (R322), and for a level source whether the condition is present or has gone (R417). -/
structure Detection where
  source  : Nat
  attr    : Attr
  detail  : Word
  xcause  : Option Nat
  present : Bool
  deriving DecidableEq, Repr

/-- The SRAM structures the scrubber visits (R440). -/
inductive Sram where
  | context
  | chartCache
  | ledger
  | purser
  deriving DecidableEq, Repr

/-- What a scrub step finds in one word (R443): the structure, whether it is correctable, the syndrome, and the
owner of a context word (a queue, a channel, or none). -/
structure ScrubFind where
  sram     : Sram
  single   : Bool
  syndrome : Byte
  chan     : Bool
  owner    : Option Nat
  deriving DecidableEq, Repr

/-- The commands of the block, in the order of spec/opcode_table.json. -/
inductive Instr where
  | pgoodFall
  | powerOnReset
  | blockReset
  | resetRelease (absent : Bool)
  | fuse (primary copy : Fuses) (checkOk : Bool)
  | meminit (failed : Fin 8)
  | startCtlLoad
  | load
  | verify
  | fwinit (done : Bool)
  | absenceResponder (write : Bool) (off : BitVec 24) (v : Word)
  | registerWrite (off : BitVec 24) (v : Word)
  | rpTmo (write : Bool) (off : BitVec 24)
  | glbCtlLock
  | bell
  | bellInEdge
  | bellMiss
  | bellAcquire
  | dispatchAssign (c : Fin 8)
  | admission (f : Nat)
  | fragmentWriteStart (f : Nat) (par : List (Nat × OutPar))
  | readBeat (p : Fin 8) (b : RBeat)
  | writeDataAccept (p : Fin 8) (par : OutPar)
  | writeAck (p : Fin 8) (tag : Tag) (stat : BitVec 2)
  | manifestRecordRead (q : Fin 16384) (dst : Bool)
  | chartRead (x : XCtx)
  | engCtlRelease (e : Fin 128)
  | engineClearDone (e : Fin 128)
  | pollDue (q : Fin 16384)
  | pollIssue
  | pollResponse (p : Fin 8) (b : RBeat)
  | qctlEnableSet (i : Fin 1024) (q : Fin 1024)
  | qctlEnableClear (i : Fin 1024) (q : Fin 1024)
  | qctlRetry (i : Fin 1024) (q : Fin 1024)
  | qctlSkip (i : Fin 1024) (q : Fin 1024)
  | completionOverwrite (q : Fin 16384)
  | eventRecordWrite (i : Fin 1024)
  | lostRecord (i : Fin 1024)
  | evtCtlWrite (i : Fin 1024) (v : Word)
  | evtHeadWrite (i : Fin 1024) (v : Word)
  | msiWrite (i : Fin 1024)
  | chStart (via : Path) (n : Fin 512)
  | chStop (via : Path) (n : Fin 512)
  | chLoad (via : Path) (n : Fin 512)
  | chDrop (via : Path) (n : Fin 512)
  | chPauseSet (via : Path) (n : Fin 512)
  | chPauseClear (via : Path) (n : Fin 512)
  | levelCrossing (n : Fin 512) (level : BitVec 12)
  | linkFetch (n : Fin 512)
  | chLinkTmo (n : Fin 512)
  | mbCtlGo (m : Fin 8) (irqEn : Bool)
  | commandStart
  | queryVersions
  | queryInstance
  | queryPool
  | instCreate
  | instRemove
  | instReset
  | settleEnd (i : Fin 1024)
  | settleTmo (p : Fin 8) (slot : BitVec 14)
  | instSuspend
  | instResume
  | shareSet
  | qCreate
  | qResize
  | qDestroy
  | qReadCtx
  | qStrictGrant
  | qStrictRevoke
  | chBind
  | chUnbind
  | logCtlOn
  | logCtlOff
  | logCtlFlush
  | planLoad
  | planCancel
  | adminInit
  | commandCompletion
  | purCmdTmo
  | purWdog
  | contained (i : Fin 1024)
  | ccInvGo (v : Word)
  | ccInvDone
  | logFlush
  | logSwapGo (v : Word)
  | logSwapDone
  | rdReq (m : InMsg)
  | wrReq (m : InMsg)
  | inboundResponse (id : Nat)
  | rdRsp (m : InMsg)
  | wrRsp (m : InMsg)
  | busyReissue (f : Fin 4) (slot : Fin 512)
  | remoteTimeout
  | linkupChange (f : Fin 4) (up : Bool)
  | faultDetection (found : List Detection)
  | mpStall (c : Fin 8) (present : Bool)
  | fpTxStall (f : Fin 4) (present : Bool)
  | frecClose (seen : BitVec 16)
  | alarmMinExpiry
  | injGo (source : BitVec 7)
  | injHold (source : BitVec 7) (hold : Bool)
  | scrubStep (found : List ScrubFind)
  | holdScrub (parityError : Bool)
  | timerTick (n : Fin 32)
  | tmrCntWrite (n : Fin 32) (v : Word)
  | captureEdge (i : Fin 8) (level : Bool)
  | capValRead (i : Fin 8)
  | capEnable (i : Fin 8) (y : Bool)
  | debugHaltAssert
  | debugHaltRelease
  | pwrTargetDoze
  | pwrTargetSleep
  | pwrTargetRun
  | quiescencePoint
  | entryEdge (edge : Bool)
  | wakeEvent (cause : WakeCause) (port : Fin 4)
  | wakeComplete (levels : List (Fin 512 × BitVec 12))
  | deadReckoning (edges : Nat) (edge : Bool) (caps : BitVec 8)
  | droopTrip (rail vref : Nat)
  | stepRise
  | droopSelfTrim (correction : Int)
  | calOfsWrite (k : Fin 4) (v : Word)
  | tempSample (temp : BitVec 8)
  | codeRecheck (same : Bool)
  | pgoodRise
  | arbiterGrant (p : ArbPort) (par : List (Nat × OutPar))
  | strayMessage (m : InMsg)
  | filteredEdge (i : Fin 8) (level : Bool)
  | dbgCtlFreeze (freeze : Bool)
  deriving DecidableEq, Repr

end Sys2Proof
end

