-- ==== Sys2Proof/WellFormed.lean ====
section
/-! DEFINITION. Which operands a port of the block can carry: lengths of beats, flits and structures (log entry 9).
`step` refuses a command that fails its check. -/

namespace Sys2Proof

/-- Positions within n bytes. -/
def within (n : Nat) (l : List Nat) : Bool := l.all (fun k => k < n)

/-- A beat carries the bytes of its enabled lanes: one of the seven widths of R30. -/
def RBeat.wf (b : RBeat) : Bool :=
  [1, 2, 4, 8, 16, 32, 64].contains b.data.length && within b.data.length b.bad

/-- A flit is 64 B (R37). -/
def Flit.wf (f : Flit) : Bool := f.data.length == 64 && within 64 f.bad

/-- A message is whole flits (R37). -/
def InMsg.wf (m : InMsg) : Bool := m.hdr.length == 64 && m.flits.all Flit.wf

/-- A fuse copy holds two 48 B digests (R485). -/
def Fuses.wf (f : Fuses) : Bool := f.key0.length == 48 && f.key1.length == 48

/-- Good fuses hold the factory values fixed on every part (R485, R553): L1 12, L2 20, L3 32, FLOOR 52 and HYST 4. -/
def Fuses.fixed (f : Fuses) : Bool :=
  f.cal0.toNat % 2 ^ 24 == 32 * 2 ^ 16 + 20 * 2 ^ 8 + 12 && f.cal1.toNat / 2 ^ 24 % 2 ^ 16 == 52 * 2 ^ 8 + 4

/-- A detection names a used source (R413). -/
def Detection.wf (d : Detection) : Bool := d.source < 80

/-- The check of each command; a command whose operand types say everything is always well formed. -/
def Instr.wf : Instr → Bool
  | .fuse p c ok => p.wf && c.wf && (!(p == c && ok) || p.fixed)
  | .readBeat _ b => b.wf
  | .pollResponse _ b => b.wf
  | .rdReq m => m.wf
  | .wrReq m => m.wf
  | .rdRsp m => m.wf
  | .wrRsp m => m.wf
  | .strayMessage m => m.wf
  | .faultDetection l => l.all Detection.wf
  | _ => true

end Sys2Proof
end

