-- ==== Sys2Proof/Machine/Bits.lean ====
section
/-! DEFINITION. Bit fields, saturating counts, little-endian bytes and number-keyed tables. -/

namespace Sys2Proof.Machine

open Sys2Proof

/-- Field [hi:lo] of a word as a number (R12). -/
def fld (w : Word) (hi lo : Nat) : Nat := (w.toNat >>> lo) % 2 ^ (hi + 1 - lo)

/-- Bit b of a word (R12). -/
def bit (w : Word) (b : Nat) : Bool := w.toNat.testBit b

/-- Ones in bits [hi:lo]. -/
def mask (hi lo : Nat) : Word := BitVec.ofNat 64 ((2 ^ (hi + 1 - lo) - 1) <<< lo)

/-- A word with the given values in its fields, each given by its highest and lowest bit (R12). -/
def pack : List (Nat × Nat × Nat) → Word
  | [] => 0
  | (hi, lo, v) :: rest => BitVec.ofNat 64 ((v % 2 ^ (hi + 1 - lo)) <<< lo) ||| pack rest

/-- `new` on the bits of `m`, `old` elsewhere. -/
def merge (m old new : Word) : Word := (old &&& ~~~m) ||| (new &&& m)

/-- A word with field [hi:lo] set to a value. -/
def setFld (w : Word) (hi lo v : Nat) : Word := merge (mask hi lo) w (BitVec.ofNat 64 (v <<< lo))

/-- 1 for true and 0 for false. -/
def b2n (b : Bool) : Nat := if b then 1 else 0

/-- Addition that saturates at the largest value of a width. -/
def satAdd (width a b : Nat) : Nat := min (2 ^ width - 1) (a + b)

/-- Quotient rounded up. -/
def ceilDiv (a b : Nat) : Nat := (a + b - 1) / b

/-- The n bytes of a number, least significant first (R13). -/
def leBytes : Nat → Nat → List Byte
  | 0, _ => []
  | n + 1, v => BitVec.ofNat 8 v :: leBytes n (v / 256)

/-- The number that bytes give, least significant first (R13). -/
def leNat : List Byte → Nat
  | [] => 0
  | b :: bs => b.toNat + 256 * leNat bs

/-- Bytes off to off + n − 1 of a structure as a little-endian number; bytes beyond its end read 0. -/
def at_ (l : List Byte) (off n : Nat) : Nat := leNat ((l.drop off).take n)

/-- Byte k of a structure; 0 beyond its end. -/
def byteAt (l : List Byte) (k : Nat) : Byte := l.getD k 0

/-- A structure with the bytes from off on replaced by the given ones. -/
def putBytes (l : List Byte) (off : Nat) (bs : List Byte) : List Byte :=
  l.take off ++ bs ++ l.drop (off + bs.length)

/-- n zero bytes. -/
def zeros (n : Nat) : List Byte := List.replicate n 0

/-- Element k of a list of numbers; 0 beyond its end. -/
def nth (l : List Nat) (k : Nat) : Nat := l.getD k 0

/-- Sum of a list of numbers. -/
def total (l : List Nat) : Nat := l.foldr (· + ·) 0

/-- The numbers 0 to n − 1 through a function. -/
def tabulate (n : Nat) (f : Nat → Nat) : List Nat := (List.range n).map f

/-- The entry of a table under a key, or the value an unlisted key has. -/
def tabGet {α : Type} (d : α) (t : List (Nat × α)) (k : Nat) : α :=
  match t with
  | [] => d
  | (j, v) :: rest => if j = k then v else tabGet d rest k

/-- A table with one key set; the keys stay in rising order. -/
def tabSet {α : Type} (t : List (Nat × α)) (k : Nat) (v : α) : List (Nat × α) :=
  match t with
  | [] => [(k, v)]
  | (j, w) :: rest =>
    if j = k then (k, v) :: rest
    else if k < j then (k, v) :: (j, w) :: rest
    else (j, w) :: tabSet rest k v

/-- A table with one key changed by a function. -/
def tabUpd {α : Type} (d : α) (t : List (Nat × α)) (k : Nat) (f : α → α) : List (Nat × α) :=
  tabSet t k (f (tabGet d t k))

/-- A table without one key. -/
def tabErase {α : Type} (t : List (Nat × α)) (k : Nat) : List (Nat × α) := t.filter (fun p => p.1 != k)

/-- Whether a table lists a key. -/
def tabHas {α : Type} (t : List (Nat × α)) (k : Nat) : Bool := t.any (fun p => p.1 == k)

/-- The keys rise strictly. -/
def tabWf {α : Type} (t : List (Nat × α)) : Prop := t.Pairwise (fun a b => a.1 < b.1)

/-- The least number at or above `k` that is not in a list; `fuel` numbers are tried. -/
def leastFrom (used : List Nat) : Nat → Nat → Nat
  | 0, k => k
  | fuel + 1, k => if used.contains k then leastFrom used fuel (k + 1) else k

/-- The least number not in a list, from a first one on. -/
def leastFree (used : List Nat) (first : Nat) : Nat := leastFrom used (used.length + 1) first

/-- The element that comes first in an order given by a key, earliest in the list among equals. -/
def minBy {α : Type} (key : α → Nat) : List α → Option α
  | [] => none
  | x :: xs =>
    match minBy key xs with
    | none => some x
    | some y => if key y < key x then some y else some x

/-- The first key of round robin at or after `start`, in a cycle of `n` keys (R120, R143). -/
def cycDist (n start k : Nat) : Nat := (k + n - start % n) % n

end Sys2Proof.Machine
end

