-- ==== Sys2Proof/Machine/State.lean ====
section
/-! DEFINITION. State: everything the spec gives the block, as plain data, and its value after reset. -/

namespace Sys2Proof.Machine

open Sys2Proof

/-- Why the machine stops: never, because the spec gives every command an effect in every state. -/
inductive Fault where
  deriving DecidableEq, Repr

/-- Why a command has no meaning. -/
inductive Refusal where
  /-- Raised by `exec` for a command that has no meaning yet. Safe. -/
  | notModelled (mnemonic : String)
  /-- Raised by `step` for a command whose operands no port of the block can carry (WellFormed.lean). Safe. -/
  | illFormed
  deriving DecidableEq, Repr

/-- The boundary conditions of the domain (R60); Isolated is a flag of `Power`. -/
inductive Boundary where
  | present
  | off
  | inReset
  | fusedAbsent
  deriving DecidableEq, Repr

/-- Power phases (R473). -/
inductive Phase where
  | run
  | entering
  | doze
  | sleep
  | waking
  deriving DecidableEq, Repr

/-- What a write accepted while the clusters hold no clock steers once RUN is reached (R477, R507): PAUSE of a channel, a write of
CH_CMD, ENABLE of a queue, RETRY or SKIP of one, an invalidation, and START_CTL.LOAD. -/
inductive Later where
  | pause (n : Nat)
  | chCmd (n : Nat) (all : Bool) (v : Word)
  | enable (i q : Nat) (on : Bool)
  | release (i q : Nat) (skip : Bool)
  | invalidate
  | load
  deriving DecidableEq, Repr

/-- Pins, power phase and start-up (01, 13). -/
structure Power where
  bound     : Boundary := .present
  pgood     : Bool := true
  porstN    : Bool := true
  rstN      : Bool := true
  absent    : Bool := false
  /-- the bus clock on which the block left reset last (R64) -/
  leftAt    : Option Nat := none
  fatal     : Bool := false
  lockdown  : Bool := false
  phase     : Phase := .run
  target    : Nat := 0
  wake      : Nat := 0
  temp      : BitVec 8 := 0
  /-- past the quiescence point of an entry (R476) -/
  quiesced  : Bool := false
  /-- the bus clock of the quiescence point, and that of Run, from which the 32,000 bus clocks of R465 and R466 count -/
  waitFrom  : Nat := 0
  exitFrom  : Nat := 0
  /-- a wake event held from the quiescence point to the entry edge, and the lowest one of this bus clock in DOZE or SLEEP (R474,
  R477) -/
  held      : Option WakeCause := none
  woke      : Option WakeCause := none
  /-- what writes of this stay steer once RUN is reached (R477) -/
  later     : List Later := []
  /-- the bus clock of the entry edge, the slow edges since (R466), and the counters that counted at it (R468) -/
  lowAt     : Nat := 0
  edges     : Nat := 0
  ran       : List Nat := []
  /-- counters and bell hold between entry edge and exit edge (R465, R466) -/
  timeHeld  : Bool := false
  /-- RUN is reached and the exit edge is awaited (R466) -/
  exitWait  : Bool := false
  noedge    : Bool := false
  /-- START_STAT.STEP (R489) -/
  step      : Nat := 1
  unit      : Nat := 0
  fpPresent : Bool := false
  /-- MEMINIT of this start-up makes the march self-test (R489) -/
  selfTest  : Bool := false
  deriving DecidableEq, Repr

/-- Manager registers of the identity, span, debug and injection regions held as words; reserved bits stay 0. -/
structure Glob where
  lock      : Bool := false
  irqRoute  : List (Nat × Word) := []
  irqMbox   : Word := 0
  ccGo      : Bool := false
  ccInv     : Word := 0
  /-- the age at which the invalidation began, and the fragments that used a translation in its range (R336) -/
  ccAt      : Nat := 0
  ccFrags   : List Nat := []
  settleTmo : Word := 0x3E8
  spanCtl   : Word := 0
  spanTmo   : Word := 0x32
  swapGo    : Bool := false
  logSwap   : Word := 0
  /-- the swap bell has rung and the old bitmap is being finished (R385) -/
  swapAt    : Option Nat := none
  swapOld   : Option (Nat × Nat) := none
  /-- its accesses of before that bell: the request, and the age at which it was issued -/
  swapOuts  : List (Nat × Nat) := []
  logInst   : Nat := 0
  logWaits  : Nat := 0
  logRange  : Bool := false
  logFail   : Bool := false
  logRefused : Bool := false
  spanRoute : List (Nat × Word) := []
  spanAllow : List (Nat × Word) := []
  winBase   : List (Nat × Word) := []
  winLim    : List (Nat × Word) := []
  freeze    : Bool := false
  halt      : Bool := false
  injCtl    : Word := 0x400000
  injGo     : Bool := false
  injAttr   : Word := 0
  chgLinkTmo : Word := 0x1388
  rpRdata   : Word := 0
  rpDone    : Bool := false
  deriving DecidableEq, Repr

/-- The bell generator (R65 to R75). -/
structure Bell where
  ctl      : Word := 0x4008040000
  period   : Nat := 4000
  running  : Bool := false
  glass    : Nat := 0
  pos      : Nat := 0
  misses   : Nat := 0
  earlies  : Nat := 0
  missRun  : Nat := 0
  lost     : Bool := false
  locked   : Bool := false
  miss     : Bool := false
  early    : Bool := false
  /-- TT_BELL_OUT (R48) -/
  out      : Bool := false
  /-- nothing is admitted before the next bell (R107) -/
  noAdmit  : Bool := false
  deriving DecidableEq, Repr

/-- Bytes and beats of the glass in progress on one memory port (R93, R103, R154). -/
structure PortAcc where
  firm   : Nat := 0
  soft   : Nat := 0
  other  : Nat := 0
  res    : Nat := 0
  topRd  : Nat := 0
  topWr  : Nat := 0
  allRd  : Nat := 0
  allWr  : Nat := 0
  deriving DecidableEq, Repr

/-- Bytes of the glass in progress on one fabric port (R104). -/
structure FabAcc where
  outFirm : Nat := 0
  outAll  : Nat := 0
  inFirm  : Nat := 0
  inAll   : Nat := 0
  deriving DecidableEq, Repr

/-- What the first bus clock after a bell publishes (R78): MIN, GLS_PORT_LAST, GLS_FAB_LAST and CLU_PTE. -/
structure Snap where
  min      : Nat
  portLast : List (Nat × Word)
  fabLast  : List (Nat × Word)
  pte      : List (Nat × Word)
  deriving DecidableEq, Repr

/-- What the second bus clock after a bell publishes (R78, R97, R98): overruns and shortfalls counted, the first overrun, and their
faults. -/
structure Over where
  firm  : Nat
  soft  : Nat
  short : Nat
  last  : Option Word
  found : List Detection
  deriving DecidableEq, Repr

/-- Glass accounting (R78, R92 to R104). -/
structure Glass where
  stepMin   : Nat := 0
  stepBell  : Nat := 0
  /-- lowest step of the glass in progress -/
  stepNow   : Nat := 3
  ovrFirm   : Nat := 0
  ovrSoft   : Nat := 0
  short     : Nat := 0
  ovrLast   : Word := 0
  portLast  : List (Nat × Word) := []
  fabLast   : List (Nat × Word) := []
  pte       : List (Nat × Word) := []
  acc       : List (Nat × PortAcc) := []
  fab       : List (Nat × FabAcc) := []
  /-- INB[c] accepted and in force, and bytes left of it in this glass (R80, R81) -/
  inbLed    : List Nat := []
  inb       : List Nat := []
  inbLeft   : List Nat := []
  /-- the cut-off of this glass has come, and firm work that has been ready and not admitted since (R92): context and entry -/
  cutOff    : Bool := false
  ready     : List (Nat × Nat) := []
  /-- P as GLS_CAP0 to GLS_CAP2 show it: that of the bus clock before (R83) -/
  capP      : Nat := 4000
  /-- figures of the glass that has ended, until the bus clock that publishes them: after the bell the telemetry, one bus clock
  later the overruns (R78) -/
  snap      : Option Snap := none
  overNew   : Option Over := none
  deriving DecidableEq, Repr

/-- One general counter (R451 to R453). -/
structure Tmr where
  ctl   : Word := 0
  cnt   : Nat := 0
  cmp   : Nat := 0xFFFFFFFF
  phase : Nat := 0
  hit   : Bool := false
  ovf   : Bool := false
  deriving DecidableEq, Repr

/-- One capture input (R457 to R460). -/
structure Cap where
  ctl     : Word := 0x10000
  val     : Word := 0
  divcnt  : Nat := 0
  level   : Bool := false
  ovr     : Bool := false
  pending : Bool := false
  /-- the synchronised level of the input, and the bus clock from which it has been at it (R458) -/
  y       : Bool := false
  yAt     : Nat := 0
  deriving DecidableEq, Repr

/-- The timers region (12). -/
structure Timers where
  cnt     : List (Nat × Tmr) := []
  cap     : List (Nat × Cap) := []
  slow    : Nat := 0
  frac    : Nat := 0
  sat     : Bool := false
  noedge  : Bool := false
  made    : Word := 0
  route   : List (Nat × Word) := []
  deriving DecidableEq, Repr

/-- One fault source (R414); SEV is held, FLOOR, FIXED and LEVEL are those of R413. -/
structure Src where
  sev     : Nat := 0
  count   : Nat := 0
  last    : Nat := 0
  injd    : Bool := false
  latched : Bool := false
  /-- units at which the condition of a level source holds, and LIVE at the last detection bus clock (R417, R438) -/
  units   : List Nat := []
  live    : Bool := false
  deriving DecidableEq, Repr

/-- The fault collector (11). -/
structure Collector where
  srcs     : List (Nat × Src) := []
  open_    : Bool := false
  cls      : Nat := 0
  fcls     : Nat := 0
  inj      : Bool := false
  real     : Bool := false
  minj     : Bool := false
  source   : Nat := 0
  merged   : Nat := 0
  glass    : Nat := 0
  attr     : Word := 0
  detail   : Word := 0
  sec0     : Word := 0
  sec1     : Word := 0
  seen     : Nat := 0
  minclass : Nat := 2
  records  : Nat := 0
  corr     : Nat := 0
  alarmMinclass : Nat := 3
  force    : Bool := false
  min      : Nat := 0
  held     : Bool := false
  route    : Word := 0
  passes   : Nat := 0
  bank     : Nat := 0
  skipped  : Nat := 0
  fixes    : Nat := 0
  /-- bells of the bank's turn so far, whether its scrub has begun or ended, and whether it runs (R442) -/
  turn     : Nat := 0
  bankDone : Bool := false
  scrubOn  : Bool := false
  /-- next word of the context, chart-cache, ledger and Purser SRAMs (R440) -/
  words    : List Nat := []
  /-- SRAM words of this bell still to be read (R441) -/
  due      : Bool := false
  /-- conditions found and not yet at their detection bus clock (R411) -/
  waiting  : List Detection := []
  deriving DecidableEq, Repr

/-- Droop sensor and calibration (R480 to R486). Rail values are in µV. -/
structure Droop where
  drift   : Int := 0
  good    : Nat := 0
  level   : Nat := 0
  step    : Nat := 3
  trip1   : Nat := 0
  trip2   : Nat := 0
  trip3   : Nat := 0
  rail    : Nat := 750000
  vref    : Nat := 750000
  /-- levels tripped now -/
  on      : List Nat := []
  /-- comparator trims, two for each level, and the one whose turn is next (R483) -/
  trims   : List Int := []
  turn    : Nat := 0
  /-- bells since the last self-trim and since the last code recheck (R483, R493), and the largest correction of the
  round in progress -/
  bells   : Nat := 0
  recheck : Nat := 0
  round   : Int := 0
  fuse    : List Word := []
  sec     : Word := 0
  key0    : List Byte := []
  key1    : List Byte := []
  loaded  : Bool := false
  ofs     : List Word := []
  deriving DecidableEq, Repr

/-- Where a command of the Purser came from (R288, R292): a mailbox, or an entry of queue 0. -/
inductive CmdSrc where
  | mailbox (m : Nat)
  | queue (seq : Nat)
  deriving DecidableEq, Repr

/-- One mailbox (R286 to R288). -/
structure Mbox where
  req   : List (Nat × Word) := []
  rsp   : List Byte := []
  irqEn : Bool := false
  done  : Bool := false
  busy  : Bool := false
  /-- the 64 B submitted and not yet started -/
  sub   : Option (List Byte) := none
  deriving DecidableEq, Repr

/-- A command the Purser has started (R292, R294). -/
structure Cmd where
  src   : CmdSrc
  raw   : List Byte
  start : Nat
  /-- PUR_CMD_TMO has been raised for it -/
  late  : Bool := false
  deriving DecidableEq, Repr

/-- A deferred command accepted and not completed (R294). -/
structure Deferred where
  src  : CmdSrc
  raw  : List Byte
  inst : Nat
  /-- GLASS_NUM at acceptance -/
  at_  : Nat
  /-- the port status of a failed bitmap access it waits on (R298, R383) -/
  failed : Option Nat := none
  /-- a FLUSH: the line, bitmap and number of flushes it still waits for (R310) -/
  lines : List (Nat × Nat × Nat) := []
  deriving DecidableEq, Repr

/-- One memory or span request of a fragment side (R130, R366): instance address and translated address of its
first byte, width code, bytes, addressing, and stream offset within the fragment. -/
structure Req where
  va    : Nat
  pa    : Nat
  width : Nat
  bytes : Nat
  fixed : Bool
  off   : Nat
  deriving DecidableEq, Repr

/-- A memory access of the Purser, or the reads of step LOAD (R296, R491): whether it writes, whether it reads the image, the
bytes to write or the bytes read so far by position, the requests not yet issued and the number outstanding, the failure (a
port status, or none for a translation), and when it began. -/
structure PurAcc where
  write : Bool := false
  image : Bool := false
  addr  : Nat := 0
  data  : List Byte := []
  reqs  : List Req := []
  out   : Nat := 0
  fail  : Option (Option Nat) := none
  at_   : Nat := 0
  deriving DecidableEq, Repr

/-- The Purser (R279 to R284). -/
structure Purser where
  state  : Nat := 0
  fail   : Nat := 0
  cmds   : Nat := 0
  ver    : Word := 0
  img    : Word := 0
  image  : List Byte := []
  sig    : List Byte := []
  cur    : Option Cmd := none
  defer  : List Deferred := []
  /-- the memory access under way -/
  acc    : Option PurAcc := none
  /-- the bus clock of the last acceptance (R293) -/
  accAt  : Option Nat := none
  deriving DecidableEq, Repr

/-- A share of the pool (R301, R302): eight cluster figures each for F, S, E, H, four fabric figures for RO, RI. -/
structure Share where
  f     : List Nat := []
  s     : List Nat := []
  e     : List Nat := []
  h     : List Nat := []
  ro    : List Nat := []
  ri    : List Nat := []
  qmax  : Nat := 0
  cmax  : Nat := 0
  ccs   : Nat := 0
  prate : Nat := 0
  deriving DecidableEq, Repr

/-- A plan accepted and not yet in effect (R311, R312). -/
structure Plan where
  slave  : Bool
  tol    : Nat
  period : Nat
  glass  : Nat
  inb    : List Nat
  recs   : List (Nat × (List Nat × List Nat × List Nat))
  deriving DecidableEq, Repr

/-- The block-wide part of the ledger (R301, R312, R337). -/
structure Ledger where
  plan    : Option Plan := none
  lastGen : List (Nat × Nat) := []
  deriving DecidableEq, Repr

/-- An event record (R242): code, SRC, the glass, the 24 payload bytes, the memory port it goes on (R237), the queue that caused
it, if one did (R225), and the bus clock on which it arose (R400). -/
structure EvRec where
  code  : Nat
  src   : Nat
  glass : Nat
  load  : List Byte
  port  : Nat
  queue : Option Nat
  arose : Nat := 0
  deriving DecidableEq, Repr

/-- States of an instance (R352). -/
inductive InstState where
  | absent
  | active
  | suspending
  | suspended
  | resetting
  | containing
  | contained
  | removing
  deriving DecidableEq, Repr

/-- What a LOG_CTL or a swap sets at the next bell (R310). -/
inductive LogNext where
  | on (base len : Nat)
  | off
  deriving DecidableEq, Repr

/-- One instance (08). -/
structure Inst where
  state   : InstState := .absent
  gen     : Nat := 0
  root    : Nat := 0
  /-- the share as accepted, and as in force in this glass -/
  led     : Share := {}
  eff     : Share := {}
  /-- allowances left in this glass, in bytes, and carries (R89, R95) -/
  leftF   : List Nat := []
  leftS   : List Nat := []
  leftRO  : List Nat := []
  leftRI  : List Nat := []
  carryF  : List Nat := []
  carryS  : List Nat := []
  carryRO : List Nat := []
  carryRI : List Nat := []
  chwSel  : Nat := 0
  evtEn   : Bool := false
  sizeM   : Nat := 7
  evtBase : Word := 0
  head    : Nat := 0
  tail    : Nat := 0
  lost    : Nat := 0
  /-- the bus clock on which COUNT of EVT_LOST rose from 0 last (R244), and that of the last answer to a record write (R399) -/
  lostAt  : Option Nat := none
  ackAt   : Option Nat := none
  /-- records waiting in order; a LOST record waits in front of those behind it (R244, R400) -/
  evWait  : List EvRec := []
  /-- the record write issued and not acknowledged (R399) -/
  evOut   : Option EvRec := none
  intEn   : Bool := false
  msi     : Bool := false
  msiAddr : Word := 0
  msiData : Word := 0
  /-- a trigger waiting or held: its port and the queue whose record caused it; then whether a write is outstanding
  and its queue (R225, R326) -/
  msiTrig : Option (Nat × Option Nat) := none
  msiOut  : Bool := false
  msiQ    : Option Nat := none
  msiPort : Nat := 0
  fv0     : Word := 0
  fv1     : Word := 0
  fvLast  : Word := 0
  fview   : Option Nat := none
  log     : Bool := false
  logBase : Nat := 0
  logLen  : Nat := 0
  logNext : Option LogNext := none
  /-- the settle wait of a reset or containment runs: it and the ages at which step 1 and step 4 began (R345, R348) -/
  settling : Bool := false
  stopAt  : Nat := 0
  settle  : Nat := 0
  /-- step 5 of a reset is past and its step 6, or the rest of a removal, is to come (R285, R306) -/
  renewed : Bool := false
  deriving DecidableEq, Repr

/-- Queue states (R207). -/
inductive QState where
  | off
  | polling
  | draining
  | halting
  | halted
  | fenced
  deriving DecidableEq, Repr

/-- QERR_INDEX (R230). -/
structure QErr where
  index  : Nat := 0
  lap    : Bool := false
  cause  : Nat := 0
  status : Nat := 0
  valid  : Bool := false
  deriving DecidableEq, Repr

/-- What stopped an entry (R269, R271, R272). -/
structure Stop where
  pos      : Nat
  idx      : Nat
  status   : Nat
  addr     : Nat := 0
  recIdx   : Nat := 0
  side     : Nat := 0
  portStat : Nat := 0
  deriving DecidableEq, Repr

/-- The budget a fragment is charged to (R89, R142): firm, or soft at a priority. -/
inductive Charge where
  | firm
  | soft (prio : Nat)
  deriving DecidableEq, Repr

/-- The manifest position of one side of a MAN_COPY (R260, R261). -/
structure ManSide where
  /-- records read so far -/
  recs    : Nat := 0
  /-- pieces read and not yet assigned, in order: record index, next address, bytes left -/
  pieces  : List (Nat × Nat × Nat) := []
  /-- a record read is wanted or under way (R261), with the stream position and index of the fragment that needs it -/
  reading : Option (Nat × Nat) := none
  deriving DecidableEq, Repr

/-- The completion overwrite of an entry (R273, R276). -/
inductive OvrState where
  | none
  | waiting
  | accepted
  deriving DecidableEq, Repr

/-- An open entry (R208, R211). -/
structure Entry where
  seq     : Nat
  slot    : Nat
  lap     : Bool
  raw     : List Byte
  gen     : Nat
  /-- malformed status of an entry taken malformed (R227, R233); 0 for a well-formed one -/
  bad     : Nat := 0
  started : Bool := false
  /-- fragments assigned so far, in processing order, and the stream position of the next one of a MAN_COPY -/
  nextK   : Nat := 0
  pos     : Nat := 0
  /-- fragments ever assigned: one given back (R121) stands between the two -/
  reach   : Nat := 0
  /-- places in processing order of fragments given back while one behind them is admitted (R121, R267) -/
  back    : List Nat := []
  mSrc    : ManSide := {}
  mDst    : ManSide := {}
  stop    : Option Stop := .none
  poison  : Bool := false
  /-- partial CRCs: position, length, CRC with seed 0 (R135) -/
  crcs    : List (Nat × Nat × Nat) := []
  /-- one more than the greatest index of a fragment that wrote -/
  wrote   : Nat := 0
  /-- fragments retired OK or POISONED: index and the stream position behind each (R346) -/
  okFrags : List (Nat × Nat) := []
  /-- ABORTED or CONTAINED (R346); 0 otherwise -/
  ended   : Nat := 0
  /-- completion bytes of a command (R298) -/
  rsp     : Option (List Byte) := .none
  ovr     : OvrState := .none
  /-- the bus clock on which its overwrite became due (R396) -/
  ovrAt   : Nat := 0
  taken   : Nat := 0
  deriving DecidableEq, Repr

/-- One queue (05). -/
structure Queue where
  inst    : Nat
  lnum    : Nat
  cluster : Nat
  strict  : Bool
  firm    : Bool
  prio    : Nat
  depth   : Nat
  k       : Nat
  n       : Nat
  base    : Word
  enable  : Bool := false
  head    : Nat := 0
  lap     : Bool := true
  state   : QState := .off
  poll    : Bool := false
  susp    : Bool := false
  /-- the outstanding poll's response is to be discarded (R224, R235) -/
  drop    : Bool := false
  due     : Nat := 0
  /-- a poll is due and not issued, with the queue's next due time as its deadline (R216) -/
  waiting : Bool := false
  done    : Nat := 0
  taken   : Nat := 0
  err     : QErr := {}
  /-- the 64 B of the malformed entry a strict queue halted on (R233) -/
  haltRaw : List Byte := []
  entries : List Entry := []
  nextSeq : Nat := 0
  dying   : Bool := false
  deriving DecidableEq, Repr

/-- Channel states (R162). -/
inductive ChState where
  | idle
  | armed
  | active
  | linkwait
  | pausing
  | paused
  | stopping
  | errdrain
  | error
  deriving DecidableEq, Repr

/-- Why a channel is being stopped (R191, R198). -/
inductive StopWish where
  | none
  | stop
  | reset
  | contain
  deriving DecidableEq, Repr

/-- The earliest failed burst of a transfer (R167, R195): position, length, ERR code, SIDE, STAT, and LATE. -/
structure BurstFail where
  pos   : Nat
  len   : Nat
  err   : Nat
  side  : Nat
  stat  : Nat
  late  : Bool
  deriving DecidableEq, Repr

/-- One channel (04). -/
structure Chan where
  owner   : Nat := 0
  ctl     : Word := 0
  high    : Nat := 0xFFF
  low     : Nat := 0
  cur     : Nat := 0
  limit   : Nat := 0
  count   : Nat := 0
  src     : Word := 0
  dst     : Word := 0
  remain  : Nat := 0
  cfg     : Word := 0
  next    : Word := 0
  shSrc   : Word := 0
  shDst   : Word := 0
  shLen   : Nat := 0
  shCfg   : Word := 0
  shNext  : Word := 0
  shValid : Bool := false
  /-- the bus clock on which a fetch filled the shadow set last, which a write of that bus clock still meets (R22), and the one on
  which FETCH rose last (R183) -/
  filled  : Option Nat := Option.none
  rose    : Option Nat := Option.none
  state   : ChState := .idle
  gate    : Bool := false
  susp    : Bool := false
  fetch   : Bool := false
  fetchAt : Nat := 0
  /-- the failed fetch of this activation: ERR code and STAT (R185) -/
  fetchBad : Option (Nat × Nat) := Option.none
  endc    : Nat := 0
  err     : Nat := 0
  errinfo : Word := 0
  xfers   : Nat := 0
  bursts  : Nat := 0
  /-- the transfer as it was made active: addresses and bytes, and the bytes assigned, read and written from there -/
  src0    : Word := 0
  dst0    : Word := 0
  len0    : Nat := 0
  asgd    : Nat := 0
  rdPos   : Nat := 0
  wrPos   : Nat := 0
  fail    : Option BurstFail := Option.none
  /-- one more than the position of the last burst written out (R167) -/
  wrote   : Nat := 0
  /-- position of the first burst discarded by a stop (R191, R197) -/
  cut     : Option Nat := Option.none
  wish    : StopWish := .none
  /-- CH_DONE of the transfer has been posted (R192) -/
  posted  : Bool := false
  deriving DecidableEq, Repr

/-- A context (R109): a queue or a channel. -/
inductive Context where
  | queue (g : Nat)
  | chan (n : Nat)
  deriving DecidableEq, Repr

/-- One side of a fragment on a port (R128): instance address of its first byte, width code, addressing. -/
structure Side where
  addr  : Nat
  width : Nat
  fixed : Bool
  deriving DecidableEq, Repr

/-- Phases of a fragment in the hold or draining (R118). -/
inductive FPhase where
  | assigned
  | reading
  | staged
  | writing
  | draining
  deriving DecidableEq, Repr

/-- What the request channel of a memory port carries (R30). -/
structure PortReq where
  write : Bool
  addr  : Nat
  size  : Nat
  beats : Nat
  fixed : Bool
  tag   : Tag
  deriving DecidableEq, Repr

/-- A leaf translation (R332): page base as an instance address, page size as a power of two, base of the page in the node,
and the permissions. -/
structure Leaf where
  va  : Nat
  log2 : Nat
  pa  : Nat
  r   : Bool
  w   : Bool
  rmt : Bool
  deriving DecidableEq, Repr

/-- A fragment or channel burst from assignment to retirement (R118). -/
structure Frag where
  id      : Nat
  ctx     : Context
  /-- sequence number of its entry in the queue; 0 for a channel -/
  entry   : Nat := 0
  /-- index in stream order, and place in the processing order of its entry -/
  idx     : Nat := 0
  ord     : Nat := 0
  row     : Nat := 0
  /-- stream position and length, and the position its swap units and pattern are counted from (R133, R136) -/
  pos     : Nat
  len     : Nat
  base    : Nat := 0
  src     : Option Side
  dst     : Option Side
  swap    : Nat
  /-- a CRC of its bytes is wanted, and the partial CRC once it is staged (R135) -/
  crcOn   : Bool := false
  crc     : Nat := 0
  /-- manifest records that describe it, source and destination (R261) -/
  recS    : Nat := 0
  recD    : Nat := 0
  inst    : Nat
  gen     : Nat
  cluster : Nat
  eng     : Nat := 0
  bank    : Nat := 0
  slot    : Option Nat := none
  phase   : FPhase := .assigned
  charge  : Charge
  /-- the hold space is still its own -/
  held    : Bool := true
  /-- the bus clock it was assigned at -/
  asgAt   : Nat := 0
  /-- the glass whose allowance is reserved for it from its assignment (R121, R552) -/
  resv    : Nat := 0
  admGlass : Nat := 0
  /-- its number in the order of admissions (R97, R144) -/
  admAt   : Nat := 0
  rdReqs  : List Req := []
  wrReqs  : List Req := []
  /-- read and write requests outstanding, write beats no port has accepted -/
  rdOut   : Nat := 0
  wrOut   : Nat := 0
  wrBeats : Nat := 0
  /-- 64 B lines of its stream that are poisoned (R140), and a beat sent poisoned for a check at write-out (R139) -/
  lines   : List Nat := []
  outPoison : Bool := false
  /-- a local read beat had status POISON (R167) -/
  poisStat : Bool := false
  /-- source failure, then destination failure: status code of R277 and port status (R125) -/
  srcErr  : Option (Nat × Nat) := none
  dstErr  : Option (Nat × Nat) := none
  halted  : Bool := false
  /-- it has waited for a log cache entry (R381) -/
  waited  : Bool := false
  /-- the fabric port of a remote side (R359) -/
  rport   : Option Nat := none
  wport   : Option Nat := none
  /-- its channel stops: it begins no write (R191); then, its instance is reset or contained, and the writes it had left
  are given up (R345) -/
  dead    : Bool := false
  cutOff  : Bool := false
  deriving DecidableEq, Repr

/-- Who a port request belongs to. -/
inductive Owner where
  | frag (id : Nat)
  | poll (g : Nat)
  | man (g seq : Nat) (dst : Bool)
  | link (n : Nat)
  | chart (x : XCtx) (va : Nat)
  | ovr (g seq : Nat)
  | evt (i : Nat)
  | msi (i : Nat)
  | pur
  | inb (id : Nat)
  | logRd (i line base : Nat)
  | logWr (i line base : Nat)
  /-- discarded: what a fault of it is still attributed to, with its DETAIL (R345, R410, R425) -/
  | gone (a : Attr) (d : Word)
  /-- retired by a timeout: only its slot stays occupied (R186) -/
  | late (a : Attr)
  deriving DecidableEq, Repr

/-- An outstanding read of a memory port (R35, R123): its tag, owner, stream offset of the next byte, bytes still due, and when it was
accepted; `first` until its first beat. -/
structure RdOut where
  slot  : Nat
  inst  : Nat
  gen   : Nat
  owner : Owner
  off   : Nat
  due   : Nat
  addr  : Nat
  width : Nat
  fixed : Bool
  top   : Bool
  at_   : Nat
  first : Bool := true
  deriving DecidableEq, Repr

/-- An outstanding write of a memory port (R35, R124), with the age at its acceptance. `stuck` marks a slot kept after a
settle timeout (R345). -/
structure WrOut where
  slot  : Nat
  inst  : Nat
  gen   : Nat
  owner : Owner
  addr  : Nat
  bytes : Nat
  at_   : Nat
  stuck : Bool := false
  deriving DecidableEq, Repr

/-- A write beat presented and not yet accepted (R131): the slot of its request, the owner, its bytes for a control
write, its place in the fragment's stream, and whether it is the last of the request. -/
structure WBeat where
  slot  : Nat
  owner : Owner
  addr  : Nat
  bytes : Nat
  off   : Nat
  data  : List Byte
  poison : Bool
  top   : Bool
  last  : Bool
  deriving DecidableEq, Repr

/-- The class a request is arbitrated in (R142). -/
inductive ArbClass where
  | top
  | background
  | soft (prio : Nat)
  deriving DecidableEq, Repr

/-- A request waiting on the control path of a memory port (R143). -/
structure CtlReq where
  owner : Owner
  write : Bool
  inst  : Nat
  gen   : Nat
  addr  : Nat
  /-- instance address, for logging and detail -/
  va    : Nat
  bytes : Nat
  width : Nat
  cls   : ArbClass
  data  : List Byte
  /-- place of its bytes in an access of the Purser -/
  off   : Nat := 0
  poison : List Nat := []
  /-- counted in LOG_STAT.WAITS (R381) -/
  waited : Bool := false
  deriving DecidableEq, Repr

/-- One memory port and its cluster (R30, R35, R141 to R143). -/
structure MPort where
  rd     : List RdOut := []
  wr     : List WrOut := []
  /-- slots of requests outstanding when the block was last reset, whose responses are discarded (R64) -/
  oldRd  : List Nat := []
  oldWr  : List Nat := []
  wq     : List WBeat := []
  ctl    : List CtlReq := []
  /-- requester after which round robin goes on, for each class (R143) -/
  rr     : List (Nat × Nat) := []
  /-- context after which the dispatcher goes on, for each class (R120) -/
  drr    : List (Nat × Nat) := []
  rdPar  : Nat := 0
  rdPois : Nat := 0
  outPar : Nat := 0
  wrErr  : Nat := 0
  lastReq : Option PortReq := none
  lastBeat : Option WBeat := none
  deriving DecidableEq, Repr

/-- A span message sent (R362): destination node, the header's 64 B, the data flits. -/
structure Msg where
  node  : Nat
  hdr   : List Byte
  flits : List (List Byte)
  deriving DecidableEq, Repr

/-- An outbound request slot in use (R361, R364, R373). -/
structure FSlot where
  idx   : Nat
  epoch : Nat
  node  : Nat
  inst  : Nat
  gen   : Nat
  owner : Owner
  write : Bool
  addr  : Nat
  bytes : Nat
  off   : Nat
  sent  : Nat
  tmo   : Nat
  msg   : Msg
  cls   : ArbClass
  cluster : Nat
  busyAt : Option Nat := none
  deriving DecidableEq, Repr

/-- A message waiting for the transmit side: its class (R146), whether the inbound response path offers it, and
the message. -/
structure TxMsg where
  cls  : ArbClass
  resp : Bool
  cluster : Nat
  firm : Bool
  msg  : Msg
  deriving DecidableEq, Repr

/-- One fabric port (R37, R361, R378). -/
structure FPort where
  linkup : Bool := false
  /-- LINKUP has been high since start-up (R413) -/
  seen   : Bool := false
  slots  : List FSlot := []
  epochs : List (Nat × Nat) := []
  tx     : List TxMsg := []
  rr     : List (Nat × Nat) := []
  tmo    : Nat := 0
  absent : Nat := 0
  err    : Nat := 0
  busy   : Nat := 0
  lastMsg : Option Msg := none
  deriving DecidableEq, Repr

/-- An inbound request being served (R370). -/
structure Inb where
  id    : Nat
  port  : Nat
  src   : Nat
  hdr   : List Byte
  write : Bool
  cluster : Nat
  reqs  : List Req
  out   : Nat := 0
  /-- payload: bytes to write, or bytes read so far by position -/
  data  : List Byte
  /-- poisoned payload lines, and payload bytes that failed parity on arrival -/
  lines : List Nat := []
  par   : List Nat := []
  /-- first failing status in address order -/
  bad   : Option (Nat × Nat) := none
  firm  : Bool
  deriving DecidableEq, Repr

/-- One chart cache entry (R332). -/
structure CacheEnt where
  inst : Nat
  leaf : Leaf
  deriving DecidableEq, Repr

/-- A chart walk in progress (R331): who needs it, the page, and the level whose read is made. -/
structure Walk where
  ctx   : XCtx
  inst  : Nat
  va    : Nat
  port  : Nat
  cls   : ArbClass
  level2 : Option (Nat × Nat) := none
  /-- its read is on the control path or outstanding -/
  busy  : Bool := false
  again : Bool := false
  deriving DecidableEq, Repr

/-- A finished walk whose result its access has not used: a leaf, or a cause of failure (R329, R332). -/
structure Walked where
  ctx   : XCtx
  va    : Nat
  leaf  : Option Leaf
  cause : Nat
  deriving DecidableEq, Repr

/-- State of a log cache entry's flush (R382). -/
inductive FlushState where
  | idle
  | reading
  | writing
  deriving DecidableEq, Repr

/-- One log cache entry (R381): instance, line, the bitmap it belongs to, pending bits as a list of page
numbers within the line, bits taken by a flush. -/
structure LogLine where
  inst   : Nat
  line   : Nat
  base   : Nat
  bits   : List Nat
  since  : Nat
  queued : Bool := false
  flush  : FlushState := .idle
  taken  : List Nat := []
  deriving DecidableEq, Repr

/-- One engine (R112, R116, R148, R150). -/
structure Eng where
  halted   : Bool := false
  clearing : Bool := false
  clearAt  : Nat := 0
  lastInst : Nat := 0
  deriving DecidableEq, Repr

/-- What belongs to this bus clock alone; a bus clock that passes leaves it empty. -/
structure Clock where
  /-- what it has brought to registers that software and hardware may both change on it (R22): register writes by byte offset, and
  bits that hardware has set in W1C registers -/
  wrote : List (Nat × Word) := []
  sets  : List (Nat × Word) := []
  /-- counters and capture inputs as held during it, from their first change on it (R450), HALT and FREEZE likewise (R463, R464),
  and DR_STAT and DR_MADE if it is an exit edge (R466, R471) -/
  cnt   : List (Nat × Tmr) := []
  cap   : List (Nat × Cap) := []
  dbg   : Option (Bool × Bool) := none
  exit  : Option (Word × Word) := none
  /-- inputs that have captured on it, and whether a capture replaced a value that no read of it has met (R460) -/
  took  : List (Nat × Bool) := []
  /-- a locked bell has rung at PERIOD + TOL of it, and no edge has come (R73) -/
  awaits : Bool := false
  /-- a register access accepted before a reset completes on the next bus clock (R64) -/
  owed  : Bool := false
  /-- its end is being detected (R411, R460) -/
  ending : Bool := false
  deriving DecidableEq, Repr

/-- The state of the block. -/
structure State where
  pending : List Instr := []
  now     : Nat := 0
  age     : Nat := 0
  clk     : Clock := {}
  pwr     : Power := {}
  glb     : Glob := {}
  bell    : Bell := {}
  gls     : Glass := {}
  tmr     : Timers := {}
  flt     : Collector := {}
  droop   : Droop := {}
  mbs     : List (Nat × Mbox) := []
  pur     : Purser := {}
  led     : Ledger := {}
  insts   : List (Nat × Inst) := []
  queues  : List (Nat × Queue) := []
  chans   : List (Nat × Chan) := []
  engs    : List (Nat × Eng) := []
  frags   : List Frag := []
  nextId  : Nat := 1
  hold    : List Host.Cell := []
  ports   : List (Nat × MPort) := []
  fabs    : List (Nat × FPort) := []
  inbs    : List Inb := []
  nextInb : Nat := 0
  /-- the lookout issues no poll before this age (R216) -/
  pollAt  : Nat := 0
  cc      : List CacheEnt := []
  walks   : List Walk := []
  walked  : List Walked := []
  logc    : List LogLine := []
  deriving DecidableEq, Repr

/-- The block right after the release of reset (R21, R489, R520): every register at its Reset value, step FUSE,
nothing listed in any table. -/
def State.reset : State := {}

end Sys2Proof.Machine
end

