-- ==== Sys2Proof/Machine/Ops.lean ====
section
/-! DEFINITION. Named operations over the parts of State: access by number, the hold's bytes, raising a fault
condition, capacities, and the conditions under which the block works. -/

namespace Sys2Proof.Machine

open Sys2Proof

/-- What a step answers. -/
abbrev Result := Host.Outcome State Fault Refusal

/-! ### Access by number -/

/-- Instance i (R315). -/
def State.inst (s : State) (i : Nat) : Inst := tabGet {} s.insts i

/-- Instance i changed by a function. -/
def State.updInst (s : State) (i : Nat) (f : Inst → Inst) : State :=
  { s with insts := tabUpd {} s.insts i f }

/-- Channel n (R156). -/
def State.chan (s : State) (n : Nat) : Chan := tabGet {} s.chans n

/-- Channel n changed by a function. -/
def State.updChan (s : State) (n : Nat) (f : Chan → Chan) : State :=
  { s with chans := tabUpd {} s.chans n f }

/-- Queue g if it exists (R200). -/
def State.queue? (s : State) (g : Nat) : Option Queue := (s.queues.find? (fun p => p.1 == g)).map (·.2)

/-- Queue g changed by a function, if it exists. -/
def State.updQueue (s : State) (g : Nat) (f : Queue → Queue) : State :=
  match s.queue? g with
  | some q => { s with queues := tabSet s.queues g (f q) }
  | none => s

/-- The queue of an instance under a local number, with its global number (R200, R205). -/
def State.localQueue (s : State) (i l : Nat) : Option (Nat × Queue) :=
  s.queues.find? (fun p => p.2.inst == i && p.2.lnum == l)

/-- Engine e (R109). -/
def State.eng (s : State) (e : Nat) : Eng := tabGet {} s.engs e

/-- Engine e changed by a function. -/
def State.updEng (s : State) (e : Nat) (f : Eng → Eng) : State :=
  { s with engs := tabUpd {} s.engs e f }

/-- Memory port c (R30). -/
def State.port (s : State) (c : Nat) : MPort := tabGet {} s.ports c

/-- Memory port c changed by a function. -/
def State.updPort (s : State) (c : Nat) (f : MPort → MPort) : State :=
  { s with ports := tabUpd {} s.ports c f }

/-- Fabric port f (R37). -/
def State.fab (s : State) (f : Nat) : FPort := tabGet {} s.fabs f

/-- Fabric port f changed by a function. -/
def State.updFab (s : State) (f : Nat) (g : FPort → FPort) : State :=
  { s with fabs := tabUpd {} s.fabs f g }

/-- Mailbox m (R286). -/
def State.mb (s : State) (m : Nat) : Mbox := tabGet {} s.mbs m

/-- Mailbox m changed by a function. -/
def State.updMb (s : State) (m : Nat) (f : Mbox → Mbox) : State :=
  { s with mbs := tabUpd {} s.mbs m f }

/-- Counter n (R449). -/
def State.counter (s : State) (n : Nat) : Tmr := tabGet {} s.tmr.cnt n

/-- Counter n changed by a function. -/
def State.updCounter (s : State) (n : Nat) (f : Tmr → Tmr) : State :=
  { s with tmr := { s.tmr with cnt := tabUpd {} s.tmr.cnt n f } }

/-- Capture input i (R457). -/
def State.capture (s : State) (i : Nat) : Cap := tabGet {} s.tmr.cap i

/-- Capture input i changed by a function. -/
def State.updCapture (s : State) (i : Nat) (f : Cap → Cap) : State :=
  { s with tmr := { s.tmr with cap := tabUpd {} s.tmr.cap i f } }

/-- Byte and beat counts of memory port c in this glass (R103). -/
def State.updAcc (s : State) (c : Nat) (f : PortAcc → PortAcc) : State :=
  { s with gls := { s.gls with acc := tabUpd {} s.gls.acc c f } }

/-- Byte counts of fabric port f in this glass (R104). -/
def State.updFabAcc (s : State) (f : Nat) (g : FabAcc → FabAcc) : State :=
  { s with gls := { s.gls with fab := tabUpd {} s.gls.fab f g } }

/-- The fragment with an id, if it is in flight. -/
def State.frag? (s : State) (id : Nat) : Option Frag := s.frags.find? (fun f => f.id == id)

/-- One fragment changed by a function. -/
def State.updFrag (s : State) (id : Nat) (g : Frag → Frag) : State :=
  { s with frags := s.frags.map (fun f => if f.id = id then g f else f) }

/-- A fragment taken away. -/
def State.dropFrag (s : State) (id : Nat) : State :=
  { s with frags := s.frags.filter (fun f => f.id != id) }

/-- One open entry of a queue changed by a function. -/
def Queue.updEntry (q : Queue) (seq : Nat) (f : Entry → Entry) : Queue :=
  { q with entries := q.entries.map (fun e => if e.seq = seq then f e else e) }

/-- One open entry, if the queue has it. -/
def Queue.entry? (q : Queue) (seq : Nat) : Option Entry := q.entries.find? (fun e => e.seq == seq)

/-- One open entry of queue g changed by a function. -/
def State.updEntry (s : State) (g seq : Nat) (f : Entry → Entry) : State :=
  s.updQueue g (fun q => q.updEntry seq f)

/-- A list of numbers with element k set, padded with zeros up to it. -/
def setNth : List Nat → Nat → Nat → List Nat
  | [], 0, v => [v]
  | [], k + 1, v => 0 :: setNth [] k v
  | _ :: xs, 0, v => v :: xs
  | x :: xs, k + 1, v => x :: setNth xs k v

/-! ### The hold's bytes (R112) -/

/-- What a byte of the hold that is not listed reads as: MEMINIT and a wake from SLEEP zero the hold (R478, R489). -/
def holdDefault : Byte := 0

/-- The byte at a hold address. -/
def Memory.read (m : List Host.Cell) (a : Nat) : Byte := tabGet holdDefault m a

/-- A hold with one byte written; a byte equal to the default is not listed. -/
def Memory.write (m : List Host.Cell) (a : Nat) (b : Byte) : List Host.Cell :=
  if b = holdDefault then tabErase m a else tabSet m a b

/-- A hold with consecutive bytes written. -/
def Memory.writes : List Host.Cell → Nat → List Byte → List Host.Cell
  | m, _, [] => m
  | m, a, b :: bs => Memory.writes (Memory.write m a b) (a + 1) bs

/-- n consecutive bytes. -/
def Memory.reads (m : List Host.Cell) (a n : Nat) : List Byte :=
  (List.range n).map (fun k => Memory.read m (a + k))

/-- The canonical form: addresses rise strictly and no listed byte is the default. -/
abbrev Memory.wf (m : List Host.Cell) : Prop :=
  m.Pairwise (fun a b => a.1 < b.1) ∧ ∀ c ∈ m, c.2 ≠ holdDefault

/-- The hold address of a bank or slot: engine, bank, and slot of 4,096 B (R112). -/
def holdAddr (eng bank : Nat) (slot : Option Nat) : Nat :=
  (eng * 2 + bank) * 65536 + (slot.getD 0) * 4096

/-- The hold address of a fragment's first byte. -/
def Frag.at_ (f : Frag) : Nat := holdAddr f.eng f.bank f.slot

/-! ### Conditions of the block -/

/-- The domain is powered, out of reset and not fused absent (R60). -/
def State.isPresent (s : State) : Bool := s.pwr.bound == .present

/-- Isolated: Fatal or Lockdown (R60). -/
def State.isolated (s : State) : Bool := s.pwr.fatal || s.pwr.lockdown

/-- The clusters are clocked (R473): not in DOZE, SLEEP and WAKING. -/
def Power.clocked (p : Power) : Bool := p.phase == .run || p.phase == .entering

/-- The holds are without power (R476), which they leave with the end of the wake: SLEEP, and WAKING from it. -/
def Power.holdsOff (p : Power) : Bool := p.phase == .sleep || (p.phase == .waking && p.target == 2)

/-- The block works: Present and not isolated; otherwise nothing of the data path happens and responses are
discarded (R64, R445). -/
def State.up (s : State) : Bool := s.isPresent && !s.isolated

/-- A freeze is in force (R464). -/
def State.frozen (s : State) : Bool := s.glb.halt && s.glb.freeze

/-- The block issues and assigns new work: RUN, no freeze, the exit edge of the last wake past (R71, R475, R478, R503). -/
def State.newWork (s : State) : Bool :=
  s.up && s.bell.running && s.pwr.phase == .run && !s.pwr.timeHeld && !s.frozen

/-- The ports issue requests: in RUN, and in ENTERING up to the quiescence point, in a freeze too (R475, R476, R503). -/
def State.issues (s : State) : Bool :=
  s.up && (s.pwr.phase == .run || (s.pwr.phase == .entering && !s.pwr.quiesced))

/-- HALT and FREEZE as held during this bus clock (R450), and the freeze in force on it (R464). -/
def State.heldDbg (s : State) : Bool × Bool := s.clk.dbg.getD (s.glb.halt, s.glb.freeze)
def State.frozenHeld (s : State) : Bool := s.heldDbg.1 && s.heldDbg.2

/-- HALT and FREEZE are kept as held during this bus clock, before their first change on it. -/
def State.noteDbg (s : State) : State := { s with clk := { s.clk with dbg := some s.heldDbg } }

/-- The counters and the bell hold on this bus clock: from the one after the entry edge to the exit edge (R465, R466). -/
def State.timeStands (s : State) : Bool := s.clk.exit.isSome || (s.pwr.timeHeld && s.pwr.lowAt != s.now)

/-- The number of this node, SPAN_CTL.NODE (R355). -/
def State.node (s : State) : Nat := fld s.glb.spanCtl 9 0

/-- The node field of an instance address (R354). -/
def nodeOf (a : Nat) : Nat := a / 2 ^ 54 % 1024

/-- The node-local part of an address (R354). -/
def localOf (a : Nat) : Nat := a % 2 ^ 54

/-- The cluster of a context (R110). -/
def State.clusterOf (s : State) : Context → Nat
  | .chan n => n / 64
  | .queue g => match s.queue? g with | some q => q.cluster | none => 0

/-- Place of a context in the dispatcher's order: channels, then queues (R120). -/
def Context.order : Context → Nat
  | .chan n => n
  | .queue g => 512 + g

/-! ### Writes and updates of one bus clock (R22) -/

/-- Register writes of this bus clock: one at a byte offset is noted, and looked up. -/
def State.noteWrite (s : State) (off : Nat) (v : Word) : State := { s with clk := { s.clk with wrote := tabSet s.clk.wrote off v } }
def State.written (s : State) (off : Nat) : Option Word := (s.clk.wrote.find? (fun p => p.1 == off)).map (·.2)

/-- A hardware update of RW fields of the register at an offset is lost if software has written it on this bus clock. -/
def State.unlessWritten (s : State) (off : Nat) (f : State → State) : State := if (s.written off).isSome then s else f s

/-- Hardware has set bits of the W1C register at an offset on this bus clock: a clear on it leaves them set. -/
def State.noteSet (s : State) (off : Nat) (bits : Word) : State :=
  { s with clk := { s.clk with sets := tabSet s.clk.sets off (tabGet 0 s.clk.sets off ||| bits) } }

/-- The bits that a write of 1s clears in the W1C register at an offset. -/
def State.clears (s : State) (off : Nat) (v : Word) : Word := v &&& ~~~(tabGet 0 s.clk.sets off)

/-- GO of the W1S register at an offset has been written with 1 on this bus clock: a clear on it is followed by the new request. -/
def State.goAgain (s : State) (off : Nat) : Option Word := (s.written off).filter (fun v => bit v 63)

/-! ### Faults -/

/-- Whether a source is a level source (R413). -/
def srcLevel (k : Nat) : Bool := k == 19 || k == 58 || (60 ≤ k && k ≤ 63) || (68 ≤ k && k ≤ 70) || k == 73

/-- The class a source's SEV resets to (R413, R525). -/
def srcDefault (k : Nat) : Nat :=
  if k ∈ [15, 36, 38, 39, 40, 42] then 1
  else if k = 37 then 2
  else if k ∈ [12, 13, 43, 44, 45] then 3
  else if k ∈ [16, 17, 59, 18, 41, 72, 74, 78, 79] then 4
  else if k ∈ [48, 76] then 5
  else 0

/-- The lowest class a source's SEV may hold (R413, R525). -/
def srcFloor (k : Nat) : Nat :=
  if k = 37 then 2
  else if k ∈ [13, 43, 44, 45] then 3
  else if k ∈ [18, 41, 72, 74, 78, 79] then 4
  else if k ∈ [48, 76] then 5
  else 0

/-- Whether a source's SEV is fixed at Lockdown (R413). -/
def srcFixed (k : Nat) : Bool := k == 48 || k == 76

/-- Whether a source number is used (R413). -/
def srcUsed (k : Nat) : Bool := k < 80

/-- The kind of a source: BLOCK 0, ENGINE 1, QUEUE 2, CHANNEL 3, PURSER 4, FPORT 5, MPORT 6, WORD 7 (R409, R413). -/
def srcKind (k : Nat) : Nat :=
  if k ∈ [8, 9, 10, 11, 12, 13, 14, 15, 49, 53, 54, 55, 56, 57] then 1
  else if k ∈ [21, 22, 23, 24, 25, 26, 27] then 2
  else if k ∈ [32, 33, 34] then 3
  else if k ∈ [44, 45, 46, 47, 48] then 4
  else if k ∈ [50, 51, 52, 58, 59, 60, 61, 62, 63] then 5
  else if k ∈ [3, 4, 5, 16, 17, 18, 19, 20] then 6
  else if k ∈ [36, 37, 38, 39, 40, 41, 42, 43] then 7
  else 0

/-- The registers of source k (R414). -/
def State.src (s : State) (k : Nat) : Src := tabGet { sev := srcDefault k } s.flt.srcs k

/-- The registers of source k changed by a function. -/
def State.updSrc (s : State) (k : Nat) (f : Src → Src) : State :=
  { s with flt := { s.flt with srcs := tabSet s.flt.srcs k (f (s.src k)) } }

/-- A condition found: it waits for its detection bus clock (R411). -/
def State.raise (s : State) (source kind unit : Nat) (inst : Option Nat) (detail : Word := 0) (xcause : Option Nat := none) :
    State :=
  { s with flt := { s.flt with waiting := s.flt.waiting ++
      [{ source, attr := { kind, unit, inst }, detail, xcause, present := true }] } }

/-- The condition of a level source begins or ends (R417). -/
def State.level (s : State) (source kind unit : Nat) (present : Bool) : State :=
  { s with flt := { s.flt with waiting := s.flt.waiting ++
      [{ source, attr := { kind, unit, inst := none }, detail := 0, xcause := none, present }] } }

/-- The kind and unit of a detection on work of a context that no engine carries (R410). -/
def Context.attr (x : Context) (inst : Nat) : Attr :=
  match x with
  | .queue g => { kind := 2, unit := g, inst := some inst }
  | .chan n => { kind := 3, unit := n, inst := some inst }

/-- A condition found, with its attribution given whole. -/
def State.raiseAt (s : State) (source : Nat) (a : Attr) (detail : Word := 0) (xcause : Option Nat := none) : State :=
  s.raise source a.kind a.unit a.inst detail xcause

/-- A request of the Purser's memory access, or a chart read for one (R296). -/
def Owner.isPur : Owner → Bool
  | .pur => true
  | .chart .pur _ => true
  | _ => false

/-- Requests of the Purser that no port has accepted are not made. -/
def State.dropPur (s : State) : State :=
  { s with ports := s.ports.map (fun p => (p.1, { p.2 with ctl := p.2.ctl.filter (fun r => !r.owner.isPur) })) }

/-- The memory access under way is one the Purser makes for a command: the block itself reads the image (R296, R491). -/
def Purser.forCommand (p : Purser) : Bool := p.acc.all (fun a => !a.image)

/-- The Purser stops after a fault (R285), and with it what it has not issued for the command in progress. -/
def State.haltPurser (s : State) : State :=
  { (if s.pur.forCommand then s.dropPur else s) with pur := { s.pur with state := 5 } }

/-- Codes of PWR_STAT.WAKE (R474). -/
def wakeCode : WakeCause → Nat
  | .pin => 1
  | .fabric => 2
  | .register => 3
  | .fault => 4

/-- The lowest cause of several (R474). -/
def lowestCause (h : Option WakeCause) (c : WakeCause) : WakeCause :=
  match h with
  | some d => if wakeCode d < wakeCode c then d else c
  | none => c

/-- A wake event (R477): in DOZE and SLEEP the block wakes with the next bus clock; from the quiescence point to the entry edge it
is held; elsewhere it has no effect. -/
def State.wakeBy (s : State) (c : WakeCause) : State :=
  match s.pwr.phase with
  | .doze => { s with pwr := { s.pwr with woke := some (lowestCause s.pwr.woke c) } }
  | .sleep => { s with pwr := { s.pwr with woke := some (lowestCause s.pwr.woke c) } }
  | .entering => if s.pwr.quiesced then { s with pwr := { s.pwr with held := some (lowestCause s.pwr.held c) } } else s
  | _ => s

/-- What a register write steers: at once, or once RUN is reached if the clusters hold no clock (R477, R507). -/
def State.steer (s : State) (l : Later) (f : State → State) : State :=
  if s.pwr.clocked then f s else { s with pwr := { s.pwr with later := s.pwr.later ++ [l] } }

/-! ### Offsets of registers that hardware updates too (R22, R516) -/

/-- FV_CNT0 and FV_CNT1 of instance i, CLU_ERR[c], SPAN_STAT[f], register r of channel n, FLT_SRC[k], TMR_CTL, TMR_CNT and TMR_STAT of counter n,
CAP_STAT of input i, MB_STAT[m], ENG_CTL[e]. -/
def fvOff (i k : Nat) : Nat := 0x100C080 + 0x10000 * i + 8 * k
def cluErrOff (c : Nat) : Nat := 0x201010 + 0x100 * c
def spanStatOff (f : Nat) : Nat := 0xC20 + 8 * f
def chOff (n r : Nat) : Nat := 0x100000 + r + 0x100 * n
def srcOff (k : Nat) : Nat := 0x4000 + 8 * k
def tmrCtlOff (n : Nat) : Nat := 0x2000 + 0x20 * n
def tmrCntOff (n : Nat) : Nat := 0x2008 + 0x20 * n
def tmrStatOff (n : Nat) : Nat := 0x2018 + 0x20 * n
def capStatOff (i : Nat) : Nat := 0x2810 + 0x20 * i
def mbStatOff (m : Nat) : Nat := 0x10088 + 0x100 * m
def engCtlOff (e : Nat) : Nat := 0x200400 + 8 * e

/-- Software has written register r of channel n on this bus clock: what hardware brings to its fields is lost (R22). -/
def State.chKept (s : State) (n r : Nat) : Bool := (s.written (chOff n r)).isSome

/-- One count of a fault view raised by 1 (R322). -/
def bump (w : Word) (hi lo : Nat) : Word := setFld w hi lo (satAdd 16 (fld w hi lo) 1)

/-- A count of FV_CNT0 (k = 0) or FV_CNT1 (k = 1) of instance i rises by 1 (R322). -/
def State.fvCount (s : State) (i k hi lo : Nat) : State :=
  s.unlessWritten (fvOff i k) (fun s =>
    s.updInst i (fun x => if k = 0 then { x with fv0 := bump x.fv0 hi lo } else { x with fv1 := bump x.fv1 hi lo }))

/-! ### Capacities (R76, R82) -/

/-- P of R76. -/
def Bell.p (b : Bell) : Nat := if bit b.ctl 0 then b.period - fld b.ctl 31 24 else b.period

/-- PORT_FULL, PORT_RES, PORT_FIRM, PORT_S50 for a glass of P bus clocks. -/
def portFull (p : Nat) : Nat := p / 16
def portRes (p : Nat) : Nat := ceilDiv p 800
def portFirm (p : Nat) : Nat := 3 * p / 64 - portRes p
def portS50 (p : Nat) : Nat := p / 32 - portRes p

/-- BLOCK_FULL and BLOCK_FIRM. -/
def blockFull (p : Nat) : Nat := p / 2
def blockFirm (p : Nat) : Nat := 3 * p / 8 - ceilDiv p 100

/-- FAB_FULL, FAB_FIRM and FAB_S50. -/
def fabFull (p : Nat) : Nat := 25 * p / 512
def fabFirm (p : Nat) : Nat := 3 * p / 64
def fabS50 (p : Nat) : Nat := p / 32

/-- Polls of a queue with exponent n in a glass of P bus clocks (R87). -/
def pollsPerGlass (p n : Nat) : Nat := ceilDiv (2 * p) (64 * 2 ^ n)

/-- CTRL[c] for given queues (R87). -/
def ctrlOf (p : Nat) (qs : List (Nat × Queue)) (c : Nat) : Nat :=
  ceilDiv (192 * total ((qs.filter (fun q => q.2.cluster == c)).map (fun q => pollsPerGlass p q.2.n))) 4096

/-- CTRL[c] of the queues that exist (R87). -/
def State.ctrl (s : State) (c : Nat) : Nat := ctrlOf s.bell.p s.queues c

/-- Poll rate of a queue with exponent n, in the units of R218. -/
def pollRate (n : Nat) : Nat := 2 ^ (24 - n)

/-- Bytes of a number of budget units (R79). -/
def units (n : Nat) : Nat := 4096 * n

/-! ### Owner states -/

/-- The instance takes new work: ACTIVE (R352). -/
def State.active (s : State) (i : Nat) : Bool := (s.inst i).state == .active

/-- The instance exists (R315). -/
def State.exists_ (s : State) (i : Nat) : Bool := (s.inst i).state != .absent

/-- The instance is in its reset sequence (R499). -/
def State.inReset (s : State) (i : Nat) : Bool :=
  (s.inst i).state == .resetting || (s.inst i).state == .removing

/-- The instance is contained or being contained (R499). -/
def State.isContained (s : State) (i : Nat) : Bool :=
  (s.inst i).state == .containing || (s.inst i).state == .contained

/-- Codes of the instance states (R352). -/
def InstState.code : InstState → Nat
  | .absent => 0
  | .active => 1
  | .suspending => 2
  | .suspended => 3
  | .resetting => 4
  | .containing => 5
  | .contained => 6
  | .removing => 7

end Sys2Proof.Machine
end

