-- ==== Sys2Proof/Machine/Events.lean ====
section
/-! DEFINITION. Event records: posting, loss, the LOST record, the ring's positions, the instance interrupt and its
MSI triggers (05, 08, 10). -/

namespace Sys2Proof.Machine

open Sys2Proof

/-- The advance from HEAD to a position, (position − HEAD) mod 2^(m + 1) (R241). DESIGN CHOICE (log 83): a HEAD that a smaller SIZE_M
leaves too great counts modulo 2^(m + 1). -/
def Inst.advance (x : Inst) (v : Nat) : Nat :=
  let m := 2 ^ (x.sizeM + 1)
  (v + (m - x.head % m)) % m

/-- (TAIL − HEAD) mod 2^(m + 1): records written and not consumed (R241). -/
def Inst.unread (x : Inst) : Nat := x.advance x.tail

/-- Slots of the ring that are or will be held (R244). -/
def Inst.ringUse (x : Inst) : Nat := x.unread + b2n x.evOut.isSome + x.evWait.length

/-- The ring is full for an arising event (R244). -/
def Inst.ringFull (x : Inst) : Bool := 2 ^ x.sizeM ≤ x.ringUse

/-- Events waiting under R400; a LOST record is none. -/
def Inst.evPlaces (x : Inst) : Nat := (x.evWait.filter (fun r => r.code != 1)).length

/-- The ring is full for an arising event, or no waiting place is left (R244, R400). -/
def State.noPlace (s : State) (i : Nat) : Bool :=
  (s.inst i).ringFull || 64 ≤ (s.inst i).evPlaces || 8192 ≤ total (s.insts.map (fun p => p.2.evPlaces))

/-- The instance interrupt is pending (R323); it stops with step 1 of a reset (R345). -/
def Inst.irq (x : Inst) : Bool :=
  x.intEn && x.evtEn && x.tail != x.head && x.state != .resetting && x.state != .removing

/-- An event of instance i is counted lost; the first after a marker raises EVT_LOST (R244, R413). -/
def State.loseEvent (s : State) (i : Nat) (n : Nat := 1) : State :=
  let s' := s.updInst i (fun x => { x with
    lost := satAdd 32 x.lost n, lostAt := if x.lost = 0 ∧ n ≠ 0 then some s.now else x.lostAt })
  if (s.inst i).lost = 0 && n ≠ 0 then s'.raise 30 0 0 (some i) else s'

/-- A record with its glass and payload, on the port of a cluster (R237, R242). -/
def State.record (s : State) (code src : Nat) (load : List Byte) (port : Nat) (queue : Option Nat := none) : EvRec :=
  { code, src, glass := s.bell.glass, load := load ++ zeros (24 - load.length), port, queue, arose := s.now }

/-- The LOST record of instance i joins the waiting records and COUNT returns to 0 (R244). -/
def State.addLost (s : State) (i : Nat) : State :=
  s.updInst i (fun x => { x with
    evWait := x.evWait ++ [s.record 1 0 (leBytes 4 x.lost) (i % 8)]
    lost := 0 })

/-- The ring of instance i takes a LOST record on this bus clock (R244): not on the one on which COUNT left 0, nor while the clusters
hold no clock (R473, R477). -/
def State.lostDue (s : State) (i : Nat) : Bool :=
  (s.inst i).evtEn && (s.inst i).lost != 0 && (s.inst i).lostAt != some s.now && !(s.inst i).ringFull && s.up &&
    s.pwr.clocked && !s.inReset i

/-- Place of an event among those of its bus clock (R400): queue events by local number, channel events by number, notices. -/
def EvRec.key (r : EvRec) : Nat := min (r.code / 16) 3 * 65536 + (if r.code < 48 then r.src else 0)

/-- An event takes its place behind the waiting records: before those of its own bus clock that R400 orders after it. -/
def evInsert (r : EvRec) (l : List EvRec) : List EvRec :=
  let behind := l.reverse.takeWhile (fun e => e.arose == r.arose && e.code != 1 && r.key < e.key)
  l.take (l.length - behind.length) ++ r :: behind.reverse

/-- An event of instance i arises (R243, R244, R400). Nothing is made for an absent or resetting instance (R345) or
while the block is isolated (R431). Of the events of one bus clock the last in the order of R400 finds no place first. -/
def State.post (s : State) (i : Nat) (r : EvRec) : State :=
  if s.isolated || !s.exists_ i || s.inReset i then s
  else
    let s := if s.lostDue i then s.addLost i else s
    if !(s.inst i).evtEn then s.loseEvent i
    else if s.noPlace i then
      (s.updInst i (fun x => { x with evWait := (evInsert r x.evWait).take x.evWait.length })).loseEvent i
    else s.updInst i (fun x => { x with evWait := evInsert r x.evWait })

/-- The 32 bytes of a record written at the present TAIL (R242). -/
def Inst.recBytes (x : Inst) (r : EvRec) : List Byte :=
  leBytes 4 (b2n (!(x.tail.testBit x.sizeM)) * 2 ^ 31 + r.code * 2 ^ 16 + r.src) ++
    leBytes 4 (r.glass % 2 ^ 32) ++ r.load

/-- The instance address of the slot the next record is written to (R241). -/
def Inst.recAddr (x : Inst) : Nat := x.evtBase.toNat + 32 * (x.tail % 2 ^ x.sizeM)

/-- A trigger of an MSI write while INT_CTL.MSI is 1; at most one is held (R326). DESIGN CHOICE (log 82): a held trigger keeps the port
and the queue of its first cause; a second record finds it held, and that record's queue does not wait for the write. -/
def State.msiTrigger (s : State) (i port : Nat) (queue : Option Nat) : State :=
  if (s.inst i).msi && (s.inst i).msiTrig.isNone then
    s.updInst i (fun x => { x with msiTrig := some (port, queue) })
  else s

/-- A change of instance i that may make its interrupt pending triggers an MSI write (R326, R401). -/
def State.withIrq (s : State) (i port : Nat) (queue : Option Nat) (f : Inst → Inst) : State :=
  let s' := s.updInst i f
  if !(s.inst i).irq && (s'.inst i).irq then s'.msiTrigger i port queue else s'

/-- FV_CNT1.DROPPED counts a write not made during containment (R322, R349). -/
def State.dropped (s : State) (i : Nat) : State :=
  s.fvCount i 1 31 16

/-- The outstanding record write of instance i is acknowledged with OK (R399, R401). -/
def State.recordDone (s : State) (i : Nat) : State :=
  match (s.inst i).evOut with
  | none => s
  | some r => s.withIrq i r.port r.queue (fun x => { x with
      evOut := none, ackAt := some s.now, tail := (x.tail + 1) % 2 ^ (x.sizeM + 1) })

/-- The records a LOST record stands for, and 1 for any other (R244, R245). -/
def EvRec.stands (r : EvRec) : Nat := if r.code = 1 then at_ r.load 0 4 else 1

/-- The outstanding record write of instance i fails (R245, R330, R349). DESIGN CHOICE (log 60): the events that wait under R400
are dropped with it and counted. -/
def State.recordFails (s : State) (i : Nat) (addr : Nat) (xcause : Option Nat) : State :=
  let r := (s.inst i).evOut
  if r.isNone then s
  else if s.isContained i then (s.updInst i (fun x => { x with evOut := none, ackAt := some s.now })).dropped i
  else
    let n := total (((s.inst i).evOut.toList ++ (s.inst i).evWait).map EvRec.stands)
    let s := s.updInst i (fun x => { x with evOut := none, ackAt := some s.now, evWait := [], evtEn := false })
    (s.loseEvent i n).raise 29 0 0 (some i) (BitVec.ofNat 64 addr) xcause

/-- EVT_HEAD is written (R241): a value in range takes effect, any other raises EVT_HEAD_BAD; a write that leaves
the interrupt pending triggers an MSI write (R326). -/
def State.writeHead (s : State) (i v : Nat) : State :=
  let x := s.inst i
  let m := 2 ^ (x.sizeM + 1)
  if v < m ∧ x.advance v ≤ x.unread then
    let s := s.updInst i (fun x => { x with head := v })
    if (s.inst i).irq then s.msiTrigger i (i % 8) none else s
  else s.raise 28 0 0 (some i)

/-- EVT_CTL is written (R239). SIZE_M is taken while ENABLE is 0; ENABLE rises only on a ring that passes the checks
of size, node and alignment. DESIGN CHOICE (log 59): a cleared ENABLE leaves the waiting records and the outstanding one.
DESIGN CHOICE (log 83): a write of SIZE_M leaves HEAD and TAIL as they are until the ring is enabled. -/
def State.writeEvtCtl (s : State) (i : Nat) (v : Word) : State :=
  let x := s.inst i
  let m := if x.evtEn then x.sizeM else fld v 8 4
  let ok := 7 ≤ m && m ≤ 16 && nodeOf x.evtBase.toNat == s.node && x.evtBase.toNat % (32 * 2 ^ m) == 0
  if bit v 0 then
    if x.evtEn then s
    else if ok then s.updInst i (fun x => { x with sizeM := m, evtEn := true, head := 0, tail := 0 })
    else s.updInst i (fun x => { x with sizeM := m })
  else s.updInst i (fun x => { x with sizeM := m, evtEn := false })

end Sys2Proof.Machine
end

