-- ==== Sys2Proof/Machine/Stream.lean ====
section
/-! DEFINITION. The byte stream of a fragment: beats and requests (R128, R130, R366), swaps (R133), the pattern
source (R136) and CRC-32C (R134, R135). -/

namespace Sys2Proof.Machine

open Sys2Proof

/-! ### Requests -/

/-- The piece of an incrementing range of W = 64 at an address: the largest power of two that R128 allows. -/
def pieceAt (addr left : Nat) : Nat :=
  ([64, 32, 16, 8, 4, 2].find? (fun p => p ≤ left && addr % p == 0)).getD 1

/-- The width code of a piece (R30). -/
def widthCode (p : Nat) : Nat :=
  if p = 64 then 6 else if p = 32 then 5 else if p = 16 then 4 else if p = 8 then 3 else if p = 4 then 2
  else if p = 2 then 1 else 0

/-- Bytes of the maximal run of beats of one width within a 256 B block (R130). At most two beats narrower than 64 B
follow each other at one width: one before and one after an aligned address. -/
def runAt (addr left : Nat) : Nat :=
  let p := pieceAt addr left
  if p = 64 then 64 * min (left / 64) ((256 - addr % 256) / 64)
  else if p < left ∧ pieceAt (addr + p) (left - p) = p ∧ (addr + p) / 256 = addr / 256 then 2 * p
  else p

/-- One request of a side before translation: address, width code, bytes, stream offset. -/
structure Chunk where
  addr  : Nat
  width : Nat
  bytes : Nat
  off   : Nat
  deriving DecidableEq, Repr

/-- Requests of an incrementing side with W = 64 (R128, R130). -/
def chunks64 : Nat → Nat → Nat → Nat → List Chunk
  | 0, _, _, _ => []
  | fuel + 1, addr, left, off =>
    if left = 0 then []
    else
      let n := runAt addr left
      { addr, width := widthCode (pieceAt addr left), bytes := n, off } :: chunks64 fuel (addr + n) (left - n) (off + n)

/-- Requests of an incrementing side cut at the multiples of a block (R130, R366). -/
def chunksBlock (block width : Nat) : Nat → Nat → Nat → Nat → List Chunk
  | 0, _, _, _ => []
  | fuel + 1, addr, left, off =>
    if left = 0 then []
    else
      let n := min left (block - addr % block)
      { addr, width, bytes := n, off } :: chunksBlock block width fuel (addr + n) (left - n) (off + n)

/-- Requests of a fixed side: up to 256 B each, all at one address (R130). -/
def chunksFixed (addr width : Nat) : Nat → Nat → Nat → List Chunk
  | 0, _, _ => []
  | fuel + 1, left, off =>
    if left = 0 then []
    else
      let n := min left 256
      { addr, width, bytes := n, off } :: chunksFixed addr width fuel (left - n) (off + n)

/-- The requests of one side of a fragment in stream order (R130; R366 for a remote side). -/
def shape (remote fixed : Bool) (width addr len : Nat) : List Chunk :=
  if fixed then chunksFixed addr width (len / 256 + 1) len 0
  else if width = 6 then
    if remote then chunksBlock 4096 6 (len / 4096 + 2) addr len 0
    else chunks64 (len / 64 + 16) addr len 0
  else chunksBlock 256 width (len / 256 + 2) addr len 0

/-- Beats of a memory request (R30). DESIGN CHOICE (log 57): a side of a MAN_COPY with W below 64 whose fragment the other side's
record cuts to no multiple of W has its beats rounded down. -/
def beatsOf (width bytes : Nat) : Nat := bytes / 2 ^ width

/-- Flit bytes that a request of L data bytes takes in the direction of the data (R360). -/
def dataFlits (l : Nat) : Nat := 64 * (1 + ceilDiv l 64)

/-! ### Swaps -/

/-- The unit of a swap mode in bytes (R133). -/
def swapUnit (m : Nat) : Nat := if m = 1 then 2 else if m = 2 ∨ m = 4 then 4 else if m = 3 ∨ m = 5 then 8 else 1

/-- What a swap mode exchanges, as the bits of the position that it turns over within a unit (R133). -/
def swapMask (m : Nat) : Nat :=
  if m = 1 then 1 else if m = 2 then 3 else if m = 3 then 7 else if m = 4 then 2 else if m = 5 then 6 else 0

/-- Where the byte of a stream position stands after the swap; units are counted from position 0. The swap is its own
inverse. -/
def swapPos (m p : Nat) : Nat := p ^^^ swapMask m

/-- The offset within a fragment, after the swap, of the byte at offset `o` of its unswapped stream; the fragment
begins at position `start` of the swapped range. -/
def swapOff (m start o : Nat) : Nat := swapPos m (start + o) - start

/-! ### Pattern source -/

/-- Bytes of a fragment of a fill, after the swap (R136): pattern of L bytes, range position `start`. -/
def patternBytes (pat : List Byte) (l m start len : Nat) : List Byte :=
  (List.range len).map (fun k => byteAt pat (swapPos m (start + k) % l))

/-- Bytes of a stream given whole, after the swap (R137). -/
def swapBytes (m : Nat) (data : List Byte) : List Byte :=
  (List.range data.length).map (fun k => byteAt data (swapPos m k))

/-! ### CRC-32C -/

/-- Polynomial 0x1EDC_6F41 with its bits reversed (R134). -/
def crcPoly : Nat := 0x82F63B78

/-- One bit of the reflected register. -/
def crcBit (c : Nat) : Nat := if c % 2 = 1 then (c >>> 1) ^^^ crcPoly else c >>> 1

/-- One byte of the reflected register. -/
def crcByte (c : Nat) (b : Byte) : Nat :=
  crcBit (crcBit (crcBit (crcBit (crcBit (crcBit (crcBit (crcBit (c ^^^ b.toNat))))))))

/-- CRC-32C of bytes from a seed: preset to the complement of the seed, result inverted (R134). -/
def crc32c (seed : Nat) (data : List Byte) : Nat := (data.foldl crcByte (seed ^^^ 0xFFFFFFFF)) ^^^ 0xFFFFFFFF

/-- Product of two reflected polynomials modulo the CRC polynomial. -/
def crcMul : Nat → Nat → Nat → Nat
  | 0, _, _ => 0
  | fuel + 1, a, b => (if b.testBit 31 then a else 0) ^^^ crcMul fuel (crcBit a) (b <<< 1)

/-- x to the power 8n, by squaring: `sq` is x to the power 8·2^k. -/
def crcPow : Nat → Nat → Nat → Nat
  | 0, _, _ => 0x80000000
  | fuel + 1, sq, n =>
    if n = 0 then 0x80000000
    else
      let r := crcPow fuel (crcMul 32 sq sq) (n / 2)
      if n % 2 = 1 then crcMul 32 r sq else r

/-- The CRC of a stream followed by n bytes whose own CRC with seed 0 is `c` (R135). -/
def crcJoin (crc n c : Nat) : Nat := crcMul 32 crc (crcPow 64 0x00800000 n) ^^^ c

/-- Partial CRCs by stream position, in rising order. -/
def crcInsert (p : Nat × Nat × Nat) : List (Nat × Nat × Nat) → List (Nat × Nat × Nat)
  | [] => [p]
  | q :: qs => if p.1 < q.1 then p :: q :: qs else q :: crcInsert p qs

/-- The CRC of the whole stream from its partial CRCs: position, length and CRC of each (R135). -/
def crcAll (seed : Nat) (ps : List (Nat × Nat × Nat)) : Nat :=
  (ps.foldr crcInsert []).foldl (fun c p => crcJoin c p.2.1 p.2.2) seed

end Sys2Proof.Machine
end

