-- ==== Sys2Proof/Machine/Operands.lean ====
section
/-! DEFINITION. Operand forms: ring entries (R246 to R258), their malformed conditions (R278), how an entry is cut
into fragments (R117, R257, R267), manifest records (R262), and channel transfers (R171, R172). -/

namespace Sys2Proof.Machine

open Sys2Proof

/-! ### Ring entries -/

/-- Field [hi:lo] of the header word of an entry (R246). -/
def hfld (raw : List Byte) (hi lo : Nat) : Nat := (at_ raw 0 8 >>> lo) % 2 ^ (hi + 1 - lo)

/-- Bit b of the header word (R246). -/
def hbit (raw : List Byte) (b : Nat) : Bool := (at_ raw 0 8).testBit b

/-- OPCODE of an entry (R246). -/
def opcode (raw : List Byte) : Nat := hfld raw 15 8

/-- The opcode has a source side on a port (R248). -/
def usesSrc (op : Nat) : Bool := op == 1 || op == 3 || op == 5 || op == 6

/-- The opcode has a destination side (R248). -/
def usesDst (op : Nat) : Bool := op == 1 || op == 2 || op == 3 || op == 4 || op == 5 || op == 7

/-- The opcode is a rectangle. -/
def isRect (op : Nat) : Bool := op == 3 || op == 4

/-- Source and destination addresses (R249 to R258). -/
def srcAddr (raw : List Byte) : Nat := at_ raw 8 8
def dstAddr (raw : List Byte) : Nat :=
  let op := opcode raw
  if op == 1 || op == 3 || op == 5 then at_ raw 16 8 else at_ raw 8 8

/-- LEN of COPY, FILL, CHECK and WRITE_IMM (R249 to R252). -/
def lenOf (raw : List Byte) : Nat :=
  let op := opcode raw
  if op = 1 then at_ raw 24 8 else if op = 7 then at_ raw 16 1 else at_ raw 16 8

/-- WIDTH, ROWS and the pitches of a rectangle (R254, R255). -/
def rectWidth (raw : List Byte) : Nat := if opcode raw = 3 then at_ raw 24 4 else at_ raw 16 4
def rectRows (raw : List Byte) : Nat := if opcode raw = 3 then at_ raw 28 4 else at_ raw 20 4
def sPitch (raw : List Byte) : Nat := at_ raw 32 4
def dPitch (raw : List Byte) : Nat := at_ raw 36 4

/-- CRC seed (R249 to R258). -/
def seedOf (raw : List Byte) : Nat :=
  let op := opcode raw
  if isRect op then at_ raw 40 4 else if op = 6 then at_ raw 24 4 else if op = 7 then at_ raw 56 4 else at_ raw 32 4

/-- Pattern length of a fill (R250, R255). -/
def patLenOf (raw : List Byte) : Nat :=
  2 ^ (at_ raw (if opcode raw = 4 then 44 else 36) 1 % 4)

/-- SLIN and DLIN of a MAN_COPY (R258). -/
def sLin (raw : List Byte) : Bool := (at_ raw 36 1).testBit 0
def dLin (raw : List Byte) : Bool := (at_ raw 36 1).testBit 1

/-- SCOUNT or DCOUNT (R258). -/
def manCount (raw : List Byte) (dst : Bool) : Nat := if dst then at_ raw 28 4 else at_ raw 24 4

/-- The side of a MAN_COPY is described by a manifest. -/
def hasMan (raw : List Byte) (dst : Bool) : Bool := opcode raw == 5 && !(if dst then dLin raw else sLin raw)

/-- The CRC is computed (R246, R248). -/
def wantsCrc (raw : List Byte) : Bool := opcode raw == 6 || (hbit raw 19 && opcode raw != 0)

/-- A side must keep its addresses and lengths to multiples of W (R129). -/
def narrow (w : Nat) (fixed : Bool) : Bool := w != 6 || fixed

/-- The last byte of a range has the node field of the first (R264, R278). -/
def inNode (first n : Nat) : Bool := first / 2 ^ 54 == (first + n - 1) / 2 ^ 54

/-- Bytes that the rows of one side span (R267). -/
def rectSpan (raw : List Byte) (pitch : Nat) : Nat := (rectRows raw - 1) * pitch + rectWidth raw

/-- One used side breaks R129: its address, its length, or a pitch in use. -/
def badSide (w : Nat) (fixed : Bool) (addr : Nat) (rest : List Nat) : Bool :=
  narrow w fixed && (addr :: rest).any (fun n => n % 2 ^ w != 0)

/-- The assigned command opcodes (R304). -/
def cmdOpcodes : List Nat := [0x80, 0x81, 0x82, 0x83, 0x84, 0x85, 0x88, 0x89, 0x8A, 0x8B, 0x8C, 0x90, 0x91, 0x98, 0xA0, 0xF0]

/-- The malformed status of an entry, 0 for a well-formed one: the first condition of R278 that it meets. -/
def malformed (admin : Bool) (node : Nat) (raw : List Byte) : Nat :=
  let op := opcode raw
  let sw := hfld raw 26 24
  let dw := hfld raw 30 28
  let sfix := hbit raw 27
  let dfix := hbit raw 31
  let swap := hfld raw 22 20
  let rows := rectRows raw
  let unit := swapUnit swap
  let useS := usesSrc op
  let useD := usesDst op
  let lens := if op == 1 || op == 2 || op == 6 || op == 7 then [lenOf raw] else if isRect op then [rectWidth raw] else []
  let pit := fun p : Nat => if isRect op && 1 < rows then [p] else []
  if admin then (if op ∈ cmdOpcodes then 0 else 0x40)
  else if 8 ≤ op then 0x40
  else if (useS && sw == 7) || (useD && dw == 7) then 0x41
  else if op != 0 && 6 ≤ swap then 0x42
  else if ((op == 1 || op == 2 || op == 6) && (lenOf raw == 0 || 2 ^ 40 < lenOf raw))
      || (op == 7 && (lenOf raw == 0 || 32 < lenOf raw))
      || (isRect op && (rectWidth raw == 0 || rows == 0 || 2 ^ 40 < rectWidth raw * rows))
      || [false, true].any (fun d => hasMan raw d && (manCount raw d == 0 || 65536 < manCount raw d)) then 0x43
  else if (isRect op && 1 < rows && dPitch raw < rectWidth raw)
      || (op == 3 && 1 < rows && sPitch raw < rectWidth raw)
      || (isRect op && dfix) || (op == 3 && sfix)
      || (op == 5 && sLin raw && dLin raw) then 0x44
  else if (useS && !hasMan raw false && badSide sw sfix (srcAddr raw) (lens ++ pit (sPitch raw)))
      || (useD && !hasMan raw true && badSide dw dfix (dstAddr raw) (lens ++ pit (dPitch raw)))
      || (op != 0 && lens.any (fun n => n % unit != 0))
      || (hasMan raw false && srcAddr raw % 16 != 0) || (hasMan raw true && dstAddr raw % 16 != 0) then 0x45
  else if (isRect op && !inNode (dstAddr raw) (rectSpan raw (dPitch raw)))
      || (op == 3 && !inNode (srcAddr raw) (rectSpan raw (sPitch raw)))
      || (!isRect op && useS && !sfix && lens.any (fun n => !inNode (srcAddr raw) n))
      || (!isRect op && useD && !dfix && lens.any (fun n => !inNode (dstAddr raw) n))
      || (hasMan raw false && !(nodeOf (srcAddr raw) == node && inNode (srcAddr raw) (16 * manCount raw false)))
      || (hasMan raw true && !(nodeOf (dstAddr raw) == node && inNode (dstAddr raw) (16 * manCount raw true))) then 0x46
  else 0

/-! ### Cutting an entry into fragments -/

/-- One fragment of an entry: index and position in stream order, length, the position its swap units and pattern are
counted from, its row, and the addresses of its first byte on each side. -/
structure Cut where
  idx  : Nat
  pos  : Nat
  len  : Nat
  base : Nat
  row  : Nat
  src  : Nat
  dst  : Nat
  deriving DecidableEq, Repr

/-- Two ranges of instance addresses in one node intersect (R126, R267). -/
def overlaps (a n b m : Nat) : Bool := nodeOf a == nodeOf b && a < b + m && b < a + n

/-- A COPY whose source and destination overlap, both incrementing (R126). -/
def copyOverlap (raw : List Byte) : Bool :=
  opcode raw == 1 && !hbit raw 27 && !hbit raw 31 && overlaps (srcAddr raw) (lenOf raw) (dstAddr raw) (lenOf raw)

/-- A RECT_COPY under the order of R267: overlapping spans and equal pitches. -/
def rectOverlap (raw : List Byte) : Bool :=
  opcode raw == 3 && sPitch raw == dPitch raw &&
    overlaps (srcAddr raw) (rectSpan raw (sPitch raw)) (dstAddr raw) (rectSpan raw (dPitch raw))

/-- The fragments are processed from the last to the first (R126, R267). -/
def reversed (raw : List Byte) : Bool := (copyOverlap raw || rectOverlap raw) && srcAddr raw < dstAddr raw

/-- Fragments of a row, or of a copy, check or fill (R117, R257). -/
def perRow (raw : List Byte) : Nat := ceilDiv (if isRect (opcode raw) then rectWidth raw else lenOf raw) 65536

/-- Fragments of an entry other than a MAN_COPY (R117, R252, R253, R257). -/
def fragCount (raw : List Byte) : Nat :=
  let op := opcode raw
  if op = 0 ∨ 8 ≤ op then 0 else if isRect op then rectRows raw * perRow raw else perRow raw

/-- Fragment number `ord` in processing order of an entry other than a MAN_COPY. -/
def cutAt (raw : List Byte) (ord : Nat) : Cut :=
  let idx := if reversed raw then fragCount raw - 1 - ord else ord
  let row := if isRect (opcode raw) then idx / perRow raw else 0
  let k := if isRect (opcode raw) then idx % perRow raw else idx
  let whole := if isRect (opcode raw) then rectWidth raw else lenOf raw
  { idx, row
    pos := row * whole + 65536 * k
    len := min 65536 (whole - 65536 * k)
    base := row * whole
    src := if hbit raw 27 then srcAddr raw else srcAddr raw + row * sPitch raw + 65536 * k
    dst := if hbit raw 31 then dstAddr raw else dstAddr raw + row * dPitch raw + 65536 * k }

/-- Length of the stream of an entry other than a MAN_COPY. -/
def streamLen (raw : List Byte) : Nat :=
  let op := opcode raw
  if op = 0 ∨ 8 ≤ op then 0 else if isRect op then rectRows raw * rectWidth raw else lenOf raw

/-! ### Manifests -/

/-- The address of record k of a side (R259). -/
def recAddr (raw : List Byte) (dst : Bool) (k : Nat) : Nat := (if dst then dstAddr raw else srcAddr raw) + 16 * k

/-- A manifest record is well formed for its side (R262): its ADDR and LEN. -/
def recOk (raw : List Byte) (dst : Bool) (addr len : Nat) : Bool :=
  let w := if dst then hfld raw 30 28 else hfld raw 26 24
  let fixed := if dst then hbit raw 31 else hbit raw 27
  len != 0 && len ≤ 65536 && !badSide w fixed addr [len] && len % swapUnit (hfld raw 22 20) == 0 &&
    (fixed || inNode addr len)

/-- What the next fragment of a MAN_COPY finds (R260, R261, R264, R265). -/
inductive ManNext where
  /-- a record of one side must be read first; the flags say which sides lack one -/
  | needs (src dst : Bool)
  /-- both sides have ended -/
  | done
  /-- a fragment of a length -/
  | frag (len src dst : Nat)
  /-- the entry stops: status, side, record index, address -/
  | stop (status side rec addr : Nat)
  deriving DecidableEq, Repr

/-- The next fragment of a MAN_COPY at a stream position. -/
def manNext (raw : List Byte) (pos : Nat) (ms md : ManSide) : ManNext :=
  let side := fun (d : Bool) => if d then md else ms
  let man := fun (d : Bool) => hasMan raw d
  let more := fun (d : Bool) => (side d).recs < manCount raw d
  let bare := fun (d : Bool) => man d && (side d).pieces.isEmpty
  let ended := fun (d : Bool) => bare d && !more d
  let holds := fun (d : Bool) => man d && !ended d
  let lin := fun (d : Bool) =>
    let a := if d then dstAddr raw else srcAddr raw
    if (if d then hbit raw 31 else hbit raw 27) then a else a + pos
  let last := fun (d : Bool) => manCount raw d - 1
  if ended false && holds true then .stop 0x1B 3 (last false) (recAddr raw false (last false))
  else if ended true && holds false then .stop 0x1B 4 (last true) (recAddr raw true (last true))
  else if ended false || ended true then .done
  else if bare false || bare true then .needs (bare false) (bare true)
  else
    let piece := fun (d : Bool) => (side d).pieces.headD (0, 0, 0)
    let len := if !man false then (piece true).2.2
      else if !man true then (piece false).2.2 else min (piece false).2.2 (piece true).2.2
    let addr := fun (d : Bool) => if man d then (piece d).2.1 else lin d
    let out := fun (d : Bool) => !man d && !(if d then hbit raw 31 else hbit raw 27) &&
      ((if d then dstAddr raw else srcAddr raw) / 2 ^ 54 != (addr d + len - 1) / 2 ^ 54)
    if out false then .stop 0x19 1 (piece true).1 (addr false)
    else if out true then .stop 0x19 2 (piece false).1 (addr true)
    else .frag len (addr false) (addr true)

/-- A side after `len` bytes of its first piece are assigned; a fixed side keeps its address. -/
def ManSide.take (m : ManSide) (fixed : Bool) (len : Nat) : ManSide :=
  match m.pieces with
  | [] => m
  | (k, a, n) :: rest =>
    if n ≤ len then { m with pieces := rest }
    else { m with pieces := (k, if fixed then a else a + len, n - len) :: rest }

/-- A side after a fragment of `len` bytes has been given back (R121): the piece stands in front again. -/
def ManSide.putBack (m : ManSide) (k addr len : Nat) : ManSide :=
  { m with pieces := (k, addr, len) :: m.pieces }

/-! ### Channel transfers -/

/-- Fields of a CFG word (R171). -/
def cfgBurst (cfg : Word) : Nat := 2 ^ (fld cfg 22 20 + 2)
def cfgLink (cfg : Word) : Bool := bit cfg 19
def cfgBarrier (cfg : Word) : Bool := bit cfg 18
def cfgEvt (cfg : Word) : Bool := bit cfg 17
def cfgSwap (cfg : Word) : Nat := fld cfg 15 13
def cfgDfix (cfg : Word) : Bool := bit cfg 10
def cfgDw (cfg : Word) : Nat := fld cfg 9 7
def cfgSfix (cfg : Word) : Bool := bit cfg 6
def cfgSw (cfg : Word) : Nat := fld cfg 5 3

/-- The bits of a CFG word that a register holds (R165). -/
def cfgMask : Word := ~~~(mask 63 32 ||| mask 23 23 ||| mask 16 16 ||| mask 12 11 ||| mask 2 0)

/-- A transfer is malformed (R172). `next` is the whole NEXT word. -/
def badTransfer (src dst : Word) (len : Nat) (cfg next : Word) : Bool :=
  let b := cfgBurst cfg
  fld cfg 31 24 != 1 || len == 0 || fld cfg 22 20 == 7 || cfgSw cfg == 7 || cfgDw cfg == 7 || 6 ≤ cfgSwap cfg
    || badSide (cfgSw cfg) (cfgSfix cfg) src.toNat [len, b]
    || badSide (cfgDw cfg) (cfgDfix cfg) dst.toNat [len, b]
    || len % swapUnit (cfgSwap cfg) != 0 || b % swapUnit (cfgSwap cfg) != 0
    || (cfgLink cfg && fld next 4 0 != 0)

end Sys2Proof.Machine
end

