-- ==== Sys2Proof/Machine/Chart.lean ====
section
/-! DEFINITION. Charts: translation, the chart cache, and the walk (08, R327 to R334). -/

namespace Sys2Proof.Machine

open Sys2Proof

/-- What a translation answers: a node-local address, a failure with its cause (R329), or a miss that needs a walk. -/
inductive XRes where
  | ok (pa : Nat)
  | fail (cause : Nat)
  | miss
  deriving DecidableEq, Repr

/-- A leaf maps the page of a 54-bit address. -/
def Leaf.covers (l : Leaf) (va : Nat) : Bool := l.va / 2 ^ l.log2 == va / 2 ^ l.log2

/-- The cached leaf of instance i that maps an address (R332). -/
def State.cached (s : State) (i va : Nat) : Option Leaf :=
  (s.cc.find? (fun e => e.inst == i && e.leaf.covers va)).map (·.leaf)

/-- The check of R, W and RMT against an access, cause PERM on a breach (R329). -/
def Leaf.use (l : Leaf) (own write : Bool) (va : Nat) : XRes :=
  if (if write then l.w else l.r) && (own || l.rmt) then .ok (l.pa + va % 2 ^ l.log2) else .fail 2

/-- Translation of one instance address for an access. RANGE needs no walk (log entry 10); a miss that the access has
walked uses the walk's result (R333). -/
def State.xlate (s : State) (x : XCtx) (i addr : Nat) (write : Bool) : XRes :=
  let va := localOf addr
  let own := nodeOf addr == s.node
  if 2 ^ 39 ≤ va then .fail 0
  else
    match s.cached i va with
    | some l => l.use own write va
    | none =>
      match s.walked.find? (fun w => w.ctx == x && (match w.leaf with
          | some l => l.covers va
          | none => w.va / 4096 == va / 4096)) with
      | none => .miss
      | some w =>
        match w.leaf with
        | some l => l.use own write va
        | none => .fail w.cause

/-- Translation of several addresses in order: the first that does not succeed decides, with its address. -/
def State.xlateAll (s : State) (x : XCtx) (i : Nat) (write : Bool) : List Nat → Option (Nat × XRes)
  | [] => none
  | a :: rest =>
    match s.xlate x i a write with
    | .ok _ => s.xlateAll x i write rest
    | r => some (a, r)

/-- The translated address; 0 where the translation does not succeed. -/
def State.paOf (s : State) (x : XCtx) (i addr : Nat) (write : Bool) : Nat :=
  match s.xlate x i addr write with
  | .ok pa => pa
  | _ => 0

/-- First addresses of the 4 KiB pages that n bytes from an address touch (R268). -/
def pagesOf (addr n : Nat) : List Nat :=
  (List.range ((addr % 4096 + n - 1) / 4096 + 1)).map (fun k => if k = 0 then addr else (addr / 4096 + k) * 4096)

/-- The cached entry of instance i that maps an address becomes the most recently used (R333). -/
def State.touch (s : State) (i addr : Nat) : State :=
  let hit := fun e : CacheEnt => e.inst == i && e.leaf.covers (localOf addr)
  { s with cc := s.cc.filter (fun e => !hit e) ++ s.cc.filter hit }

/-- Several addresses used. -/
def State.touchAll (s : State) (i : Nat) (addrs : List Nat) : State := addrs.foldl (fun s a => s.touch i a) s

/-- The access has used its walks (R332). -/
def State.dropWalked (s : State) (x : XCtx) : State :=
  { s with walked := s.walked.filter (fun w => w.ctx != x) }

/-- The access is gone: its walks are dropped, and their reads end in nothing. -/
def State.dropWalks (s : State) (x : XCtx) : State :=
  { s.dropWalked x with walks := s.walks.filter (fun w => w.ctx != x) }

/-- Chart cache entries of instance i. -/
def State.ccHeld (s : State) (i : Nat) : Nat := (s.cc.filter (fun e => e.inst == i)).length

/-- An entry that a new leaf of instance r may replace (R333). -/
def State.ccVictim (s : State) (r : Nat) (e : CacheEnt) : Bool :=
  if e.inst = r then (s.inst r).eff.ccs ≤ s.ccHeld r
  else (s.inst e.inst).eff.ccs < s.ccHeld e.inst

/-- A list without its first element that a test holds of. -/
def dropFirst {α : Type} (p : α → Bool) : List α → List α
  | [] => []
  | x :: xs => if p x then xs else x :: dropFirst p xs

/-- A new leaf of instance r is cached (R333): entries stand in the order of their use, the least recent first. -/
def State.cacheLeaf (s : State) (r : Nat) (l : Leaf) : State :=
  let e : CacheEnt := { inst := r, leaf := l }
  let rest := s.cc.filter (fun x => !(x.inst == r && x.leaf.va == l.va && x.leaf.log2 == l.log2))
  if rest.length < 8192 then { s with cc := rest ++ [e] }
  else if rest.any (s.ccVictim r) then { s with cc := dropFirst (s.ccVictim r) rest ++ [e] }
  else s

/-- Bits [4:2] of a chart entry as a leaf (R327, R328). -/
def leafOf (e : Word) (va log2 : Nat) : Leaf :=
  { va := va / 2 ^ log2 * 2 ^ log2, log2, pa := fld e 53 log2 * 2 ^ log2, r := bit e 2, w := bit e 3, rmt := bit e 4 }

/-- The leaf that a root entry gives, if it gives one (R327). -/
def rootLeaf (e : Word) (va : Nat) : Option Leaf :=
  if fld e 1 0 = 1 ∧ fld e 29 12 = 0 then some (leafOf e va 30) else none

/-- The level-2 table a root entry names: its base, and 21 or 12 for the page size (R327). -/
def rootTable (e : Word) : Option (Nat × Nat) :=
  if fld e 1 0 = 2 then some (fld e 53 12 * 4096, 21)
  else if fld e 1 0 = 3 ∧ fld e 20 12 = 0 then some (fld e 53 12 * 4096, 12)
  else none

/-- The leaf that a level-2 entry gives (R328). -/
def level2Leaf (e : Word) (va log2 : Nat) : Option Leaf :=
  if bit e 0 ∧ (log2 = 12 ∨ fld e 20 12 = 0) then some (leafOf e va log2) else none

/-- The address of the entry a walk reads next (R327, R328). -/
def State.walkAddr (s : State) (w : Walk) : Nat :=
  match w.level2 with
  | none => (s.inst w.inst).root + 8 * (w.va / 2 ^ 30 % 512)
  | some (base, log2) => base + 8 * (w.va % 2 ^ 30 / 2 ^ log2)

/-- A walk ends with a leaf or a cause (R332). -/
def State.walkEnds (s : State) (w : Walk) (leaf : Option Leaf) (cause : Nat) : State :=
  let s := { s with walks := s.walks.filter (fun v => v != w) }
  let s := match leaf with
    | some l => s.cacheLeaf w.inst l
    | none => s
  { s with walked := s.walked.filter (fun v => !(v.ctx == w.ctx && v.va == w.va)) ++
      [{ ctx := w.ctx, va := w.va, leaf, cause }] }

/-- A chart read is answered: `e` is the entry, none for a read that failed (R329, R331). A walk that an invalidation
met starts again (R336). -/
def State.walkData (s : State) (x : XCtx) (va : Nat) (e : Option Word) : State :=
  match s.walks.find? (fun w => w.ctx == x && w.va == va && w.busy) with
  | none => s
  | some w =>
    let put := fun v : Walk => { s with walks := s.walks.map (fun u => if u = w then v else u) }
    if w.again then put { w with busy := false, again := false, level2 := none }
    else
      match e, w.level2 with
      | none, _ => s.walkEnds w none 3
      | some e, none =>
        match rootLeaf e w.va, rootTable e with
        | some l, _ => s.walkEnds w (some l) 1
        | none, some t => put { w with busy := false, level2 := some t }
        | none, none => s.walkEnds w none 1
      | some e, some (_, log2) => s.walkEnds w (level2Leaf e w.va log2) 1

end Sys2Proof.Machine
end

