-- ==== Sys2Proof/Machine/Port.lean ====
section
/-! DEFINITION. Requests on the memory ports and the fabric ports: slots and tags (R32, R35, R361, R364), accounting
(R103, R104, R154), fabric port choice (R359), and the logging of write-class accesses (R379 to R381). -/

namespace Sys2Proof.Machine

open Sys2Proof

/-! ### Logging (R379 to R381) -/

/-- The page of an instance address within its bitmap (R379, R380). -/
def logPage (va : Nat) : Nat := va % 2 ^ 39 / 4096

/-- The access would be recorded: logging is on and the page lies in the bitmap (R379, R383). -/
def State.logged (s : State) (i va : Nat) : Bool :=
  (s.inst i).log && logPage va < 8 * (s.inst i).logLen

/-- The log cache line of an instance's page in its active bitmap. -/
def State.isLine (s : State) (i va : Nat) (l : LogLine) : Bool :=
  l.inst == i && l.line == logPage va / 512 && l.base == (s.inst i).logBase

/-- The access need not wait for a log cache entry (R381). -/
def State.logRoom (s : State) (i va : Nat) : Bool :=
  !s.logged i va || s.logc.any (s.isLine i va) || s.logc.length < 4096

/-- A write-class access is issued: its page's bit becomes pending, or it lies beyond the bitmap (R381, R383). -/
def State.logAccess (s : State) (i va : Nat) : State :=
  if !(s.inst i).log then s
  else if s.logged i va then
    let b := logPage va % 512
    if s.logc.any (s.isLine i va) then
      { s with logc := s.logc.map (fun l => if s.isLine i va l then
          { l with bits := if l.bits.contains b then l.bits else l.bits ++ [b]
                   since := if l.bits.isEmpty then s.now else l.since } else l) }
    else
      { s with logc := s.logc ++ [{ inst := i, line := logPage va / 512, base := (s.inst i).logBase, bits := [b], since := s.now }] }
  else
    ({ s with glb := { s.glb with logRange := true, logInst := i } }.noteSet 0xC48 4).raise 65 0 0 (some i) (BitVec.ofNat 64 va)

/-- A request has to wait for a log cache entry; it is counted once (R381). -/
def State.logWaits (s : State) (i : Nat) : State :=
  (s.unlessWritten 0xC48 (fun s => { s with glb := { s.glb with logWaits := satAdd 16 s.glb.logWaits 1 } })).raise 66 0 0 (some i)

/-! ### Memory ports -/

/-- How the bytes of a request are counted in a glass (R103). -/
inductive Acct where
  | firm
  | soft
  | other
  | none
  deriving DecidableEq, Repr

/-- Bytes added to a count of R103. -/
def PortAcc.count (a : PortAcc) (k : Acct) (n : Nat) : PortAcc :=
  match k with
  | .firm => { a with firm := a.firm + n }
  | .soft => { a with soft := a.soft + n }
  | .other => { a with other := a.other + n }
  | .none => a

/-- How a charge is counted (R103). -/
def Charge.acct : Charge → Acct
  | .firm => .firm
  | .soft _ => .soft

/-- The arbitration class of a charge (R142). -/
def Charge.cls : Charge → ArbClass
  | .firm => .top
  | .soft p => .soft p

/-- Order of the classes (R142): the smaller is served first. -/
def ArbClass.rank : ArbClass → Nat
  | .top => 0
  | .background => 1
  | .soft p => 9 - p

/-- The least free slot of a direction on memory port c (R32; slot numbers: log entry 6). -/
def State.freeSlot (s : State) (c : Nat) (write : Bool) : Nat :=
  if write then leastFree ((s.port c).wr.map (·.slot) ++ (s.port c).oldWr) (2048 * c + 1024)
  else leastFree ((s.port c).rd.map (·.slot) ++ (s.port c).oldRd) (2048 * c)

/-- A read or write slot of memory port c is free (R35, R145): requests of before a reset that are still unanswered count too. -/
def State.slotFree (s : State) (c : Nat) (write : Bool) : Bool :=
  let p := s.port c
  if write then p.wr.length + p.oldWr.length < 512 else p.rd.length + p.oldRd.length < 512

/-- The request as memory port c carries it (R30). -/
def portReq (write fixed : Bool) (addr width bytes inst gen slot : Nat) : PortReq :=
  { write, addr, size := width, beats := beatsOf width bytes - 1, fixed
    tag := { inst := BitVec.ofNat 10 inst, gen := BitVec.ofNat 16 gen, slot := BitVec.ofNat 14 slot } }

/-- A read request is accepted on memory port c (R32, R35, R103). -/
def State.issueRead (s : State) (c : Nat) (owner : Owner) (inst gen : Nat) (q : Req) (top : Bool) (k : Acct) : State :=
  let slot := s.freeSlot c false
  let r : RdOut := { slot, inst, gen, owner, off := q.off, due := q.bytes,
                     addr := q.va, width := q.width, fixed := q.fixed, top, at_ := s.age }
  (s.updPort c (fun p => { p with
    rd := p.rd ++ [r]
    lastReq := some (portReq false q.fixed q.pa q.width q.bytes inst gen slot) })).updAcc c (fun a => a.count k q.bytes)

/-- The write-data beats of a request (R131): `data` is empty for a fragment, whose bytes stay in the hold. -/
def beatsFor (owner : Owner) (slot : Nat) (q : Req) (top : Bool) (data : List Byte) (poison : List Nat) : List WBeat :=
  let w := 2 ^ q.width
  let n := beatsOf q.width q.bytes
  (List.range n).map (fun k =>
    { slot, owner, addr := if q.fixed then q.va else q.va + k * w, bytes := w, off := q.off + k * w
      data := (data.drop (k * w)).take w
      poison := poison.any (fun l => (q.off + k * w) / 64 ≤ l && l ≤ (q.off + k * w + w - 1) / 64), top, last := k + 1 == n })

/-- A write request is accepted on memory port c and its beats wait for the write-data channel (R131, R379). -/
def State.issueWrite (s : State) (c : Nat) (owner : Owner) (inst gen : Nat) (q : Req) (top : Bool) (k : Acct)
    (data : List Byte) (poison : List Nat) : State :=
  let slot := s.freeSlot c true
  let w : WrOut := { slot, inst, gen, owner, addr := q.va, bytes := q.bytes, at_ := s.age }
  (s.updPort c (fun p => { p with
    wr := p.wr ++ [w]
    wq := p.wq ++ beatsFor owner slot q top data poison
    lastReq := some (portReq true q.fixed q.pa q.width q.bytes inst gen slot) })).updAcc c (fun a => a.count k q.bytes)

/-! ### Fabric ports -/

/-- PORT of a node in SPAN_ROUTE (R358). -/
def State.spanPort (s : State) (node : Nat) : Nat :=
  let b := node % 32
  fld (tabGet 0xE4E4E4E4E4E4E4E4 s.glb.spanRoute (node / 32)) (2 * b + 1) (2 * b)

/-- The fabric port for a node: the primary port, or the next one in order whose LINKUP is high (R359). -/
def State.route (s : State) (node : Nat) : Option Nat :=
  let f := s.spanPort node
  ([f, (f + 1) % 4, (f + 2) % 4, (f + 3) % 4].find? (fun p => (s.fab p).linkup))

/-- The EPOCH of a request slot (R364, R374). -/
def FPort.epoch (p : FPort) (idx : Nat) : Nat := tabGet 0 p.epochs idx

/-- A free request slot of fabric port f (R361). -/
def State.fabFree (s : State) (f : Nat) : Bool := (s.fab f).slots.length < 512

/-- Flits of a message with the bytes sent or received (R104). -/
def State.countFab (s : State) (f : Nat) (sent firm : Bool) (n : Nat) : State :=
  s.updFabAcc f (fun a =>
    if sent then { a with outAll := a.outAll + n, outFirm := a.outFirm + (if firm then n else 0) }
    else { a with inAll := a.inAll + n, inFirm := a.inFirm + (if firm then n else 0) })

/-- The 64 B header flit (R364). `tag` is bytes 16 to 23. -/
def header (type status size : Nat) (fixed : Bool) (len addr tag poison : Nat) : List Byte :=
  leBytes 1 type ++ leBytes 1 status ++ leBytes 1 (size % 8 + 8 * b2n fixed) ++ leBytes 1 0 ++ leBytes 2 len ++
    leBytes 2 0 ++ leBytes 8 addr ++ leBytes 8 tag ++ leBytes 8 poison ++ zeros 32

/-- Bytes as data flits of 64 B, the last one filled up with zeros (R362). -/
def flitsOf : Nat → List Byte → List (List Byte)
  | 0, _ => []
  | n + 1, d => (d.take 64 ++ zeros (64 - min 64 d.length)) :: flitsOf n (d.drop 64)

/-- The TAG of a span request (R364). -/
def State.spanTag (s : State) (f idx inst gen : Nat) : Nat :=
  fld s.glb.spanCtl 39 32 * 2 ^ 48 + (s.fab f).epoch idx * 2 ^ 40 + inst % 1024 * 2 ^ 30 + gen % 65536 * 2 ^ 14 + f * 512 + idx

/-- Bytes of flits of a message (R360). -/
def Msg.bytes (m : Msg) : Nat := 64 * (1 + m.flits.length)

/-- An MSI write, which is control traffic and charged to no budget (R87). -/
def Owner.isMsi : Owner → Bool
  | .msi _ => true
  | _ => false

/-- A span request is sent on fabric port f (R361, R362). MSI writes are not firm units (R87, R104). -/
def State.issueSpan (s : State) (f : Nat) (owner : Owner) (write : Bool) (inst gen : Nat) (q : Req) (cls : ArbClass)
    (cluster : Nat) (data : List Byte) (poison : Nat) : State :=
  let idx := leastFree ((s.fab f).slots.map (·.idx)) 0
  let node := nodeOf q.va
  let addr := node * 2 ^ 54 + localOf q.pa
  let msg : Msg :=
    { node
      hdr := header (if write then 0x02 else 0x01) 0 q.width q.fixed q.bytes addr (s.spanTag f idx inst gen)
        (if write then poison else 0)
      flits := if write then flitsOf (ceilDiv q.bytes 64) data else [] }
  let slot : FSlot :=
    { idx, epoch := (s.fab f).epoch idx, node, inst, gen, owner, write, addr := q.va, bytes := q.bytes, off := q.off
      sent := s.age, tmo := fld s.glb.spanTmo 19 0, msg, cls, cluster }
  ((s.updFab f (fun p => { p with slots := p.slots ++ [slot], lastMsg := some msg })).countFab f true
    (cls == .top && !owner.isMsi) msg.bytes)

end Sys2Proof.Machine
end

