-- ==== Sys2Proof/Machine/Hold.lean ====
section
/-! DEFINITION. Budgets (R81, R89, R360), hold space and reservations (R112 to R115, R149), and the dispatcher
(R111, R120, R392, R393). -/

namespace Sys2Proof.Machine

open Sys2Proof

/-! ### Budgets -/

/-- What one side of a fragment charges to RO and RI (R360): port, out bytes, in bytes. A node that no port leads to
charges nothing (R359). -/
def State.spanNeed (s : State) (write : Bool) (side : Option Side) (len : Nat) : List (Nat × Nat × Nat) :=
  match side with
  | none => []
  | some d =>
    if nodeOf d.addr = s.node then []
    else
      match s.route (nodeOf d.addr) with
      | none => []
      | some f =>
        (shape true d.fixed d.width d.addr len).map (fun c =>
          if write then (f, dataFlits c.bytes, 64) else (f, 64, dataFlits c.bytes))

/-- Bytes that a list of needs charges to RO and to RI of port f. -/
def needOut (l : List (Nat × Nat × Nat)) (f : Nat) : Nat := total (l.map (fun p => if p.1 = f then p.2.1 else 0))
def needIn (l : List (Nat × Nat × Nat)) (f : Nat) : Nat := total (l.map (fun p => if p.1 = f then p.2.2 else 0))

/-- The span needs of a fragment: those of both its sides. -/
def State.fragSpan (s : State) (f : Frag) : List (Nat × Nat × Nat) :=
  s.spanNeed false f.src f.len ++ s.spanNeed true f.dst f.len

/-- Fragments of instance i that are assigned, not admitted, and hold a reservation in this glass's allowances (R121, R552). -/
def State.reserving (s : State) (i : Nat) : List Frag :=
  s.frags.filter (fun f => f.inst == i && f.phase == .assigned && f.resv == s.bell.glass)

/-- Bytes of F (firm) or S of instance i in cluster c that are reserved. -/
def State.kept (s : State) (i c : Nat) (firm : Bool) : Nat :=
  total (((s.reserving i).filter (fun f => f.cluster == c && (f.charge == .firm) == firm)).map (·.len))

/-- RO and RI of instance i can take a span charge. -/
def State.spanFits (s : State) (i : Nat) (span : List (Nat × Nat × Nat)) : Bool :=
  (List.range 4).all (fun f => needOut span f ≤ nth (s.inst i).leftRO f && needIn span f ≤ nth (s.inst i).leftRI f)

/-- The budget that R89 charges for a context of instance i in cluster c, if every budget can take it beside what is
reserved (R81, R552). -/
def State.canCharge (s : State) (i c : Nat) (firm : Bool) (prio bytes : Nat) (span : List (Nat × Nat × Nat)) :
    Option Charge :=
  let x := s.inst i
  let all := span ++ (s.reserving i).flatMap s.fragSpan
  if span.isEmpty || s.spanFits i all then
    if firm && bytes + s.kept i c true ≤ nth x.leftF c then some .firm
    else if bytes + s.kept i c false ≤ nth x.leftS c then some (.soft prio)
    else none
  else none

/-- The allowances after a charge (R89, R360). -/
def State.charge (s : State) (i c : Nat) (k : Charge) (bytes : Nat) (span : List (Nat × Nat × Nat)) : State :=
  s.updInst i (fun x =>
    let x := { x with
      leftRO := tabulate 4 (fun f => nth x.leftRO f - needOut span f)
      leftRI := tabulate 4 (fun f => nth x.leftRI f - needIn span f) }
    match k with
    | .firm => { x with leftF := setNth x.leftF c (nth x.leftF c - bytes) }
    | .soft _ => { x with leftS := setNth x.leftS c (nth x.leftS c - bytes) })

/-- The last BELL_CTL.CUT bus clocks of the glass (R90), counted against PERIOD (log entry 11). -/
def State.inCut (s : State) : Bool := s.bell.period ≤ s.bell.pos + fld s.bell.ctl 39 32

/-! ### Hold space -/

/-- Fragments that hold space in a bank. -/
def State.inBank (s : State) (e b : Nat) : List Frag := s.frags.filter (fun f => f.held && f.eng == e && f.bank == b)

/-- Fragments and bursts in the hold of an engine (R116). -/
def State.inEngine (s : State) (e : Nat) : Nat := (s.frags.filter (fun f => f.held && f.eng == e)).length

/-- The engine is HALTED: it has halted and its last fragment has left the hold (R148). -/
def State.engHalted (s : State) (e : Nat) : Bool := (s.eng e).halted && s.inEngine e == 0

/-- Mode of a bank (R112, R116): 0 EMPTY, 1 WHOLE, 2 SLICED, 3 SCRUB. -/
def State.bankMode (s : State) (e b : Nat) : Nat :=
  if s.engHalted e then 3
  else if (s.inBank e b).isEmpty then 0
  else if (s.inBank e b).any (fun f => f.slot.isNone) then 1
  else 2

/-- Slots that a fragment of n bytes takes (R112). -/
def slotsFor (n : Nat) : Nat := if 4096 < n then 16 else 1

/-- Slots that instance i occupies in cluster c (R114). -/
def State.occupied (s : State) (i c : Nat) : Nat :=
  total ((s.frags.filter (fun f => f.held && f.inst == i && f.cluster == c)).map
    (fun f => if f.slot.isNone then 16 else 1))

/-- Engines of cluster c that are not HALTED (R149). -/
def State.inService (s : State) (c : Nat) : Nat :=
  ((List.range 16).filter (fun k => !s.engHalted (16 * c + k))).length

/-- Reservation of instance i in effect in cluster c, in slots (R149). -/
def State.reserved (s : State) (i c : Nat) : Nat :=
  let q := 32 * s.inService c - 128
  let t := total (s.insts.map (fun p => nth p.2.eff.h c))
  let h := nth (s.inst i).eff.h c
  if t ≤ q then h else h * q / t

/-- Slots kept for instance i and not yet occupied by it (R114). -/
def State.unmet (s : State) (i c : Nat) : Nat := s.reserved i c - s.occupied i c

/-- Free slots of a bank open to assignment. -/
def State.bankFree (s : State) (e b : Nat) : Nat :=
  if (s.eng e).halted then 0
  else
    match s.bankMode e b with
    | 0 => 16
    | 2 => 16 - (s.inBank e b).length
    | _ => 0

/-- The banks of cluster c in order of engine and bank number. -/
def banksOf (c : Nat) : List (Nat × Nat) := (List.range 32).map (fun k => (16 * c + k / 2, k % 2))

/-- Free slots of cluster c. -/
def State.freeSlots (s : State) (c : Nat) : Nat := total ((banksOf c).map (fun p => s.bankFree p.1 p.2))

/-- Where a fragment of n bytes goes (R113): engine, bank and slot. -/
def State.place (s : State) (c n : Nat) : Option (Nat × Nat × Option Nat) :=
  let empty := (banksOf c).find? (fun p => !(s.eng p.1).halted && s.bankMode p.1 p.2 == 0)
  if 4096 < n then empty.map (fun p => (p.1, p.2, none))
  else
    match (banksOf c).find? (fun p => s.bankMode p.1 p.2 == 2 && 0 < s.bankFree p.1 p.2) with
    | some p => some (p.1, p.2, some (leastFree ((s.inBank p.1 p.2).filterMap (·.slot)) 0))
    | none => empty.map (fun p => (p.1, p.2, some 0))

/-- Instance i may take n slots of cluster c (R114): within E, and without the space kept for others; work charged to
soft budgets leaves the instance's own reservation too (log entry 12). -/
def State.mayOccupy (s : State) (i c n : Nat) (own : Bool) : Bool :=
  s.occupied i c + n ≤ nth (s.inst i).eff.e c &&
    n + total ((s.insts.filter (fun p => p.1 != i || !own)).map (fun p => s.unmet p.1 c)) ≤ s.freeSlots c

/-! ### Which entry of a queue is next -/

/-- A side of an entry changed by a function. -/
def Entry.updSide (e : Entry) (dst : Bool) (f : ManSide → ManSide) : Entry :=
  if dst then { e with mDst := f e.mDst } else { e with mSrc := f e.mSrc }

/-- One side of an entry. -/
def Entry.side (e : Entry) (dst : Bool) : ManSide := if dst then e.mDst else e.mSrc

/-- The entry moves data. -/
def Entry.moves (e : Entry) : Bool := e.bad == 0 && e.ended == 0 && opcode e.raw != 0 && opcode e.raw < 8

/-- Every fragment of the entry is assigned (R117, R260). -/
def Entry.allCut (e : Entry) : Bool :=
  if opcode e.raw = 5 then manNext e.raw e.pos e.mSrc e.mDst == .done else e.back.isEmpty && fragCount e.raw ≤ e.nextK

/-- The entry's stop keeps its next fragment from being assigned (R269). One that was assigned and given back runs to its own
outcome (R121, R271). -/
def Entry.stopsNext (e : Entry) : Bool := e.stop.isSome && e.back.isEmpty && e.reach ≤ e.nextK

/-- The place in processing order of the fragment assigned next: one given back goes before those never assigned. -/
def Entry.nextOrd (e : Entry) : Nat := e.back.foldl min e.nextK

/-- The fragment at the next place of an entry other than a MAN_COPY is assigned. -/
def Entry.assigned (e : Entry) : Entry :=
  if e.back.isEmpty then { e with started := true, nextK := e.nextK + 1, reach := max e.reach (e.nextK + 1) }
  else { e with started := true, back := e.back.erase e.nextOrd }

/-- A fragment at a place in processing order is given back. -/
def Entry.givenBack (e : Entry) (ord : Nat) : Entry :=
  if ord + 1 = e.nextK then { e with nextK := ord } else { e with back := ord :: e.back }

/-- No further fragment of the entry will be assigned (R269, R273). -/
def Entry.assignDone (e : Entry) : Bool := !e.moves || e.stopsNext || e.allCut

/-- The overwrite has been issued (R394). -/
def Entry.issued (e : Entry) : Bool := e.ovr == .accepted

/-- FENCE of the entry (R246). -/
def Entry.fenced (e : Entry) : Bool := hbit e.raw 17

/-- Open entries taken before one. -/
def Queue.before (q : Queue) (seq : Nat) : List Entry := q.entries.filter (fun e => e.seq < seq)

/-- The fence condition of an entry (R393, R394). -/
def Queue.fenceMet (q : Queue) (e : Entry) : Bool :=
  (q.before e.seq).all (fun b => b.issued || !(e.fenced || b.fenced))

/-- The entry may start: every entry taken before it has started, and its fences are met (R392, R393). -/
def Queue.mayStart (q : Queue) (e : Entry) : Bool := (q.before e.seq).all (·.started) && q.fenceMet e

/-- The entry whose fragment is the queue's next: the first one with fragments left, if it may start (R89, R392). -/
def Queue.next (q : Queue) : Option Entry :=
  match q.entries.find? (fun e => !(e.started && e.assignDone)) with
  | none => none
  | some e => if e.moves && !e.assignDone && q.mayStart e then some e else none

/-! ### What stops an entry -/

/-- DETAIL of a fault of kind QUEUE (R425). -/
def queueDetail (slot : Nat) (lap : Bool) (status : Nat) : Word := pack [(15, 0, slot), (16, 16, b2n lap), (31, 24, status)]

/-- A stop of an entry: the earliest in stream order stays (R271). -/
def Entry.stopped (e : Entry) (x : Stop) : Entry :=
  match e.stop with
  | none => { e with stop := some x }
  | some y => if x.idx < y.idx then { e with stop := some x } else e

/-- A record read of one entry of queue g on the control path. -/
def recOf (g seq : Nat) : Owner → Bool
  | .man h k _ => h == g && k == seq
  | _ => false

/-- A stopped entry of queue g has its record reads that are not issued yet given up (R269). -/
def State.cancelRecs (s : State) (g seq : Nat) : State :=
  match (s.queue? g).bind (fun q => (q.entry? seq).map (fun e => (q, e))) with
  | none => s
  | some (q, e) =>
    if e.stop.isNone then s
    else
      let out := fun dst : Bool => (s.port q.cluster).rd.any (fun r => r.owner == .man g seq dst)
      let s := s.updPort q.cluster (fun p => { p with ctl := p.ctl.filter (fun r => !recOf g seq r.owner) })
      let off := fun (dst : Bool) (m : ManSide) => if out dst then m else { m with reading := none }
      let mine := fun dst : Bool => (e.side dst).reading.isSome && !out dst
      let s := if mine false then s.dropWalks (.man (Fin.ofNat 16384 g) false) else s
      let s := if mine true then s.dropWalks (.man (Fin.ofNat 16384 g) true) else s
      s.updEntry g seq (fun e => { e with mSrc := off false e.mSrc, mDst := off true e.mDst })

/-- A MAN_COPY of queue g ends for its manifests (R264, R265, R269): MAN_ERR. -/
def State.manStops (s : State) (g seq : Nat) (x : Stop) : State :=
  match s.queue? g with
  | none => s
  | some q =>
    match q.entry? seq with
    | none => s
    | some e =>
      ((s.updEntry g seq (fun e => e.stopped x)).cancelRecs g seq).raise 27 2 g (some q.inst) (queueDetail e.slot e.lap x.status)

/-- A MAN_COPY of queue g whose next fragment its manifests cannot give stops (R264, R265). -/
def State.settleMan (s : State) (g : Nat) : State :=
  match s.queue? g with
  | none => s
  | some q =>
    match q.entries.find? (fun e => e.moves && opcode e.raw == 5 && e.stop.isNone && !e.allCut) with
    | none => s
    | some e =>
      match manNext e.raw e.pos e.mSrc e.mDst with
      | .stop status side rec addr =>
        s.manStops g e.seq { pos := e.pos, idx := e.nextK, status, addr, recIdx := rec, side, portStat := 0 }
      | _ => s

/-! ### Candidates of the dispatcher -/

/-- Fragments of a context in flight (R111). -/
def State.inFlight (s : State) (x : Context) : List Frag := s.frags.filter (fun f => f.ctx == x)

/-- The next fragment of a queue, without a place in the hold, and the state of the entry once it is assigned. -/
def nextFrag (q : Queue) (g : Nat) (e : Entry) : Option (Frag × Entry) :=
  let op := opcode e.raw
  let mk := fun (c : Cut) (recS recD : Nat) =>
    ({ id := 0, ctx := .queue g, entry := e.seq, idx := c.idx, ord := e.nextOrd, row := c.row, pos := c.pos, len := c.len,
       base := c.base,
       src := if usesSrc op then some { addr := c.src, width := hfld e.raw 26 24, fixed := hbit e.raw 27 } else none,
       dst := if usesDst op then some { addr := c.dst, width := hfld e.raw 30 28, fixed := hbit e.raw 31 } else none,
       swap := hfld e.raw 22 20, crcOn := wantsCrc e.raw, recS, recD, inst := q.inst, gen := e.gen,
       cluster := q.cluster, charge := .soft q.prio } : Frag)
  if op = 5 then
    match manNext e.raw e.pos e.mSrc e.mDst with
    | .frag len src dst =>
      let c : Cut := { idx := e.nextK, pos := e.pos, len, base := 0, row := 0, src, dst }
      some (mk c (e.mSrc.pieces.headD (0, 0, 0)).1 (e.mDst.pieces.headD (0, 0, 0)).1,
        { e with started := true, nextK := e.nextK + 1, reach := max e.reach (e.nextK + 1), pos := e.pos + len
                 mSrc := e.mSrc.take (hbit e.raw 27) len, mDst := e.mDst.take (hbit e.raw 31) len })
    | _ => none
  else some (mk (cutAt e.raw e.nextOrd) 0 0, e.assigned)

/-- The next burst of a channel (R173). -/
def nextBurst (x : Chan) (n gen : Nat) : Frag :=
  let len := min (cfgBurst x.cfg) (x.len0 - x.asgd)
  { id := 0, ctx := .chan n, pos := x.asgd, len
    src := some { addr := (x.src0.toNat + (if cfgSfix x.cfg then 0 else x.asgd)) % 2 ^ 64, width := cfgSw x.cfg, fixed := cfgSfix x.cfg }
    dst := some { addr := (x.dst0.toNat + (if cfgDfix x.cfg then 0 else x.asgd)) % 2 ^ 64, width := cfgDw x.cfg, fixed := cfgDfix x.cfg }
    swap := cfgSwap x.cfg, inst := x.owner, gen, cluster := n / 64, charge := .soft (fld x.ctl 14 12) }

/-- The level gate lets bursts pass: GATE is always 1 while PACE is 0 (R162). -/
def Chan.isOpen (x : Chan) : Bool := !bit x.ctl 0 || x.gate

/-- The channel has a burst to assign: ACTIVE, gate open, no pause, bytes left (R92, R178, R188). -/
def State.chanReady (s : State) (n : Nat) : Bool :=
  let x := s.chan n
  x.state == .active && x.isOpen && !bit x.ctl 15 && !x.susp && x.wish == .none && x.fail.isNone &&
    x.asgd < x.len0 && s.active x.owner

/-- The queue is one whose fragments may be assigned (R92, R235, R342). -/
def State.queueReady (s : State) (q : Queue) : Bool := !q.susp && q.state != .off && q.state != .fenced && s.active q.inst

/-- The next fragment of a context if it is ready (R92), whatever the budgets and the space. -/
def State.readyFrag (s : State) : Context → Option Frag
  | .chan n => if s.chanReady n then some (nextBurst (s.chan n) n (s.inst (s.chan n).owner).gen) else none
  | .queue g =>
    match s.queue? g with
    | none => none
    | some q =>
      if s.queueReady q then q.next.bind (fun e => (nextFrag q g e).map (·.1)) else none

/-- A context may have one fragment more in flight (R111): a queue below its depth, a channel below two bursts. -/
def State.mayFly (s : State) (x : Context) : Bool :=
  (s.inFlight x).length < match x with
    | .chan _ => 2
    | .queue g => match s.queue? g with | some q => q.depth | none => 0

/-- Class and priority of a fragment's context. -/
def State.ctxFirm (s : State) : Context → Bool
  | .chan n => bit (s.chan n).ctl 11
  | .queue g => match s.queue? g with | some q => q.firm | none => false

def State.ctxPrio (s : State) : Context → Nat
  | .chan n => fld (s.chan n).ctl 14 12
  | .queue g => match s.queue? g with | some q => q.prio | none => 0

/-- The budget that can take a fragment now (R89). -/
def State.fragCharge (s : State) (f : Frag) : Option Charge :=
  s.canCharge f.inst f.cluster (s.ctxFirm f.ctx) (s.ctxPrio f.ctx) f.len (s.fragSpan f)

/-- A queue fragment, which CUT and the glass after a wake hold back (R90, R107). -/
def Context.isQueue : Context → Bool
  | .queue _ => true
  | .chan _ => false

/-- Admission is open to a context now (R78, R90, R107): not on the bus clock of the bell. DESIGN CHOICE (log 81): while it is closed
nothing is assigned to hold space either. -/
def State.admits (s : State) (x : Context) : Bool := !s.bell.noAdmit && !s.bell.out && !(x.isQueue && s.inCut)

/-- The ready fragment of a context with its charge, if it can be assigned now (R111, R113, R114, R120). DESIGN CHOICE (log 58): a
context whose fragment finds no hold space does not hold back the others. -/
def State.candidate (s : State) (x : Context) : Option Frag :=
  match s.readyFrag x with
  | none => none
  | some f =>
    match s.fragCharge f with
    | none => none
    | some k =>
      if s.mayFly x && s.admits x && s.mayOccupy f.inst f.cluster (slotsFor f.len) (k == .firm || !x.isQueue)
          && (s.place f.cluster f.len).isSome then some { f with charge := k }
      else none

/-- The contexts of cluster c. -/
def State.contexts (s : State) (c : Nat) : List Context :=
  (s.chans.filter (fun p => p.1 / 64 == c)).map (fun p => .chan p.1) ++
    (s.queues.filter (fun p => p.2.cluster == c)).map (fun p => .queue p.1)

/-- Place of a fragment in the dispatcher's order (R120). -/
def State.dispatchKey (s : State) (c : Nat) (f : Frag) : Nat :=
  let rank := f.charge.cls.rank
  let n := 16896
  (rank * 2 + b2n f.ctx.isQueue) * n + cycDist n (tabGet 0 (s.port c).drr rank) f.ctx.order

/-- The fragment the dispatcher of cluster c assigns next (R120). -/
def State.dispatchChoice (s : State) (c : Nat) : Option Frag :=
  minBy (s.dispatchKey c) ((s.contexts c).filterMap s.candidate)

/-- Bytes that a fragment reading nothing is filled with (R136, R137). -/
def fillBytes (raw : List Byte) (f : Frag) : List Byte :=
  if opcode raw = 7 then swapBytes f.swap ((raw.drop 24).take f.len)
  else patternBytes ((raw.drop 24).take 8) (patLenOf raw) f.swap (f.pos - f.base) f.len

/-- A fragment gets its hold space (R113, R118); one that reads nothing is filled and staged (R122). -/
def State.assign (s : State) (f : Frag) : State :=
  match s.place f.cluster f.len with
  | none => s
  | some (e, b, slot) =>
    let f := { f with id := s.nextId, eng := e, bank := b, slot, asgAt := s.now, resv := s.bell.glass }
    let s := { s with nextId := s.nextId + 1 }
    let s := s.updEng e (fun x => { x with lastInst := f.inst })
    let s := s.updPort f.cluster (fun p => { p with drr := tabSet p.drr f.charge.cls.rank (f.ctx.order + 1) })
    match f.ctx with
    | .chan n => { (s.updChan n (fun x => { x with asgd := x.asgd + f.len })) with frags := s.frags ++ [f] }
    | .queue g =>
      match s.queue? g with
      | none => s
      | some q =>
        match q.next with
        | none => s
        | some en =>
          let fill := if f.src.isNone then fillBytes en.raw f else []
          let f := if f.src.isNone && f.crcOn then { f with crc := crc32c 0 fill } else f
          let s := { s with frags := s.frags ++ [f], hold := Memory.writes s.hold f.at_ fill }
          match nextFrag q g en with
          | none => s
          | some (_, en') => (s.updEntry g en.seq (fun _ => en')).settleMan g

/-- DISPATCH_ASSIGN (R120). -/
def doDispatch (c : Nat) (s : State) : State :=
  if s.newWork then
    match s.dispatchChoice c with
    | none => s
    | some f => s.assign f
  else s

/-- DISPATCH_ASSIGN: the dispatcher of cluster c assigns the next ready fragment, if there is one (R113, R120). -/
def execDispatchAssign (c : Fin 8) (s : State) : Result := .next (doDispatch c.val s)

end Sys2Proof.Machine
end

