-- ==== Sys2Proof/Machine/Channel.lean ====
section
/-! DEFINITION. Hardware channels: start, promotion, link fetches, pause, stop, errors and rollback (04). -/

namespace Sys2Proof.Machine

open Sys2Proof

/-! ### Status -/

/-- Codes of the channel states (R162). -/
def ChState.code : ChState → Nat
  | .idle => 0
  | .armed => 1
  | .active => 2
  | .linkwait => 3
  | .pausing => 4
  | .paused => 5
  | .stopping => 6
  | .errdrain => 7
  | .error => 8

/-- Bursts of channel n in flight (R162). -/
def State.infl (s : State) (n : Nat) : Nat := (s.inFlight (.chan n)).length

/-- GATE as CH_STAT shows it (R162): always 1 while PACE is 0. DESIGN CHOICE (log 61): before the fuses are loaded, right after
a block reset, it reads its Reset column, 0 (R528). -/
def State.gateBit (s : State) (n : Nat) : Bool := s.pwr.step != 1 && (s.chan n).isOpen

/-- CH_STAT (R162). -/
def State.chStat (s : State) (n : Nat) : Word :=
  let x := s.chan n
  pack [(31, 28, x.err), (27, 26, x.endc), (25, 25, b2n x.fetch), (24, 24, b2n x.shValid), (23, 23, b2n (s.gateBit n)),
    (22, 22, b2n x.susp), (21, 20, s.infl n), (3, 0, x.state.code)]

/-- CH_ERRINFO (R167). -/
def errInfo (side stat : Nat) (late : Bool) (ahead : Nat) (bytes : Nat) : Word :=
  pack [(15, 14, side), (13, 12, stat), (11, 11, b2n late), (10, 9, ahead), (8, 0, bytes)]

/-- An event record of channel n (R193, R243), on the port of its cluster. -/
def State.chEvent (s : State) (n code : Nat) (load : List Byte) : State :=
  s.post (s.chan n).owner (s.record code n load (n / 64))

/-- CH_DONE (R192, R193): it carries the value XFERS takes at this transfer's increment. -/
def State.chDone (s : State) (n : Nat) : State :=
  (s.updChan n (fun x => { x with posted := true })).chEvent n 0x20 (leBytes 4 (satAdd 32 (s.chan n).xfers 1))

/-- The channel enters IDLE: 1 CHAIN, 2 LINKLIM, 3 STOPPED (R162, R193). -/
def State.chIdle (s : State) (n endc : Nat) : State :=
  let s := s.updChan n (fun x => { x with state := .idle, endc, wish := .none, fail := none, cut := none })
  s.chEvent n 0x21 (leBytes 8 (s.chStat n).toNat)

/-- The channel enters ERROR with a code (R162, R193). -/
def State.chError (s : State) (n err : Nat) : State :=
  let s := s.updChan n (fun x => { x with state := .error, err, wish := .none, fail := none, cut := none })
  s.chEvent n 0x22 (leBytes 8 (s.chStat n).toNat ++ leBytes 8 (s.chan n).errinfo.toNat)

/-- CH_BAD_DESC for a transfer that would be made active, and the entry into ERROR with BAD_DESC (R167, R176, R182). -/
def State.badDesc (s : State) (n : Nat) : State :=
  ((s.updChan n (fun x => { x with errinfo := 0 })).raise 34 3 n (some (s.chan n).owner)).chError n 1

/-! ### Registers and progress -/

/-- An address register after a number of bytes; a fixed side does not move (R175). -/
def addrAfter (a : Word) (fixed : Bool) (n : Nat) : Word := if fixed then a else a + BitVec.ofNat 64 n

/-- CH_SRC, CH_DST and CH_REMAIN describe the transfer from a position on (R175, R191, R195). -/
def Chan.settle (x : Chan) (pos : Nat) : Chan :=
  { x with src := addrAfter x.src0 (cfgSfix x.cfg) pos, dst := addrAfter x.dst0 (cfgDfix x.cfg) pos
           remain := x.len0 - pos }

/-- A transfer begins at the registers as they stand. -/
def Chan.begin (x : Chan) : Chan :=
  { x with src0 := x.src, dst0 := x.dst, len0 := x.remain, asgd := 0, rdPos := 0, wrPos := 0, wrote := 0
           fail := none, cut := none, posted := false }

/-- The channel is held by PAUSE or SUSP (R188). -/
def Chan.holding (x : Chan) : Bool := bit x.ctl 15 || x.susp

/-- The state of a channel with a transfer loaded (R176, R189). -/
def Chan.running (x : Chan) : ChState := if x.isOpen then .active else .armed

/-- The state of a channel that goes on after a promotion or with a fetch to come (R182). -/
def State.goOn (s : State) (n : Nat) (next : Chan → ChState) : State :=
  s.updChan n (fun x => { x with state := if !x.holding then next x else if s.infl n = 0 then .paused else .pausing })

/-- The shadow becomes the active set (R182); a register that `kept` names keeps what software has written on this bus clock
(R22). -/
def Chan.promoted (x : Chan) (kept : Nat → Bool) : Chan :=
  { x with
    src := if kept 0x40 then x.src else x.shSrc
    dst := if kept 0x48 then x.dst else x.shDst
    remain := if kept 0x50 then x.remain else x.shLen
    cfg := if kept 0x58 then x.cfg else x.shCfg
    next := if kept 0x60 then x.next else x.shNext
    shValid := false }

/-- Promotion of a valid shadow (R182): malformed, it leads to ERROR and stays. -/
def State.promote (s : State) (n : Nat) : State :=
  let x := (s.chan n).promoted (s.chKept n)
  if badTransfer x.src x.dst x.remain x.cfg x.next then s.badDesc n
  else (s.updChan n (fun _ => x.begin)).goOn n Chan.running

/-- The cases of R182 once the active set is spent. -/
def State.afterTransfer (s : State) (n : Nat) : State :=
  let x := s.chan n
  if x.shValid then s.promote n
  else
    match x.fetchBad with
    | some (err, stat) => (s.updChan n (fun x => { x with errinfo := errInfo 3 stat false 0 32 })).chError n err
    | none =>
      if !cfgLink x.cfg then s.chIdle n 1
      else if x.limit ≠ 0 ∧ x.limit ≤ x.count then s.chIdle n 2
      else s.goOn n (fun _ => .linkwait)

/-- A count of CH_XFERS changes (R22, R168). -/
def State.chCount (s : State) (n : Nat) (f : Chan → Chan) : State := s.unlessWritten (chOff n 0xC8) (fun s => s.updChan n f)

/-- A transfer is complete: CH_DONE, unless it has been posted, and XFERS (R192). -/
def State.countTransfer (s : State) (n : Nat) : State :=
  (if cfgEvt (s.chan n).cfg && !(s.chan n).posted then s.chDone n else s).chCount n (fun x => { x with xfers := satAdd 32 x.xfers 1 })

/-- CH_REMAIN has reached 0 (R182, R192). -/
def State.transferDone (s : State) (n : Nat) : State := (s.countTransfer n).afterTransfer n

/-- The active set is spent: its last byte is written and acknowledged. -/
def Chan.spent (x : Chan) : Bool := x.remain == 0

/-! ### Link fetches (R183 to R186) -/

/-- The conditions of R183 for a link fetch. -/
def Chan.wantsFetch (x : Chan) : Bool :=
  !x.shValid && !x.fetch && cfgLink x.cfg && (x.limit == 0 || x.count < x.limit) && x.fetchBad.isNone &&
    (x.state == .active || x.state == .armed || x.state == .linkwait || x.state == .pausing || x.state == .paused)

/-- PAUSE and SUSP are both 0 in PAUSED (R189): the state the registers call for. The transfer goes on from the registers
as they stand, checked as one made active (log entry 13). -/
def State.asCalled (s : State) (n : Nat) : State :=
  let x := s.chan n
  if x.spent then (s.updChan n Chan.begin).afterTransfer n
  else if badTransfer x.src x.dst x.remain x.cfg x.next then s.badDesc n
  else s.updChan n (fun x => let x := x.begin; { x with state := x.running })

/-- The channel waits for its fetch with its active set spent (R182). -/
def Chan.awaits (x : Chan) : Bool := x.spent && (x.state == .linkwait || x.state == .pausing || x.state == .paused)

/-- A link fetch fails (R185): LINK_ERR 3, LINK_TMO 4 or BAD_LINK 2, with its fault source. -/
def State.fetchFails (s : State) (n err stat source : Nat) : State :=
  let s := (s.updChan n (fun x => { x with fetch := false, fetchBad := some (err, stat) })).raise source 3 n
    (some (s.chan n).owner) (errInfo 3 stat false 0 32)
  if (s.chan n).awaits then s.afterTransfer n else s

/-- A fetched descriptor (R184): accepted into the shadow, or BAD_LINK. A shadow register written on this bus clock keeps what
software wrote (R22). -/
def State.fetchData (s : State) (n : Nat) (d : List Byte) : State :=
  let w := fun (off k : Nat) => BitVec.ofNat 64 (at_ d off k)
  if badTransfer (w 0 8) (w 8 8) (at_ d 16 4) (w 20 4) (w 24 8) then s.fetchFails n 2 0 34
  else
    let s := s.updChan n (fun x => { x with
      shSrc := if s.chKept n 0x80 then x.shSrc else w 0 8
      shDst := if s.chKept n 0x88 then x.shDst else w 8 8
      shLen := if s.chKept n 0x90 then x.shLen else at_ d 16 4
      shCfg := if s.chKept n 0x98 then x.shCfg else w 20 4 &&& cfgMask
      shNext := if s.chKept n 0xA0 then x.shNext else w 24 8 &&& mask 63 5
      shValid := true, filled := some s.now, fetch := false, count := satAdd 16 x.count 1 })
    if (s.chan n).awaits then s.promote n else s

/-- The requests of some owner are retired: their responses will be discarded, and none is issued any more (R186). -/
def State.disown (s : State) (mine : Owner → Bool) (owner : Owner) : State :=
  let off := fun o : Owner => if mine o then owner else o
  { s with
    ports := s.ports.map (fun p => (p.1, { p.2 with
      rd := p.2.rd.map (fun r => { r with owner := off r.owner })
      wr := p.2.wr.map (fun w => { w with owner := off w.owner })
      ctl := p.2.ctl.filter (fun c => !mine c.owner) }))
    fabs := s.fabs.map (fun p => (p.1, { p.2 with
      slots := p.2.slots.map (fun l => { l with owner := off l.owner }) })) }

/-- Requests and chart reads of one access (R186). -/
def ownsAccess (o : Owner) (x : XCtx) (own : Owner) : Bool :=
  own == o || (match own with | .chart y _ => y == x | _ => false)

/-- An outstanding link fetch of channel n is retired (R186, R191). -/
def State.retireFetch (s : State) (n : Fin 512) : State :=
  ((s.disown (ownsAccess (.link n.val) (.link n))
    (.late { kind := 3, unit := n.val, inst := some (s.chan n.val).owner })).dropWalks (.link n)).updChan n.val (fun x => { x with fetch := false })

/-! ### Discarding bursts (R191) -/

/-- A burst has begun writing (R191). -/
def Frag.writes (f : Frag) : Bool := f.phase == .writing || f.phase == .draining

/-- The bursts of channel n that have not begun writing are discarded: those with no read outstanding at once, the
others once their beats are absorbed (R191, R551). -/
def State.discardBursts (s : State) (n : Nat) : State :=
  let mine := fun f : Frag => f.ctx == .chan n && !f.writes
  let cut := ((s.frags.filter mine).map (·.pos)).foldl min (s.chan n).asgd
  let any := s.frags.any mine
  let keep := s.frags.filter (fun f => !(mine f && f.rdOut == 0))
  let lost := (s.frags.filter (fun f => mine f && f.rdOut == 0)).map (·.id)
  let s := { s with frags := keep.map (fun f => if mine f then { f with dead := true, rdReqs := [] } else f) }
  let s := lost.foldl (fun s id => s.dropWalks (.frag id)) s
  if any then s.updChan n (fun x => { x with cut := some (match x.cut with | some c => min c cut | none => cut) }) else s

/-- CH_ERRINFO of the earliest failed burst (R167, R195). -/
def Chan.failInfo (x : Chan) : Word :=
  match x.fail with
  | none => x.errinfo
  | some b => errInfo b.side b.stat b.late (b2n (b.pos + 1 < x.wrote)) b.len

/-- The channel has drained: what its wish and its failed burst lead to (R188, R191, R194, R195, R198). DESIGN CHOICE (log 77): a
STOPPING that a containment ends in ERROR leaves END as it was. -/
def State.drained (s : State) (n : Nat) : State :=
  let x := s.chan n
  match x.state with
  | .pausing => if x.holding then s.updChan n (fun x => { x with state := .paused }) else s.asCalled n
  | .stopping =>
    let s := s.updChan n (fun x => x.settle (x.cut.getD x.asgd))
    if x.wish == .contain then s.chError n 9 else s.chIdle n 3
  | .errdrain =>
    match x.fail with
    | none => s
    | some b =>
      let s := s.updChan n (fun x => (x.settle (min b.pos (x.cut.getD b.pos))))
      if x.wish == .reset then (s.updChan n (fun x => { x with errinfo := x.failInfo })).chIdle n 3
      else if x.wish == .contain then s.chError n 9
      else (s.updChan n (fun x => { x with errinfo := x.failInfo })).chError n b.err
  | .active => if x.isOpen then s else s.updChan n (fun x => { x with state := .armed })
  | _ => s

/-- What a drained channel comes to, if nothing of it is in flight. -/
def State.ifDrained (s : State) (n : Nat) : State := if s.infl n = 0 then s.drained n else s

/-! ### Ends of bursts (R175, R192, R194, R195) -/

/-- A burst, already taken from the fragments in flight, has retired with outcome OK. -/
def State.burstOk (s : State) (n : Nat) (f : Frag) : State :=
  let s := (s.chCount n (fun x => { x with bursts := satAdd 32 x.bursts 1 })).updChan n (fun x => { x with
    remain := x.remain - f.len, wrote := max x.wrote (f.pos + 1) })
  let x := s.chan n
  if x.spent && (x.state == .active || x.state == .pausing) then s.transferDone n
  else if x.spent && x.state == .stopping && x.cut.isNone then
    (s.countTransfer n).ifDrained n
  else s.ifDrained n

/-- A burst, already taken from the fragments in flight, has ended with a failure: ERR code, SIDE and STAT (R194).
`out` says that it was written out, `late` that every write request of the transfer had been issued. -/
def State.burstFailed (s : State) (n : Nat) (f : Frag) (err side stat : Nat) (out late : Bool) : State :=
  let b : BurstFail := { pos := f.pos, len := f.len, err, side, stat, late }
  let s := s.updChan n (fun (x : Chan) =>
    let x : Chan := { x with
      wrote := if out then max x.wrote (f.pos + 1) else x.wrote
      fail := match x.fail with
        | some a => if f.pos < a.pos then some b else some a
        | none => some b }
    let run := x.state == .active || x.state == .armed || x.state == .pausing || x.state == .stopping
    let x : Chan := { x with
      state := if run then .errdrain else x.state
      wish := if x.state == .stopping && x.wish == .stop then .none else x.wish }
    { x with errinfo := x.failInfo })
  s.ifDrained n

/-! ### Commands (R176, R177, R182, R188, R191) -/

/-- START (R176); ignored in every state but IDLE and ERROR, and while the owner is contained (R198) or in its reset
sequence (R499). -/
def State.chStart (s : State) (n : Nat) : State :=
  let x := s.chan n
  if !(x.state == .idle || x.state == .error) || s.isContained x.owner || s.inReset x.owner then s
  else
    let s := s.updChan n (fun x => { x with count := 0, endc := 0, err := 0, fetchBad := none, gate := false, wish := .none
                                            fail := none, cut := none })
    if x.remain ≠ 0 then
      if badTransfer x.src x.dst x.remain x.cfg x.next then s.badDesc n
      else (s.updChan n Chan.begin).goOn n Chan.running
    else if x.shValid then s.promote n
    else if cfgLink x.cfg then (s.updChan n Chan.begin).goOn n (fun _ => .linkwait)
    else s.updChan n (fun x => { x with state := .idle })

/-- STOP and the events of R198 that act as it: `wish` says what the drain leads to. -/
def State.chHalt (s : State) (n : Fin 512) (wish : StopWish) : State :=
  let x := s.chan n.val
  let clear := fun s : State =>
    ((s.discardBursts n.val).retireFetch n).updChan n.val (fun x => { x with shValid := false })
  match x.state with
  | .idle => s
  | .paused => (s.updChan n.val (fun x => { x with shValid := false, err := 0 })).retireFetch n |>.chIdle n.val 3
  | .error => (s.updChan n.val (fun x => { x with shValid := false, err := 0 })).retireFetch n |>.chIdle n.val 3
  | .stopping => (s.updChan n.val (fun x => { x with wish := if wish == .stop then x.wish else wish })).ifDrained n.val
  | .errdrain =>
    ((clear s).updChan n.val (fun x => { x with wish := if wish == .stop then x.wish else wish })).ifDrained n.val
  | _ => ((clear s).updChan n.val (fun x => { x with state := .stopping, wish })).ifDrained n.val

/-- CH_CMD.STOP (R191). -/
def State.chStop (s : State) (n : Fin 512) : State := s.chHalt n .stop

/-- Containment of the owner (R198): the channel ends in ERROR with CONTAINED. -/
def State.chContain (s : State) (n : Fin 512) : State :=
  match (s.chan n.val).state with
  | .idle => s.chError n.val 9
  | .error => if (s.chan n.val).err = 9 then s else s.chError n.val 9
  | .paused =>
    ((s.retireFetch n).updChan n.val (fun x => { x with shValid := false })).chError n.val 9
  | _ => s.chHalt n .contain

/-- LOAD (R161, R182). A fetch that began on the same bus clock gives way to it (R183). -/
def State.chLoad (s : State) (n : Nat) : State :=
  let s := if (s.chan n).fetch && (s.chan n).rose == some s.now then s.retireFetch (Fin.ofNat 512 n) else s
  let x := s.chan n
  if x.shValid || x.fetch then s
  else
    let s := s.updChan n (fun x => { x with shValid := true })
    if x.state == .linkwait then s.promote n else s

/-- DROP (R161). -/
def State.chDrop (s : State) (n : Nat) : State :=
  let x := s.chan n
  if x.state == .idle || x.state == .paused || x.state == .error then s.updChan n (fun x => { x with shValid := false })
  else s

/-- PAUSE or SUSP has been set (R188, R199). -/
def State.chHold (s : State) (n : Nat) : State :=
  let x := s.chan n
  if x.state == .armed || x.state == .active || x.state == .linkwait then
    s.updChan n (fun x => { x with state := if s.infl n = 0 then .paused else .pausing })
  else s

/-- PAUSE and SUSP are both 0 again (R189, R199): PAUSED is left at once, PAUSING once its last burst has retired. -/
def State.chResume (s : State) (n : Nat) : State :=
  if (s.chan n).holding || (s.chan n).state != .paused then s else s.asCalled n

/-- PAUSE is as written: the channel holds or goes on (R188, R189). -/
def State.pauseActs (s : State) (n : Nat) : State := if bit (s.chan n).ctl 15 then s.chHold n else s.chResume n

/-- CH_CMD acts (R161): DROP and LOAD before START or STOP (log entry 28), and STOP governs START. An owner in its reset sequence
ignores it (R502). `all` is false for the manager's copy of a bound channel, of which only STOP acts (R157). -/
def State.chCmd (s : State) (n : Nat) (all : Bool) (v : Word) : State :=
  if s.inReset (s.chan n).owner then s
  else
    let s := if all && bit v 3 then s.chDrop n else s
    let s := if all && bit v 2 then s.chLoad n else s
    if bit v 1 then s.chStop (Fin.ofNat 512 n)
    else if all && bit v 0 then s.chStart n
    else s

/-- The gate meets a sampled level (R177); the closing condition governs when both hold. -/
def Chan.gateAt (x : Chan) (level : Nat) : Bool :=
  let hi := x.high ≤ level
  let lo := level ≤ x.low
  let opens := if bit x.ctl 8 then lo else hi
  let closes := if bit x.ctl 8 then hi else lo
  if closes then false else if opens then true else x.gate

/-- A level is sampled (R44, R177, R178, R181). -/
def State.chLevel (s : State) (n level : Nat) : State :=
  let s := s.updChan n (fun x => { x with cur := level, gate := if bit x.ctl 0 then x.gateAt level else x.gate })
  let x := s.chan n
  if x.state == .armed && x.isOpen then s.updChan n (fun x => { x with state := .active })
  else if x.state == .active && !x.isOpen && s.infl n = 0 then s.updChan n (fun x => { x with state := .armed })
  else s

end Sys2Proof.Machine
end

