-- ==== Sys2Proof/Machine/Engine.lean ====
section
/-! DEFINITION. A fragment's passage through an engine: admission (R89, R121, R268), reads (R123), staging (R119),
writes (R124, R131), outcomes (R125, R269), give-back (R121) and engine halts (R148). -/

namespace Sys2Proof.Machine

open Sys2Proof

/-- Attribution of a fault on a fragment (R409). -/
def Frag.attr (f : Frag) : Attr := { kind := 1, unit := f.eng, inst := some f.inst }

/-- Instance address of the first byte of a fragment on a side (R425). -/
def Frag.sideAddr (f : Frag) (dst : Bool) : Nat :=
  match if dst then f.dst else f.src with
  | some d => d.addr
  | none => 0

/-- The 64 B entry of a fragment of a queue, empty if the entry is gone. -/
def State.entryRaw (s : State) (f : Frag) : List Byte :=
  match f.ctx with
  | .chan _ => []
  | .queue g =>
    match (s.queue? g).bind (fun q => q.entry? f.entry) with
    | some e => e.raw
    | none => []

/-! ### Order on the port (R126, R174, R267) -/

/-- A fragment stands before another of its context: that of an earlier entry, or of an earlier place in processing order (R256). -/
def Frag.prior (x f : Frag) : Bool :=
  x.ctx == f.ctx && (x.entry < f.entry || (x.entry == f.entry && (if f.ctx.isQueue then x.ord < f.ord else x.id < f.id)))

/-- Fragments of the same entry, or of the same channel, earlier in processing order. -/
def State.aheadOf (s : State) (f : Frag) : List Frag := s.frags.filter (fun x => x.prior f && x.entry == f.entry)

/-- Rows of the fragments before one in its entry that have been given back and wait to be assigned again (R121). -/
def State.backRows (s : State) (f : Frag) : List Nat :=
  match f.ctx with
  | .chan _ => []
  | .queue g =>
    match (s.queue? g).bind (fun q => q.entry? f.entry) with
    | some e => (e.back.filter (· < f.ord)).map (fun k => (cutAt e.raw k).row)
    | none => []

/-- The first read request of a fragment may be issued (R89, R126, R174, R267): behind that of every fragment of its context
before it, but in an overlapping rectangle a fragment waits for none of another row (log entry 62). -/
def State.readOrder (s : State) (f : Frag) : Bool :=
  let before := s.frags.filter (fun x => x.prior f)
  let ahead := s.aheadOf f
  let raw := s.entryRaw f
  let fixed := match f.src with | some d => d.fixed | none => false
  before.all (fun x => x.phase != .assigned || (rectOverlap raw && x.entry == f.entry && x.row != f.row)) &&
    ((f.ctx.isQueue && !fixed) || ahead.all (fun x => x.rdReqs.isEmpty)) &&
    (!copyOverlap raw || ahead.isEmpty) && (!rectOverlap raw || (ahead.all (fun x => x.row != f.row) && !(s.backRows f).contains f.row))

/-- The first write request of a fragment may be issued (R126, R174, R267). -/
def State.writeOrder (s : State) (f : Frag) : Bool :=
  let ahead := s.aheadOf f
  let fixed := match f.dst with | some d => d.fixed | none => false
  (!fixed || ahead.all (fun x => x.writes && x.wrReqs.isEmpty)) &&
    (!rectOverlap (s.entryRaw f) || (ahead.all (fun x => x.row == f.row || (x.phase != .assigned && x.phase != .reading)) &&
      (s.backRows f).all (· == f.row)))

/-! ### Ends (R125, R269) -/

/-- Outcome of a fragment by R125: status code (0 OK, 1 POISONED), side and port status. -/
def Frag.outcome (f : Frag) : Nat × Nat × Nat :=
  match f.srcErr, f.dstErr with
  | some (c, st), _ => (c, 1, st)
  | none, d =>
    if f.halted && !f.writes then (0x12, 0, 0)
    else
      match d with
      | some (c, st) => (c, 2, st)
      | none => if f.lines.isEmpty && !f.outPoison then (0, 0, 0) else (1, 0, 0)

/-- What the end of a fragment leaves in its entry (R135, R269, R271, R346). -/
def Entry.afterFrag (e : Entry) (f : Frag) : Entry :=
  let o := f.outcome
  if f.cutOff || (f.dead && !f.writes && o.1 ≤ 1) then e
  else if o.1 ≤ 1 then
    { e with poison := e.poison || o.1 == 1
             okFrags := e.okFrags ++ [(f.idx, f.pos + f.len)]
             crcs := if f.crcOn then e.crcs ++ [(f.pos, f.len, f.crc)] else e.crcs }
  else
    e.stopped { pos := f.pos, idx := f.idx, status := o.1, side := o.2.1, portStat := o.2.2
                addr := if o.2.1 = 0 then 0 else f.sideAddr (o.2.1 == 2) }

/-- Every burst of the channel's transfer has issued its last write request (R167, R195); a discarded one never will. DESIGN CHOICE
(log 63): the error counts as arrived when its burst ends. -/
def State.lateError (s : State) (n : Nat) (f : Frag) : Bool :=
  (s.chan n).cut.isNone && (s.chan n).asgd == (s.chan n).len0 &&
    (f :: s.inFlight (.chan n)).all (fun x => x.writes && x.wrReqs.isEmpty)

/-- The end of a channel burst (R162, R167, R194); one discarded by a stop only leaves the flight (R191). DESIGN CHOICE (log 78): of
a burst poisoned both by a beat with status POISON and by a parity error STAT is 3. -/
def State.burstEnds (s : State) (n : Nat) (f : Frag) : State :=
  let o := f.outcome
  let late := s.lateError n f
  if f.cutOff || (f.dead && !f.writes) then s.ifDrained n
  else if o.1 = 0 then s.burstOk n f
  else if o.1 = 1 then
    if f.lines.isEmpty then s.burstFailed n f 7 2 0 true late
    else s.burstFailed n f 7 1 (if f.poisStat then 3 else 0) true late
  else if o.1 = 0x12 then s.burstFailed n f 8 0 0 false late
  else if o.2.1 = 1 then s.burstFailed n f 5 1 o.2.2 false late
  else s.burstFailed n f 6 2 o.2.2 f.writes late

/-- A fragment ends: it leaves the flight, and its entry or channel takes its outcome. -/
def State.endFrag (s : State) (id : Nat) : State :=
  match s.frag? id with
  | none => s
  | some f =>
    let s := (s.dropFrag id).dropWalks (.frag id)
    match f.ctx with
    | .chan n => s.burstEnds n f
    | .queue g => (s.updEntry g f.entry (fun e => if e.issued then e else e.afterFrag f)).cancelRecs g f.entry

/-- A fragment whose reads are over (R119, R123, R137, R148): it is staged, or ends with what stops it. -/
def State.readsOver (s : State) (id : Nat) : State :=
  match s.frag? id with
  | none => s
  | some f =>
    if f.phase == .reading && f.rdReqs.isEmpty && f.rdOut == 0 then
      if f.srcErr.isSome || f.halted || f.dead then s.endFrag id
      else
        let data := if f.crcOn then Memory.reads s.hold f.at_ f.len else []
        let s := s.updFrag id (fun f => { f with phase := .staged, crc := if f.crcOn then crc32c 0 data else f.crc })
        if f.dst.isNone then s.endFrag id else s
    else s

/-- A fragment whose last write beat is accepted releases its hold space; with every acknowledgement in, it retires
(R118, R131). -/
def State.writesOver (s : State) (id : Nat) : State :=
  match s.frag? id with
  | none => s
  | some f =>
    if f.writes && f.wrReqs.isEmpty && f.wrBeats == 0 then
      let s := s.updFrag id (fun f => { f with phase := .draining, held := false })
      if f.wrOut = 0 then s.endFrag id else s
    else s

/-! ### Admission (R89, R121, R268, R359) -/

/-- What the checks before a fragment's first request answer. -/
inductive Admit where
  | wait
  | xfail (dst : Bool) (cause : Nat)
  | noLink (dst : Bool)
  | giveBack
  | go (k : Charge)
  deriving DecidableEq, Repr

/-- Addresses whose pages a side touches (R268). -/
def Side.pages (d : Side) (len : Nat) : List Nat := pagesOf d.addr (if d.fixed then 2 ^ d.width else len)

/-- The first page of a side that does not translate. -/
def State.sideXlate (s : State) (f : Frag) (dst : Bool) : Option (Nat × XRes) :=
  match if dst then f.dst else f.src with
  | none => none
  | some d => s.xlateAll (.frag f.id) f.inst dst (d.pages f.len)

/-- A side is remote (R354). -/
def State.remote (s : State) (d : Option Side) : Bool :=
  match d with
  | none => false
  | some d => nodeOf d.addr != s.node

/-- A remote side that no fabric port leads to (R359). -/
def State.unlinked (s : State) (d : Option Side) : Bool :=
  match d with
  | none => false
  | some d => nodeOf d.addr != s.node && (s.route (nodeOf d.addr)).isNone

/-- The checks of a fragment that has issued nothing: order, translation of the source and then of the destination,
a fabric port, and the allowance: the one reserved for it in this glass, or that of a new glass (R89, R121, R268, R359, R552). -/
def State.admitCheck (s : State) (f : Frag) : Admit :=
  if f.phase != .assigned || f.dead || f.halted || !s.readOrder f || (f.src.isNone && !s.writeOrder f) || s.bell.out then .wait
  else
    match s.sideXlate f false, s.sideXlate f true with
    | some (_, .fail c), _ => .xfail false c
    | some _, _ => .wait
    | none, some (_, .fail c) => .xfail true c
    | none, some _ => .wait
    | none, none =>
      if s.unlinked f.src then .noLink false
      else if s.unlinked f.dst then .noLink true
      else if !s.admits f.ctx then .giveBack
      else if f.resv == s.bell.glass && s.spanFits f.inst (s.fragSpan f) then .go f.charge
      else
        match s.fragCharge f with
        | none => .giveBack
        | some k => .go k

/-- The requests of one side (R128, R130, R366), with their translated addresses. -/
def State.sideReqs (s : State) (f : Frag) (dst : Bool) : List Req :=
  match if dst then f.dst else f.src with
  | none => []
  | some d =>
    (shape (nodeOf d.addr != s.node) d.fixed d.width d.addr f.len).map (fun c =>
      { va := c.addr, pa := s.paOf (.frag f.id) f.inst c.addr dst, width := c.width, bytes := c.bytes, fixed := d.fixed
        off := c.off })

/-- The port of a side that is remote (R359). -/
def State.sidePort (s : State) (d : Option Side) : Option Nat :=
  match d with
  | none => none
  | some d => if nodeOf d.addr = s.node then none else s.route (nodeOf d.addr)

/-- A fragment is admitted: it is charged and its requests are fixed (R89, R118, R359). -/
def State.admitFrag (s : State) (f : Frag) (k : Charge) : State :=
  let rd := s.sideReqs f false
  let wr := s.sideReqs f true
  let pages := fun d : Option Side => match d with | some d => d.pages f.len | none => []
  let s := (s.touchAll f.inst (pages f.src ++ pages f.dst)).dropWalked (.frag f.id)
  let s := s.charge f.inst f.cluster k f.len (s.fragSpan f)
  { s with nextId := s.nextId + 1 }.updFrag f.id (fun g => { g with
    charge := k, rdReqs := rd, wrReqs := wr, admGlass := s.bell.glass, admAt := s.nextId
    rport := s.sidePort f.src, wport := s.sidePort f.dst
    phase := if f.src.isNone then .staged else .reading })

/-- A given-back fragment is taken back into its entry or channel (R121). -/
def State.unassign (s : State) (f : Frag) : State :=
  match f.ctx with
  | .chan n => s.updChan n (fun x => { x with asgd := f.pos })
  | .queue g => s.updEntry g f.entry (fun e =>
      let man := opcode e.raw == 5
      { e.givenBack f.ord with
               pos := if man then f.pos else e.pos
               mSrc := if man && hasMan e.raw false then e.mSrc.putBack f.recS (f.sideAddr false) f.len else e.mSrc
               mDst := if man && hasMan e.raw true then e.mDst.putBack f.recD (f.sideAddr true) f.len else e.mDst })

/-- A fragment gives back its hold space and waits, and with it those of its context that stand behind it and are
not admitted (R89, R121); a channel that has nothing left in flight has drained (R188, R194). -/
def State.giveBack (s : State) (f : Frag) : State :=
  let mine := fun x : Frag => x.ctx == f.ctx && !x.prior f && x.phase == .assigned
  let back := (s.frags.filter mine).reverse
  let s := { s with frags := s.frags.filter (fun x => !mine x) }
  let s := back.foldl (fun s x => (s.unassign x).dropWalks (.frag x.id)) s
  match f.ctx with
  | .chan n => s.ifDrained n
  | .queue _ => s

/-- A page of a fragment has failed translation (R268, R330): DATA_XLATE. -/
def State.fragXfail (s : State) (f : Frag) (dst : Bool) (cause : Nat) : State :=
  let s := s.updFrag f.id (fun g =>
    if dst then { g with dstErr := some (0x14, 0) } else { g with srcErr := some (0x13, 0) })
  (s.raiseAt 14 f.attr (BitVec.ofNat 64 (f.sideAddr dst)) (some cause)).endFrag f.id

/-- No fabric port is up for a remote side (R359): NODE_ABSENT and FP_NOLINK. -/
def State.fragNoLink (s : State) (f : Frag) (dst : Bool) : State :=
  let s := s.updFrag f.id (fun g =>
    if dst then { g with dstErr := some (0x21, 0) } else { g with srcErr := some (0x21, 0) })
  (s.raiseAt 49 f.attr (BitVec.ofNat 64 (f.sideAddr dst))).endFrag f.id

/-! ### Requests of a fragment -/

/-- The next read request of a fragment is issued (R118, R131, R175). -/
def State.fragRead (s : State) (id : Nat) : State :=
  match s.frag? id with
  | none => s
  | some f =>
    match f.rdReqs with
    | [] => s
    | q :: rest =>
      let s := s.updFrag id (fun f => { f with rdReqs := rest, rdOut := f.rdOut + 1 })
      let s := match f.ctx with
        | .queue _ => s
        | .chan n => s.updChan n (fun x =>
            let p := max x.rdPos (f.pos + q.off + q.bytes)
            { x with rdPos := p, src := addrAfter x.src0 (cfgSfix x.cfg) p })
      match f.rport with
      | none => s.issueRead f.cluster (.frag id) f.inst f.gen q (f.charge == Charge.firm) f.charge.acct
      | some p => s.issueSpan p (.frag id) false f.inst f.gen q f.charge.cls f.cluster [] 0

/-- A beat is written out poisoned because of a check at write-out (R139, R140): OUT_PAR counts it, and the fault names the
destination address of its first byte (R425). -/
def State.outParity (s : State) (f : Frag) (va : Nat) (par : OutPar) : State :=
  if par == .good then s
  else
    ((s.unlessWritten (cluErrOff f.cluster) (fun s => s.updPort f.cluster (fun p => { p with outPar := satAdd 16 p.outPar 1 }))).updFrag f.id (fun f => { f with
      outPoison := true })).raiseAt (if par == .holdPar then 12 else 13) f.attr (BitVec.ofNat 64 va)

/-- POISON of a WR_REQ: a bit for each 64 B of payload with a byte in a poisoned line (R364). -/
def poisonBits (lines : List Nat) (off bytes : Nat) : Nat :=
  total ((List.range (ceilDiv bytes 64)).map (fun j =>
    let a := off + 64 * j
    let b := min (off + bytes) (a + 64)
    if lines.any (fun l => a / 64 ≤ l && l ≤ (b - 1) / 64) then 2 ^ j else 0))

/-- Every byte of the channel's transfer has been sent to its destination (R192, R397): every burst is assigned, none has failed or
been discarded, and each one in flight has issued its last write request. -/
def State.allSent (s : State) (n : Nat) : Bool :=
  let x := s.chan n
  x.asgd == x.len0 && x.fail.isNone && x.cut.isNone && (s.inFlight (.chan n)).all (fun f => f.writes && f.wrReqs.isEmpty)

/-- The next write request of a fragment is issued (R118, R124, R131, R175, R379). The data of a remote write leave
with the request; `par` is what the checks find on its 64 B lines (R139). A channel's CH_DONE without BARRIER follows its last
write request (R192, R397). -/
def State.fragWrite (s : State) (id : Nat) (par : List (Nat × OutPar)) : State :=
  match s.frag? id with
  | none => s
  | some f =>
    match f.wrReqs with
    | [] => s
    | q :: rest =>
      let s := s.logAccess f.inst q.va
      let local_ := f.wport.isNone
      let beats := if local_ then beatsOf q.width q.bytes else 0
      let hit := if local_ then [] else par.filter (fun p => p.2 != .good && p.1 < ceilDiv q.bytes 64)
      let s := s.updFrag id (fun f => { f with
        wrReqs := rest, wrOut := f.wrOut + 1, wrBeats := f.wrBeats + beats, phase := .writing, waited := false })
      let s := hit.foldl (fun s p => s.outParity f (q.va + 64 * p.1) p.2) s
      let s := match f.wport with
        | none => s.issueWrite f.cluster (.frag id) f.inst f.gen q (f.charge == Charge.firm)
            (if f.src.isNone || f.rport.isSome then f.charge.acct else .none) [] f.lines
        | some p => s.issueSpan p (.frag id) true f.inst f.gen q f.charge.cls f.cluster
            (Memory.reads s.hold (f.at_ + q.off) q.bytes)
            (poisonBits f.lines q.off q.bytes ||| hit.foldl (fun n (p : Nat × OutPar) => n ||| 2 ^ p.1) 0)
      let s := match f.ctx with
        | .queue g => s.updEntry g f.entry (fun e => { e with wrote := max e.wrote (f.idx + 1) })
        | .chan n =>
          let s := s.updChan n (fun x =>
            let p := max x.wrPos (f.pos + q.off + q.bytes)
            { x with wrPos := p, dst := addrAfter x.dst0 (cfgDfix x.cfg) p })
          let x := s.chan n
          if s.allSent n && cfgEvt x.cfg && !cfgBarrier x.cfg && !x.posted then s.chDone n
          else s
      s.writesOver id

/-! ### Data and acknowledgements -/

/-- Bytes of a fragment arrive at an offset of its unswapped stream; `bad` are the positions among them that are
poisoned (R132, R139, R140). -/
def State.placeBytes (s : State) (f : Frag) (off : Nat) (data : List Byte) (bad : List Nat) : State :=
  let at' := fun k => swapOff f.swap (f.pos - f.base) (off + k)
  let hold := (List.range data.length).foldl (fun m k => Memory.write m (f.at_ + at' k) (byteAt data k)) s.hold
  let lines := bad.foldl (fun l k => if l.contains (at' k / 64) then l else l ++ [at' k / 64]) f.lines
  { s with hold }.updFrag f.id (fun f => { f with lines })

/-- A read of a fragment fails (R123, R376): no further read is issued. -/
def State.fragSrcFails (s : State) (f : Frag) (code stat source : Nat) : State :=
  let s := s.updFrag f.id (fun f => { f with srcErr := some (f.srcErr.getD (code, stat)), rdReqs := [] })
  let s := if source = 8 then s else s.fvCount f.inst 1 47 32
  s.raiseAt source f.attr (BitVec.ofNat 64 (f.sideAddr false))

/-- The entry's completion has been issued before this outcome (R274). -/
def State.isLate (s : State) (f : Frag) : Bool :=
  match f.ctx with
  | .chan _ => false
  | .queue g =>
    match (s.queue? g).bind (fun q => q.entry? f.entry) with
    | some e => e.issued
    | none => true

/-- A write of a fragment fails (R124, R274, R376); FV_CNT0.WR_LATE counts one after the completion (R322). -/
def State.fragDstFails (s : State) (f : Frag) (code stat source : Nat) : State :=
  let late := s.isLate f
  let s := s.updFrag f.id (fun f => { f with dstErr := some (f.dstErr.getD (code, stat)) })
  let s := if late then s.fvCount f.inst 0 15 0 else s
  s.raiseAt source f.attr (BitVec.ofNat 64 (f.sideAddr true))

/-- One read request of a fragment has had its last beat or its response. -/
def State.fragReadEnds (s : State) (id : Nat) : State :=
  (s.updFrag id (fun f => { f with rdOut := f.rdOut - 1 })).readsOver id

/-- One write request of a fragment has been acknowledged or answered. -/
def State.fragWriteEnds (s : State) (id : Nat) : State :=
  (s.updFrag id (fun f => { f with wrOut := f.wrOut - 1 })).writesOver id

/-! ### Halted engines (R148, R150) -/

/-- A fragment that may not go on to write: it reads no more, and ends at once if nothing of it is outstanding. -/
def State.stopFrag (s : State) (id : Nat) (mark : Frag → Frag) : State :=
  match s.frag? id with
  | none => s
  | some f =>
    if f.writes then s
    else
      let s := s.updFrag id (fun f => { mark f with rdReqs := [] })
      if f.rdOut = 0 then s.endFrag id else s

/-- An engine halts (R148); a clear in progress ends without effect (R150). -/
def State.haltEngine (s : State) (e : Nat) : State :=
  let ids := (s.frags.filter (fun f => f.held && f.eng == e)).map (·.id)
  let s := s.updEng e (fun x => { x with halted := true, clearing := false })
  ids.foldl (fun s id => s.stopFrag id (fun f => { f with halted := true })) s

/-- ENG_CTL.RELEASE is written with 1 (R150): it acts where STATE is HALTED, not where it is OFF (R476). -/
def doRelease (e : Nat) (s : State) : State :=
  if !s.up || s.pwr.holdsOff then s
  else if (s.eng e).clearing then s.noteWrite (engCtlOff e) 1
  else if s.engHalted e || bit (tabGet 0 s.clk.sets (engCtlOff e)) 0 then
    s.updEng e (fun x => { x with halted := true, clearing := true, clearAt := s.now })
  else s

/-- The clear of a halted engine ends: both banks are zero and the engine is IDLE (R150). -/
def doClearDone (e : Nat) (s : State) : State :=
  if s.up && s.pwr.clocked && (s.eng e).clearing && (s.eng e).clearAt + 512 ≤ s.now then
    let inE := fun c : Host.Cell => e * 131072 ≤ c.1 && c.1 < (e + 1) * 131072
    let s := { s with hold := s.hold.filter (fun c => !inE c) }
    if (s.written (engCtlOff e)).isSome then s.updEng e (fun x => { x with clearAt := s.now })
    else (s.updEng e (fun x => { x with halted := false, clearing := false })).noteSet (engCtlOff e) 1
  else s

/-- ENGINE_CLEAR_DONE (R150): 512 bus clocks after RELEASE. -/
def execEngineClearDone (e : Fin 128) (s : State) : Result := .next (doClearDone e.val s)

end Sys2Proof.Machine
end

