-- ==== Sys2Proof/Machine/Queue.lean ====
section
/-! DEFINITION. Queues: enabling, takes, strict halt, release, completions (05, 06, 10). -/

namespace Sys2Proof.Machine

open Sys2Proof

/-! ### Register words -/

/-- Codes of the queue states (R207). -/
def QState.code : QState → Nat
  | .off => 0
  | .polling => 1
  | .draining => 2
  | .halting => 3
  | .halted => 4
  | .fenced => 5

/-- QCNT (R208). -/
def Queue.cnt (q : Queue) : Word := pack [(63, 32, q.done), (31, 0, q.taken)]

/-- QERR_INDEX (R230). -/
def Queue.errWord (q : Queue) : Word :=
  pack [(63, 48, q.err.index), (44, 44, b2n q.err.lap), (43, 42, q.err.cause), (39, 32, q.err.status),
    (0, 0, b2n q.err.valid)]

/-- QCTL (R206). -/
def Queue.ctlWord (q : Queue) : Word :=
  pack [(47, 43, q.n), (42, 38, q.k), (37, 33, q.depth), (32, 30, q.cluster), (29, 29, b2n q.strict), (28, 28, b2n q.firm),
    (27, 25, q.prio), (0, 0, b2n q.enable)]

/-- QSTAT.IDLE (R225): nothing of the queue is open, outstanding or waiting, interrupt writes included. -/
def State.qIdle (s : State) (g : Nat) (q : Queue) : Bool :=
  let x := s.inst q.inst
  (q.state == .off || q.state == .halted || q.state == .fenced) && !q.poll && q.entries.isEmpty &&
    (x.evOut.toList ++ x.evWait).all (fun r => r.queue != some g) &&
    (match x.msiTrig with | some (_, c) => c != some g | none => true) && !(x.msiOut && x.msiQ == some g)

/-- QSTAT (R207). -/
def State.qStat (s : State) (g : Nat) (q : Queue) : Word :=
  pack [(63, 48, q.head), (44, 44, b2n q.lap), (43, 39, q.entries.length), (7, 7, b2n q.poll), (6, 6, b2n q.susp),
    (5, 5, b2n (s.qIdle g q)), (2, 0, q.state.code)]

/-! ### States (R223, R224, R236) -/

/-- An event record that queue g causes (R237, R243). -/
def State.qEvent (s : State) (g : Nat) (q : Queue) (code : Nat) (load : List Byte) : State :=
  s.post q.inst (s.record code q.lnum load q.cluster (some g))

/-- The queue enters OFF from POLLING or DRAINING: Q_IDLE (R224, R243). -/
def State.qOff (s : State) (g : Nat) (q : Queue) : State :=
  (s.updQueue g (fun q => { q with state := .off, waiting := false })).qEvent g q 0x12 (leBytes 8 q.cnt.toNat)

/-- What DRAINING and HALTING come to once nothing is open (R224, R228). -/
def State.qSettled (s : State) (g : Nat) : State :=
  match s.queue? g with
  | none => s
  | some q =>
    if !q.entries.isEmpty then s
    else if q.state == .draining && !q.poll then s.qOff g q
    else if q.state == .halting then s.updQueue g (fun q => { q with state := .halted })
    else s

/-- The queue polls, its first poll due at once (R215, R223). -/
def Queue.poll_ (q : Queue) (age : Nat) : Queue := { q with state := .polling, due := age, waiting := false }

/-- What a write of QCTL.ENABLE brings (R223, R224, R234), or a fault that acts as one (R409). A queue that a Q_DESTROY frees refuses
it (R308), and one of an instance in its reset sequence (R351, R502). -/
def State.writeEnable (s : State) (g : Nat) (en : Bool) : State :=
  match s.queue? g with
  | none => s
  | some q =>
    if q.dying || q.state == .fenced || s.inReset q.inst then s
    else if en then
      s.updQueue g (fun q =>
        let q := { q with enable := true }
        if q.state == .off || q.state == .draining then q.poll_ s.age else q)
    else
      let s := s.updQueue g (fun q => { q with enable := false })
      if q.state == .polling then
        let q := { q with enable := false, state := .draining, waiting := false, drop := q.drop || q.poll }
        (s.updQueue g (fun _ => q)).qSettled g
      else s

/-! ### Takes and halts (R210, R211, R226 to R230) -/

/-- HEAD and LAP move past a slot (R211). -/
def Queue.advance (q : Queue) : Queue :=
  { q with head := (q.head + 1) % 2 ^ q.k, lap := if q.head + 1 = 2 ^ q.k then !q.lap else q.lap }

/-- The entry at HEAD is taken (R211). -/
def Queue.take (q : Queue) (raw : List Byte) (gen bad age : Nat) : Queue :=
  let e : Entry := { seq := q.nextSeq, slot := q.head, lap := q.lap, raw, gen, bad, taken := age }
  { q.advance with entries := q.entries ++ [e], nextSeq := q.nextSeq + 1, taken := (q.taken + 1) % 2 ^ 32 }

/-- A strict queue halts (R228): cause 0 MALFORMED, 1 FETCH, 2 XLATE. -/
def State.strictHalt (s : State) (g : Nat) (cause status : Nat) (raw : List Byte) (xcause : Option Nat) : State :=
  match s.queue? g with
  | none => s
  | some q =>
    let q := { q with
      poll := false, waiting := false, haltRaw := raw
      err := { index := q.head, lap := q.lap, cause, status, valid := true }
      state := if q.entries.isEmpty then .halted else .halting }
    let s := s.updQueue g (fun _ => q)
    let s := if cause = 0 then s.fvCount q.inst 1 15 0 else s
    (s.raise 25 2 g (some q.inst) (queueDetail q.head q.lap 0) xcause).qEvent g q 0x11 (leBytes 8 q.errWord.toNat)

/-- A failed poll (R220, R228, R330): the read failed, or its address failed translation; a strict queue's halt is a detection of
the same failure. -/
def State.pollFails (s : State) (g : Nat) (xcause : Option Nat) : State :=
  match s.queue? g with
  | none => s
  | some q =>
    let source := if xcause.isSome then 22 else 21
    let s := s.updQueue g (fun q => { q with poll := false })
    let s := s.raise source 2 g (some q.inst) (queueDetail q.head q.lap 0) xcause
    if q.strict then s.strictHalt g (if xcause.isSome then 2 else 1) 0 [] xcause else s

/-- Admin entries stay in their ring: the Purser has stopped, or a freeze is in force (R285, R505). -/
def State.adminStays (s : State) : Bool := s.frozen || s.pur.state == 5

/-- The response to a poll (R210): none for a read that failed. -/
def State.pollData (s : State) (g : Nat) (d : Option (List Byte)) : State :=
  match s.queue? g with
  | none => s
  | some q =>
    if q.drop then (s.updQueue g (fun q => { q with poll := false, drop := false })).qSettled g
    else
      match d with
      | none => s.pollFails g none
      | some raw =>
        if !hbit raw 0 || hbit raw 1 != q.lap || (g == 0 && s.adminStays) then s.updQueue g (fun q => { q with poll := false })
        else
          let bad := malformed (g == 0) s.node raw
          if bad ≠ 0 && q.strict then s.strictHalt g 0 bad raw none
          else
            let s' := s.updQueue g (fun q => { q.take raw (s.inst q.inst).gen bad s.age with poll := false })
            if bad = 0 then s'
            else s'.raise 24 2 g (some q.inst) (queueDetail q.head q.lap bad)

/-- RETRY (R233). -/
def State.retry (s : State) (g : Nat) : State :=
  match s.queue? g with
  | none => s
  | some q =>
    if q.state != .halted then s
    else s.updQueue g (fun q =>
      let q := { q with err := { q.err with valid := false } }
      if q.enable then q.poll_ s.age else { q with state := .off })

/-- SKIP (R233). -/
def State.skip (s : State) (g : Nat) : State :=
  match s.queue? g with
  | none => s
  | some q =>
    if q.state != .halted then s
    else s.updQueue g (fun q =>
      let mal := q.err.cause == 0
      let q := if mal then q.take q.haltRaw (s.inst q.inst).gen q.err.status s.age else q.advance
      let q := { q with err := { q.err with valid := false } }
      if q.enable then q.poll_ s.age else { q with state := if mal then .draining else .off })

/-! ### Completions (R271 to R276, R394) -/

/-- Stream length of an entry whose fragments are all assigned (R260, R271). -/
def Entry.length (e : Entry) : Nat := if opcode e.raw = 5 then e.pos else streamLen e.raw

/-- The CRC of the whole stream (R135). -/
def Entry.crc (e : Entry) : Nat := crcAll (seedOf e.raw) e.crcs

/-- The CRC of the completion is valid (R272). -/
def Entry.crcOk (e : Entry) : Bool :=
  e.bad == 0 && e.ended == 0 && e.stop.isNone && !e.poison && wantsCrc e.raw && opcode e.raw < 8

/-- Status and BYTES_DONE of an entry that moves or checks data (R271). -/
def Entry.result (e : Entry) : Nat × Nat :=
  match e.stop with
  | some x => (x.status, x.pos)
  | none =>
    if e.poison then (1, e.length)
    else if opcode e.raw = 6 && (at_ e.raw 32 1).testBit 0 && e.crc != at_ e.raw 28 4 then (2, e.length)
    else (0, e.length)

/-- The earliest fragment in stream order that has not retired OK or POISONED, assigned or not, and its stream position; an entry
all of whose fragments have has none, nor has a malformed one (R346; log entry 14). -/
def Entry.firstOpen (e : Entry) : Option (Nat × Nat) :=
  let k := leastFree (e.okFrags.map (·.1)) 0
  if e.bad ≠ 0 ∨ (e.okFrags.length = e.nextK ∧ e.allCut ∧ e.stop.isNone) then none
  else some (k, if k = 0 then 0 else tabGet 0 e.okFrags (k - 1))

/-- AHEAD: a fragment after the stopping one wrote (R272). -/
def Entry.ahead (e : Entry) (idx : Nat) : Bool := idx + 1 < e.wrote

/-- The 64 B of a completion overwrite issued in a glass (R272, R275, R298, R346). -/
def Entry.overwrite (e : Entry) (glass : Nat) : List Byte :=
  match e.rsp with
  | some r => putBytes r 24 (leBytes 8 glass)
  | none =>
    let mk := fun (status done crc err : Nat) (ahead crcOk : Bool) (addr rec side port : Nat) =>
      leBytes 8 (pack [(63, 48, e.gen), (47, 32, hfld e.raw 47 32), (27, 27, b2n ahead), (26, 26, b2n e.poison),
        (25, 25, b2n crcOk), (23, 16, status), (15, 8, opcode e.raw), (1, 1, b2n e.lap)]).toNat ++
      leBytes 8 done ++ leBytes 4 crc ++ leBytes 4 err ++ leBytes 8 glass ++ leBytes 8 addr ++ leBytes 2 rec ++
      leBytes 1 side ++ leBytes 1 port ++ zeros 20
    if e.bad ≠ 0 ∧ e.ended = 0 then
      leBytes 8 (pack [(63, 48, e.gen), (47, 32, hfld e.raw 47 32), (23, 16, e.bad), (15, 8, opcode e.raw),
        (1, 1, b2n e.lap)]).toNat ++ leBytes 8 0 ++ leBytes 4 0 ++ leBytes 4 0xFFFFFFFF ++ leBytes 8 glass ++ zeros 32
    else if e.ended ≠ 0 then
      match e.firstOpen with
      | some (k, pos) => mk e.ended pos 0 k (e.ahead k) false 0 0 0 0
      | none => mk e.ended (if e.bad = 0 then e.length else 0) 0 0xFFFFFFFF false false 0 0 0 0
    else
      let r := e.result
      let crc := if e.crcOk then e.crc else 0
      match e.stop with
      | some x => mk r.1 r.2 crc x.idx (e.ahead x.idx) e.crcOk x.addr x.recIdx x.side x.portStat
      | none => mk r.1 r.2 crc 0xFFFFFFFF false e.crcOk 0 0 0 0

/-- STATUS of a completion (R276). -/
def Entry.status (e : Entry) : Nat :=
  if e.ended ≠ 0 then e.ended else if e.bad ≠ 0 then e.bad else e.result.1

/-- Fragments of an entry of queue g in flight. -/
def State.entryFrags (s : State) (g seq : Nat) : List Frag :=
  s.frags.filter (fun f => f.ctx == .queue g && f.entry == seq)

/-- An entry of queue g as its completion shows it: with BARRIER 0, fragments that still write count with the outcomes known so
far, their CRCs included (R135, R271, R274). -/
def State.asKnown (s : State) (g : Nat) (e : Entry) : Entry :=
  if e.ended ≠ 0 then e else (s.entryFrags g e.seq).foldl Entry.afterFrag e

/-- The conditions of R273, R275 and R403 for an entry's overwrite. An entry that its manifests stop before its first fragment
starts with its overwrite, as one that moves no data (R392; log entry 29). -/
def State.ovrReady (s : State) (g : Nat) (q : Queue) (e : Entry) : Bool :=
  let fs := s.entryFrags g e.seq
  let earlier := (q.before e.seq).all (·.started)
  if e.ovr != .none then false
  else if e.ended ≠ 0 then (q.before e.seq).all (·.issued)
  else if e.bad ≠ 0 then earlier && q.fenceMet e
  else if 0x80 ≤ opcode e.raw then e.rsp.isSome && q.fenceMet e
  else if opcode e.raw = 0 then earlier && q.fenceMet e
  else
    (e.started || (e.stop.isSome && earlier)) && e.assignDone && e.mSrc.reading.isNone && e.mDst.reading.isNone && q.fenceMet e &&
      (if hbit e.raw 18 then fs.isEmpty else fs.all (fun f => f.writes && f.wrReqs.isEmpty))

/-- The queues of instance i. -/
def State.ownQueues (s : State) (i : Nat) : List (Nat × Queue) := s.queues.filter (fun p => p.2.inst == i)

/-- Every overwrite that the reset or containment gave the instance has been issued: its settle begins (R345 step 4). -/
def State.settleBegins (s : State) (i : Nat) : State :=
  let x := s.inst i
  if (x.state == .resetting || x.state == .removing || x.state == .containing) && !x.settling &&
      (s.ownQueues i).all (fun p => p.2.entries.all (·.issued)) then
    s.updInst i (fun x => { x with settling := true, settle := s.age })
  else s

/-- The overwrite counts as issued (R276, R392): the entry has started, and Q_DONE is made if NOTIFY asks for it;
none is made for an entry that a reset aborts (R345). -/
def State.ovrIssued (s : State) (g seq : Nat) : State :=
  match s.queue? g with
  | none => s
  | some q =>
    match q.entry? seq with
    | none => s
    | some e =>
      let status := (s.asKnown g e).status
      let s := s.updEntry g seq (fun e => { e with ovr := .accepted, started := true })
      if hbit e.raw 16 && e.ended != 0x29 then
        (s.qEvent g q 0x10 (leBytes 2 e.slot ++ leBytes 1 (b2n e.lap) ++ leBytes 1 status)).settleBegins q.inst
      else s.settleBegins q.inst

/-- The overwrite is acknowledged, or has failed (R208, R276, R330, R349): the entry is done. -/
def State.ovrDone (s : State) (g seq : Nat) (ok : Bool) (xcause : Option Nat) : State :=
  match s.queue? g with
  | none => s
  | some q =>
    match q.entry? seq with
    | none => s
    | some e =>
      let s := s.updQueue g (fun q => { q with
        entries := q.entries.filter (fun e => e.seq != seq), done := (q.done + 1) % 2 ^ 32 })
      let s :=
        if ok then s
        else if s.isContained q.inst then s.dropped q.inst
        else s.raise 26 2 g (some q.inst) (queueDetail e.slot e.lap 0) xcause
      s.qSettled g

/-! ### Commands of this family -/

/-- The queue of an instance under a local number, for a write that reaches its group. -/
def onLocal (i l : Nat) (f : Nat → State → State) (s : State) : State :=
  match s.localQueue i l with
  | some (g, _) => f g s
  | none => s

/-- The addressed page takes register writes: the block is Present and not isolated, and the instance exists
(R318, R445). -/
def State.pageOpen (s : State) (i : Nat) : Bool := s.up && s.exists_ i

/-- QCTL writes of one page (R206): SKIP governs RETRY (R233). -/
def doEnable (i l : Nat) (en : Bool) (s : State) : State :=
  if s.pageOpen i && !s.inReset i then onLocal i l (fun g s => s.writeEnable g en) s else s
def doRetry (i l : Nat) (s : State) : State := if s.pageOpen i && !s.inReset i then onLocal i l (fun g s => s.retry g) s else s
def doSkip (i l : Nat) (s : State) : State := if s.pageOpen i && !s.inReset i then onLocal i l (fun g s => s.skip g) s else s

/-- ENABLE is written: the bit is set at once, and what it steers follows (R223, R224, R477). An instance in its reset sequence
ignores the write (R502). -/
def State.setEnable (s : State) (i l : Nat) (en : Bool) : State :=
  let set := fun s : State =>
    if s.inReset i then s
    else onLocal i l (fun g s => s.updQueue g (fun q => if q.dying || q.state == .fenced then q else { q with enable := en })) s
  (if s.pwr.clocked then s else set s).steer (.enable i l en) (doEnable i l en)

/-- RETRY or SKIP is written (R233, R477). -/
def State.setRelease (s : State) (i l : Nat) (skip : Bool) : State :=
  s.steer (.release i l skip) (if skip then doSkip i l else doRetry i l)

/-- The lookout's due times run: not in DOZE, SLEEP and WAKING, nor before the exit edge of a wake, nor in a freeze (R473, R478,
R503). -/
def State.pollsRun (s : State) : Bool :=
  s.up && s.bell.running && s.pwr.clocked && !s.pwr.timeHeld && !s.frozen

/-- POLL_DUE (R215, R217): a poll of the queue falls due; it is dropped where R217 says so, in ENTERING (R475), and for queue 0
while the Purser is HALTED (R285), and the next due time does not move. -/
def State.pollDue (s : State) (g : Nat) : State :=
  match s.queue? g with
  | none => s
  | some q =>
    if !s.pollsRun || q.state != .polling || s.age < q.due then s
    else
      let ok := s.newWork && !q.susp && !q.poll && q.entries.length < q.depth && s.active q.inst && !(g == 0 && s.adminStays)
      s.updQueue g (fun q => { q with due := q.due + 32 * 2 ^ q.n, waiting := q.waiting || ok })

/-- POLL_DUE (R215). -/
def execPollDue (q : Fin 16384) (s : State) : Result := .next (s.pollDue q.val)

end Sys2Proof.Machine
end

