-- ==== Sys2Proof/Machine/Access.lean ====
section
/-! DEFINITION. Accesses that no engine carries: polls, manifest record reads, link fetches, completion overwrites,
event records, MSI writes, and the chart reads of walks (R87, R143, R331, R550). Each is put on the control path of its
port once its address is translated; a miss waits for the walk. -/

namespace Sys2Proof.Machine

open Sys2Proof

/-- A request joins the control path of memory port c (R143). -/
def State.putCtl (s : State) (c : Nat) (r : CtlReq) : State := s.updPort c (fun p => { p with ctl := p.ctl ++ [r] })

/-- A control-path request of an instance at an instance address and its translation. -/
def State.ctlReq (s : State) (owner : Owner) (write : Bool) (i va pa bytes width : Nat) (cls : ArbClass)
    (data : List Byte := []) : CtlReq :=
  { owner, write, inst := i, gen := (s.inst i).gen, addr := pa, va, bytes, width, cls, data }

/-- Something on the control path, outstanding on a memory port, or in a span slot belongs to an owner. -/
def State.busy (s : State) (o : Owner) : Bool :=
  s.ports.any (fun p => p.2.ctl.any (fun c => c.owner == o) || p.2.rd.any (fun r => r.owner == o) ||
    p.2.wr.any (fun w => w.owner == o)) || s.fabs.any (fun p => p.2.slots.any (fun l => l.owner == o))

/-! ### Polls -/

/-- The instance address of a slot of a queue (R201). -/
def Queue.slotAddr (q : Queue) (slot : Nat) : Nat := q.base.toNat + 64 * slot

/-- An outstanding poll goes on: its address is translated and its read joins the control path (R202, R220). -/
def State.pollGo (s : State) (g : Fin 16384) : State :=
  match s.queue? g.val with
  | none => s
  | some q =>
    if !q.poll || s.busy (.poll g.val) then s
    else
      let a := q.slotAddr q.head
      match s.xlate (.poll g) q.inst a false with
      | .miss => s
      | .fail c =>
        let s := s.dropWalked (.poll g)
        if q.drop then s.pollData g.val none else s.pollFails g.val (some c)
      | .ok pa =>
        ((s.touch q.inst a).dropWalked (.poll g)).putCtl q.cluster (s.ctlReq (.poll g.val) false q.inst a pa 64 6 .top)

/-- The waiting poll with the earliest deadline, ties to the lower global number (R216). In a freeze the polls already
due go on, but admin entries stay in their ring, as they do once the Purser has stopped (R285, R503, R505). -/
def State.pollChoice (s : State) : Option (Nat × Queue) :=
  minBy (fun p => p.2.due) (s.queues.filter (fun p => p.2.waiting && !(p.1 == 0 && s.adminStays)))

/-- The lookout runs: not in low power, nor before the exit edge of a wake (R475, R478). -/
def State.polls (s : State) : Bool := s.up && s.bell.running && s.pwr.phase == .run && !s.pwr.timeHeld

/-- POLL_ISSUE (R216, R217): the due poll with the earliest deadline is issued, or dropped where R217 now says so.
Q_POLL_LATE is raised for one past its deadline. -/
def doPollIssue (s : State) : State :=
  if !s.polls || s.age < s.pollAt then s
  else
    match s.pollChoice with
    | none => s
    | some (g, q) =>
      let ok := q.state == .polling && !q.susp && !q.poll && q.entries.length < q.depth && s.active q.inst
      let s := s.updQueue g (fun q => { q with waiting := false, poll := q.poll || ok })
      if ok then
        let late := q.due < s.age
        let s := { s with pollAt := s.age + 2 }
        let s := if late then s.raise 23 2 g (some q.inst) (queueDetail q.head q.lap 0) else s
        s.pollGo (Fin.ofNat 16384 g)
      else s

/-- POLL_ISSUE (R216). -/
def execPollIssue (s : State) : Result := .next (doPollIssue s)

/-! ### Manifest record reads -/

/-- The stop of a failed or malformed record (R269, R271): at the fragment that needed it. -/
def Entry.manStop (e : Entry) (dst : Bool) (status port : Nat) : Stop :=
  let k := (e.side dst).recs
  let at' := (e.side dst).reading.getD (e.pos, e.nextK)
  { pos := at'.1, idx := at'.2, status, addr := recAddr e.raw dst k, recIdx := k, side := if dst then 4 else 3
    portStat := port }

/-- A record read of an entry fails (R277, R330): MAN_RD_ERR. -/
def State.recFails (s : State) (g seq : Nat) (dst : Bool) (port : Nat) (xcause : Option Nat) : State :=
  match (s.queue? g).bind (fun q => (q.entry? seq).map (fun e => (q, e))) with
  | none => s
  | some (q, e) =>
    let s := (s.updEntry g seq (fun e => (e.updSide dst (fun m => { m with reading := none })).stopped
      (e.manStop dst 0x18 port))).cancelRecs g seq
    s.raise 27 2 g (some q.inst) (queueDetail e.slot e.lap 0x18) xcause

/-- The 16 B of a record (R259, R262). -/
def State.recData (s : State) (g seq : Nat) (dst : Bool) (d : List Byte) : State :=
  match (s.queue? g).bind (fun q => (q.entry? seq).map (fun e => (q, e))) with
  | none => s
  | some (_, e) =>
    let addr := at_ d 0 8
    let len := at_ d 8 4
    if e.stop.isSome || e.ended ≠ 0 then
      s.updEntry g seq (fun e => e.updSide dst (fun m => { m with reading := none }))
    else if recOk e.raw dst addr len then
      (s.updEntry g seq (fun e => e.updSide dst (fun m => { m with
        reading := none, recs := m.recs + 1, pieces := m.pieces ++ [(m.recs, addr, len)] }))).settleMan g
    else
      (s.updEntry g seq (fun e => e.updSide dst (fun m => { m with reading := none }))).manStops g seq
        (e.manStop dst 0x19 0)

/-- The budget that a record read of a queue is charged to now (R550). -/
def State.recCharge (s : State) (q : Queue) : Option Charge := s.canCharge q.inst q.cluster q.firm q.prio 16 []

/-- The class of an access before its charge: that of the budget it would take now. -/
def clsOf (k : Option Charge) (prio : Nat) : ArbClass := (k.map Charge.cls).getD (.soft prio)

/-- A record read that is under way goes on: translation, then the control path (R261). -/
def State.recGo (s : State) (g : Fin 16384) (dst : Bool) : State :=
  match s.queue? g.val with
  | none => s
  | some q =>
    match q.entries.find? (fun e => (e.side dst).reading.isSome) with
    | none => s
    | some e =>
      if s.busy (.man g.val e.seq dst) then s
      else
        let a := recAddr e.raw dst (e.side dst).recs
        match s.xlate (.man g dst) q.inst a false with
        | .miss => s
        | .fail c => (s.dropWalked (.man g dst)).recFails g.val e.seq dst 0 (some c)
        | .ok pa =>
          ((s.touch q.inst a).dropWalked (.man g dst)).putCtl q.cluster
            (s.ctlReq (.man g.val e.seq dst) false q.inst a pa 16 4 (clsOf (s.recCharge q) q.prio))

/-- MANIFEST_RECORD_READ (R261, R393, R550): the next fragment of the queue needs a piece of this side whose record
has not been read, and its allowance can take the read. The charge is made at the grant. -/
def doRecRead (g : Fin 16384) (dst : Bool) (s : State) : State :=
  match s.queue? g.val with
  | none => s
  | some q =>
    match q.next with
    | none => s
    | some e =>
      let need := match manNext e.raw e.pos e.mSrc e.mDst with
        | .needs a b => if dst then b else a
        | _ => false
      if !s.newWork || q.susp || !s.active q.inst || !s.admits (.queue g.val) || !need || (e.side dst).reading.isSome
          || opcode e.raw != 5 || e.stop.isSome || (s.recCharge q).isNone then s
      else (s.updEntry g.val e.seq (fun e => e.updSide dst (fun m => { m with reading := some (e.pos, e.nextK) }))).recGo g dst

/-- MANIFEST_RECORD_READ (R261). -/
def execManifestRecordRead (q : Fin 16384) (dst : Bool) (s : State) : Result := .next (doRecRead q dst s)

/-! ### Link fetches -/

/-- RO and RI of a remote link fetch (R360, R550). -/
def State.linkSpan (s : State) (n : Nat) : List (Nat × Nat × Nat) :=
  s.spanNeed false (some { addr := (s.chan n).next.toNat, width := 6, fixed := false }) 32

/-- The budget that a link fetch of channel n is charged to now (R550). -/
def State.linkCharge (s : State) (n : Nat) : Option Charge :=
  let x := s.chan n
  s.canCharge x.owner (n / 64) (bit x.ctl 11) (fld x.ctl 14 12) 32 (s.linkSpan n)

/-- A link fetch ends for want of a fabric port (R183, R359): nothing is sent or charged. -/
def State.linkNoLink (s : State) (n : Nat) : State :=
  (s.raise 49 3 n (some (s.chan n).owner) (errInfo 3 0 false 0 32)).fetchFails n 3 0 32

/-- An outstanding link fetch goes on: translation, then the control path; no fabric port up ends it (R183, R359). -/
def State.linkGo (s : State) (n : Fin 512) : State :=
  let x := s.chan n.val
  if !x.fetch || s.busy (.link n.val) then s
  else
    let a := x.next.toNat
    match s.xlate (.link n) x.owner a false with
    | .miss => s
    | .fail c =>
      let s := s.dropWalked (.link n)
      let s := s.updChan n.val (fun x => { x with fetch := false, fetchBad := some (3, 0) })
      let s := s.raise 32 3 n.val (some x.owner) (errInfo 3 0 false 0 32) (some c)
      if (s.chan n.val).awaits then s.afterTransfer n.val else s
    | .ok pa =>
      let s := (s.touch x.owner a).dropWalked (.link n)
      if nodeOf a != s.node && (s.route (nodeOf a)).isNone then s.linkNoLink n.val
      else s.putCtl (n.val / 64) (s.ctlReq (.link n.val) false x.owner a pa 32 5 (clsOf (s.linkCharge n.val) (fld x.ctl 14 12)))

/-- The owner's state lets a channel fetch: a paused channel of a suspended instance fetches too (R183, R342). -/
def State.mayFetch (s : State) (i : Nat) : Bool :=
  s.active i || (s.inst i).state == .suspending || (s.inst i).state == .suspended

/-- LINK_FETCH (R183, R550): FETCH rises when the allowance can take the fetch. The charge is made at the grant. -/
def doLinkFetch (n : Fin 512) (s : State) : State :=
  let x := s.chan n.val
  if !s.newWork || !s.mayFetch x.owner || !s.admits (.chan n.val) || !x.wantsFetch || (s.linkCharge n.val).isNone then s
  else (s.updChan n.val (fun x => { x with fetch := true, fetchAt := s.age, rose := some s.now })).linkGo n

/-- LINK_FETCH (R183). -/
def execLinkFetch (n : Fin 512) (s : State) : Result := .next (doLinkFetch n s)

/-- CH_LINK_TMO (R185, R186): TMO bus clocks have passed since FETCH rose; 0 is no timeout. -/
def doLinkTmo (n : Fin 512) (s : State) : State :=
  let t := fld s.glb.chgLinkTmo 19 0
  if s.up && (s.chan n.val).fetch && t ≠ 0 && (s.chan n.val).fetchAt + t ≤ s.age then
    (s.retireFetch n).fetchFails n.val 4 0 33
  else s

/-- CH_LINK_TMO (R185). -/
def execChLinkTmo (n : Fin 512) (s : State) : Result := .next (doLinkTmo n s)

/-! ### Completion overwrites -/

/-- An overwrite that is due goes on: translation, then the control path. One that fails translation counts as issued
and done (R276, R330). -/
def State.ovrGo (s : State) (g : Fin 16384) (seq : Nat) : State :=
  match (s.queue? g.val).bind (fun q => (q.entry? seq).map (fun e => (q, e))) with
  | none => s
  | some (q, e) =>
    if e.ovr != .waiting || s.busy (.ovr g.val seq) then s
    else
      let a := q.slotAddr e.slot
      match s.xlate (.ovr g e.slot) q.inst a true with
      | .miss => s
      | .fail c => ((s.dropWalked (.ovr g e.slot)).ovrIssued g.val seq).ovrDone g.val seq false (some c)
      | .ok pa =>
        ((s.touch q.inst a).dropWalked (.ovr g e.slot)).putCtl q.cluster
          { s.ctlReq (.ovr g.val seq) true q.inst a pa 64 6 .top with gen := (s.inst q.inst).gen }

/-- COMPLETION_OVERWRITE (R273, R396): the first entry of the queue, in ring order, whose overwrite is due. -/
def doOverwrite (g : Fin 16384) (s : State) : State :=
  match s.queue? g.val with
  | none => s
  | some q =>
    if !s.issues then s
    else
      match q.entries.find? (fun e => s.ovrReady g.val q e) with
      | none => s
      | some e => (s.updEntry g.val e.seq (fun e => { e with ovr := .waiting, ovrAt := s.now })).ovrGo g e.seq

/-- COMPLETION_OVERWRITE (R273). -/
def execCompletionOverwrite (q : Fin 16384) (s : State) : Result := .next (doOverwrite q s)

/-! ### Event records and MSI writes -/

/-- An outstanding record write goes on (R237, R241). -/
def State.evtGo (s : State) (i : Fin 1024) : State :=
  let x := s.inst i.val
  match x.evOut with
  | none => s
  | some r =>
    if s.busy (.evt i.val) then s
    else
      let a := x.recAddr
      match s.xlate (.evt i) i.val a true with
      | .miss => s
      | .fail c => (s.dropWalked (.evt i)).recordFails i.val a (some c)
      | .ok pa =>
        ((s.touch i.val a).dropWalked (.evt i)).putCtl r.port
          (s.ctlReq (.evt i.val) true i.val a pa 32 5 .top (x.recBytes r))

/-- EVENT_RECORD_WRITE (R399): the next waiting record is issued while none is outstanding, from the bus clock after the answer to the
one before. -/
def doRecordWrite (i : Fin 1024) (s : State) : State :=
  let x := s.inst i.val
  match x.evWait with
  | [] => s
  | r :: rest =>
    if !s.issues || x.evOut.isSome || x.ackAt == some s.now || !x.evtEn || s.inReset i.val then s
    else (s.updInst i.val (fun x => { x with evOut := some r, evWait := rest })).evtGo i

/-- EVENT_RECORD_WRITE (R399). -/
def execEventRecordWrite (i : Fin 1024) (s : State) : Result := .next (doRecordWrite i s)

/-- LOST_RECORD (R244). -/
def execLostRecord (i : Fin 1024) (s : State) : Result :=
  .next (if s.lostDue i.val then s.addLost i.val else s)

/-- An MSI write ends: a dropped one is counted, another failed one raises INT_WR_ERR (R326, R330, R349). -/
def State.msiEnds (s : State) (i addr : Nat) (ok : Bool) (xcause : Option Nat) : State :=
  let s := s.updInst i (fun x => { x with msiOut := false, msiQ := none })
  if ok then s
  else if s.isContained i then s.dropped i
  else s.raise 31 0 0 (some i) (BitVec.ofNat 64 addr) xcause

/-- An MSI write ends for want of a fabric port (R326, R349, R359). -/
def State.msiNoLink (s : State) (i : Nat) : State :=
  (if s.isContained i then s else s.raise 49 0 0 (some i)).msiEnds i (s.inst i).msiAddr.toNat false none

/-- An outstanding MSI write goes on (R326, R359, R401): `port` is the memory port of R401. -/
def State.msiGo (s : State) (i : Fin 1024) : State :=
  let x := s.inst i.val
  if !x.msiOut || s.busy (.msi i.val) then s
  else
    let a := x.msiAddr.toNat
    match s.xlate (.msi i) i.val a true with
    | .miss => s
    | .fail c => (s.dropWalked (.msi i)).msiEnds i.val a false (some c)
    | .ok pa =>
      let s := (s.touch i.val a).dropWalked (.msi i)
      if nodeOf a != s.node && (s.route (nodeOf a)).isNone then s.msiNoLink i.val
      else s.putCtl x.msiPort (s.ctlReq (.msi i.val) true i.val a pa 4 2 .top (leBytes 4 x.msiData.toNat))

/-- MSI_WRITE (R326): a waiting or held trigger issues its write while none is outstanding. -/
def doMsi (i : Fin 1024) (s : State) : State :=
  let x := s.inst i.val
  match x.msiTrig with
  | none => s
  | some (port, q) =>
    if !s.issues || x.msiOut || s.inReset i.val then s
    else (s.updInst i.val (fun x => { x with msiTrig := none, msiOut := true, msiQ := q, msiPort := port })).msiGo i

/-- MSI_WRITE (R326). -/
def execMsiWrite (i : Fin 1024) (s : State) : Result := .next (doMsi i s)

/-! ### Accesses of the Purser (R296, R491) -/

/-- The Purser's access changed by a function. -/
def State.updAcs (s : State) (f : PurAcc → PurAcc) : State := { s with pur := { s.pur with acc := s.pur.acc.map f } }

/-- The Purser's next request is on the control path of port 0. -/
def State.purWaits (s : State) : Bool := (s.port 0).ctl.any (fun r => r.owner == .pur)

/-- A HALTED Purser issues nothing for the command in progress (R285). -/
def Purser.issues (p : Purser) : Bool := p.state != 5 || !p.forCommand

/-- The next request of the Purser's access joins the control path of port 0 (R296, R491): translated, but for the image, and
with at most 64 outstanding. -/
def State.purGo (s : State) : State :=
  match s.pur.acc with
  | none => s
  | some a =>
    match a.reqs with
    | [] => s
    | q :: _ =>
      if a.fail.isSome || 64 ≤ a.out || s.purWaits || !s.pur.issues then s
      else
        let put := fun (s : State) (pa gen : Nat) => s.putCtl 0
          { s.ctlReq .pur a.write 0 q.va pa q.bytes q.width (.soft 7) (if a.write then (a.data.drop q.off).take q.bytes else []) with
            gen, off := q.off }
        if a.image then put s q.pa 0
        else
          match s.xlate .pur 0 q.va a.write with
          | .miss => s
          | .fail _ => (s.dropWalked .pur).updAcs (fun a => { a with fail := some none })
          | .ok pa => put ((s.touch 0 q.va).dropWalked .pur) pa (s.inst 0).gen

/-- An access of the Purser begins (R296): `data` is empty for a read. -/
def State.purBegin (s : State) (write : Bool) (addr n : Nat) (data : List Byte) : State :=
  let reqs := (shape false false 6 addr n).map (fun k =>
    { va := k.addr, pa := k.addr, width := k.width, bytes := k.bytes, fixed := false, off := k.off : Req })
  { s with pur := { s.pur with acc := some { write, addr, data := if write then data else zeros n, reqs, at_ := s.now } } }.purGo

/-- The ASCII bytes "YLVN" (R284). -/
def ylvn : List Byte := [0x59, 0x4C, 0x56, 0x4E]

/-- Every byte is 0. -/
def allZero (l : List Byte) : Bool := l.all (· == 0)

/-- CODE_LEN of an image (R284). -/
def codeLen (image : List Byte) : Nat := at_ image 12 4

/-- What R491 finds wrong with the header of an image, as its code of R494. -/
def imageBad (image : List Byte) : Option Nat :=
  if image.take 4 != ylvn || !allZero ((image.drop 16).take 48) then some 3
  else if codeLen image = 0 ∨ codeLen image % 64 ≠ 0 ∨ 196608 < codeLen image then some 4
  else none

/-- Reads of the image from an offset until n bytes are read, 256 B each (R491). -/
def imageReads (addr off n : Nat) : List Req :=
  (List.range (ceilDiv n 256)).map (fun k =>
    { va := addr + off + 256 * k, pa := addr + off + 256 * k, width := 6, bytes := 256, fixed := false, off := off + 256 * k })

/-- The first read of the image has brought a good header: the rest of the image is to be read. -/
def PurAcc.grow (a : PurAcc) : PurAcc :=
  if a.image && a.data.length == 256 && a.reqs.isEmpty && a.out == 0 && a.fail.isNone && (imageBad a.data).isNone then
    { a with data := a.data ++ zeros (256 * ceilDiv (codeLen a.data + 64) 256), reqs := imageReads a.addr 256 (codeLen a.data + 64) }
  else a

/-- A request of the Purser has ended: st is its failing port status, or none. -/
def State.purEnds (s : State) (st : Option Nat) : State :=
  (s.updAcs (fun a => PurAcc.grow { a with
    out := a.out - 1, fail := match a.fail, st with
      | some x, _ => some x
      | none, some st => some (some st)
      | none, none => none })).purGo

/-- Bytes of a read of the Purser arrive; `ok` says that no status and no parity check failed them. -/
def State.purData (s : State) (off : Nat) (d : List Byte) (ok : Bool) (st : Nat) (last : Bool) : State :=
  let s := s.updAcs (fun a => { a with
    data := putBytes a.data off d
    fail := if ok then a.fail else some (a.fail.getD (some st)) })
  if last then s.purEnds none else s

/-- The Purser's access is over: nothing of it is left to issue or outstanding. -/
def PurAcc.isOver (a : PurAcc) : Bool := (a.reqs.isEmpty || a.fail.isSome) && a.out == 0

/-! ### Chart reads -/

/-- What an access needs translated and misses: instance, address, port and class (R331). -/
def State.missOf (s : State) (x : XCtx) : Option (Nat × Nat × Nat × ArbClass) :=
  let pick := fun (i a : Nat) (w : Bool) (c : Nat) (k : ArbClass) =>
    if s.xlate x i a w == .miss then some (i, localOf a, c, k) else none
  match x with
  | .frag id =>
    match s.frag? id with
    | none => none
    | some f =>
      if f.phase != .assigned || f.dead || f.halted then none
      else
        match s.sideXlate f false, s.sideXlate f true with
        | some (a, .miss), _ => some (f.inst, localOf a, f.cluster, f.charge.cls)
        | none, some (a, .miss) => some (f.inst, localOf a, f.cluster, f.charge.cls)
        | _, _ => none
  | .poll g =>
    match s.queue? g.val with
    | some q => if q.poll && !s.busy (.poll g.val) then pick q.inst (q.slotAddr q.head) false q.cluster .top else none
    | none => none
  | .man g dst =>
    match (s.queue? g.val).bind (fun q => (q.entries.find? (fun e => (e.side dst).reading.isSome)).map (fun e => (q, e))) with
    | some (q, e) =>
      if s.busy (.man g.val e.seq dst) then none
      else pick q.inst (recAddr e.raw dst (e.side dst).recs) false q.cluster (clsOf (s.recCharge q) q.prio)
    | none => none
  | .link n =>
    let c := s.chan n.val
    if c.fetch && !s.busy (.link n.val) then
      pick c.owner c.next.toNat false (n.val / 64) (clsOf (s.linkCharge n.val) (fld c.ctl 14 12))
    else none
  | .ovr g slot =>
    match (s.queue? g.val).bind (fun q => (q.entries.find? (fun e => e.slot == slot && e.ovr == .waiting)).map (fun e => (q, e))) with
    | some (q, e) => if s.busy (.ovr g.val e.seq) then none else pick q.inst (q.slotAddr slot) true q.cluster .top
    | none => none
  | .evt i =>
    match (s.inst i.val).evOut with
    | some r => if s.busy (.evt i.val) then none else pick i.val (s.inst i.val).recAddr true r.port .top
    | none => none
  | .msi i =>
    if (s.inst i.val).msiOut && !s.busy (.msi i.val) then
      pick i.val (s.inst i.val).msiAddr.toNat true (s.inst i.val).msiPort .top
    else none
  | .pur =>
    match s.pur.acc with
    | none => none
    | some a =>
      match a.reqs with
      | [] => none
      | q :: _ =>
        if a.image || a.fail.isSome || 64 ≤ a.out || s.purWaits || !s.pur.issues then none else pick 0 q.va a.write 0 (.soft 7)

/-- An access goes on once its page is in the cache or its walk has ended; a fragment's admission is a command of its own. -/
def State.resume (s : State) (x : XCtx) : State :=
  match x with
  | .frag _ => s
  | .poll g => s.pollGo g
  | .man g dst => s.recGo g dst
  | .link n => s.linkGo n
  | .ovr g slot =>
    match (s.queue? g.val).bind (fun q => q.entries.find? (fun e => e.slot == slot && e.ovr == .waiting)) with
    | some e => s.ovrGo g e.seq
    | none => s
  | .evt i => s.evtGo i
  | .msi i => s.msiGo i
  | .pur => s.purGo

/-- No chart read is issued for an instance in its reset sequence (R345); the overwrites of its aborted entries are
part of the sequence and go on. -/
def isOvrCtx : XCtx → Bool
  | .ovr _ _ => true
  | _ => false

/-- The access reads ahead of work not yet assigned: a manifest record read or a link fetch. None of them, nor a chart
read for them, is issued in ENTERING or in a freeze (R475, R503). -/
def isNewCtx : XCtx → Bool
  | .man _ _ => true
  | .link _ => true
  | _ => false

/-- CHART_READ (R331): the walk of an access that misses begins, or goes on to its level-2 read. An access whose page has
come into the cache meanwhile makes no read and goes on (R332). -/
def doChartRead (x : XCtx) (s : State) : State :=
  if !s.issues then s
  else
    match s.missOf x with
    | none => s.resume x
    | some (i, va, c, k) =>
      if (s.inReset i && !isOvrCtx x) || (isNewCtx x && !s.newWork) then s
      else
        let go := fun (s : State) (w : Walk) =>
          let a := s.walkAddr w
          { s with walks := s.walks.map (fun v => if v = w then { w with busy := true } else v) }.putCtl c
            (s.ctlReq (.chart x va) false i a a 8 3 k)
        match s.walks.find? (fun w => w.ctx == x && w.va == va) with
        | some w => if w.busy then s else go s w
        | none =>
          let w : Walk := { ctx := x, inst := i, va, port := c, cls := k }
          go { s with walks := s.walks ++ [w] } w

/-- CHART_READ (R331). -/
def execChartRead (x : XCtx) (s : State) : Result := .next (doChartRead x s)

/-- A chart read has been answered (R329, R331). -/
def State.chartData (s : State) (x : XCtx) (va : Nat) (e : Option Word) : State := (s.walkData x va e).resume x

end Sys2Proof.Machine
end

