-- ==== Sys2Proof/Machine/Span.lean ====
section
/-! DEFINITION. Span messages: inbound requests (R368 to R371), responses (R372, R376), BUSY and timeouts (R373 to
R375), and the link state (R359, R413). -/

namespace Sys2Proof.Machine

open Sys2Proof

/-! ### Header fields (R364) -/

def hType (h : List Byte) : Nat := at_ h 0 1
def hStatus (h : List Byte) : Nat := at_ h 1 1
def hSize (h : List Byte) : Nat := at_ h 2 1 % 8
def hFixed (h : List Byte) : Bool := (at_ h 2 1).testBit 3
def hLen (h : List Byte) : Nat := at_ h 4 2
def hAddr (h : List Byte) : Nat := at_ h 8 8
def hTag (h : List Byte) : Nat := at_ h 16 8
def hPoison (h : List Byte) : Nat := at_ h 24 8

/-- A reserved header bit is 1 (R364). -/
def hReserved (h : List Byte) : Bool :=
  at_ h 2 1 / 16 != 0 || at_ h 3 1 != 0 || at_ h 6 2 != 0 || at_ h 23 1 != 0 || at_ h 32 32 != 0

/-- DETAIL of kind FPORT (R425). -/
def fportDetail (src : Nat) (h : List Byte) : Word := pack [(9, 0, src), (23, 16, hType h)]

/-- The block takes in messages: Present, not isolated, not between quiescence point and Run (R40, R60, R476). -/
def State.receives (s : State) : Bool := s.up && !s.pwr.quiesced

/-- Bytes of the data flits, and the positions among them that failed parity (R371). -/
def payload (m : InMsg) : List Byte := m.flits.flatMap (·.data)
def payloadBad (m : InMsg) : List Nat :=
  (m.flits.zip (List.range m.flits.length)).flatMap (fun p => p.1.bad.map (fun k => 64 * p.2 + k))

/-- A message is received whole (R104, R371): its flits are counted, `firm` if it is a firm unit, and a flit that failed parity
raises FP_RX_PAR. -/
def State.received (s : State) (m : InMsg) (firm : Bool) : State :=
  let s := s.countFab m.port.val false firm (64 * (1 + m.flits.length))
  if m.hdrOk && (payloadBad m).isEmpty then s else s.raise 52 5 m.port.val none (fportDetail m.src.val m.hdr)

/-! ### Inbound requests -/

/-- SPAN_ALLOW of a node (R369). -/
def State.allows (s : State) (node : Nat) : Bool := bit (tabGet 0 s.glb.spanAllow (node / 64)) (node % 64)

/-- A window that covers a node-local range with the permission (R368, R369). -/
def State.window (s : State) (first last : Nat) (write : Bool) : Bool :=
  (List.range 8).any (fun w =>
    let b := tabGet 0 s.glb.winBase w
    let l := tabGet 0 s.glb.winLim w
    bit b 0 && bit b (if write then 2 else 1) && fld b 53 12 * 4096 ≤ first && last ≤ fld l 53 12 * 4096 + 4095)

/-- The status of the first check of R368 that a request fails; 0 if it passes all. -/
def State.inCheck (s : State) (m : InMsg) (write : Bool) : Nat :=
  let h := m.hdr
  let w := 2 ^ hSize h
  let len := hLen h
  let a := localOf (hAddr h)
  let last := if hFixed h then a + w - 1 else a + len - 1
  if len = 0 ∨ 4096 < len ∨ hSize h = 7 ∨ hReserved h ∨
      (narrow (hSize h) (hFixed h) ∧ (256 < len ∨ a % w ≠ 0 ∨ len % w ≠ 0)) ∨
      (!hFixed h ∧ a / 4096 ≠ (a + len - 1) / 4096) ∨
      m.flits.length ≠ (if write then ceilDiv len 64 else 0) then 6
  else if !bit s.glb.spanCtl 16 ∨ nodeOf (hAddr h) ≠ s.node ∨ !s.allows m.src.val ∨ !s.window a last write then 4
  else if !m.buffer then 7
  else 0

/-- A response without data to a request (R362, R364). -/
def respond (h : List Byte) (src status : Nat) : Msg :=
  { node := src, hdr := header (hType h + 0x80) status 0 false (hLen h) (hAddr h) (hTag h) 0, flits := [] }

/-- A message joins the response path of a fabric port (R146). -/
def State.putTx (s : State) (f : Nat) (t : TxMsg) : State := s.updFab f (fun p => { p with tx := p.tx ++ [t] })

/-- An inbound request that passed every check is served on a memory port, charged to INB as far as it goes
(R81, R147, R370). -/
def State.serve (s : State) (m : InMsg) (write : Bool) : State :=
  let h := m.hdr
  let a := localOf (hAddr h)
  let len := hLen h
  let c := a / 4096 % 8
  let firm := len ≤ nth s.gls.inbLeft c
  let reqs := (shape false (hFixed h) (hSize h) a len).map (fun k =>
    { va := k.addr, pa := k.addr, width := k.width, bytes := k.bytes, fixed := hFixed h, off := k.off : Req })
  let n := ceilDiv len 64
  let inb : Inb :=
    { id := s.nextInb, port := m.port.val, src := m.src.val, hdr := h, write, cluster := c, reqs, firm
      data := if write then (payload m).take len else zeros len
      lines := if write then (List.range n).filter (fun k => (hPoison h).testBit k) else []
      par := if write then payloadBad m else [] }
  let left := if firm then setNth s.gls.inbLeft c (nth s.gls.inbLeft c - len) else s.gls.inbLeft
  ({ s with inbs := s.inbs ++ [inb], nextInb := s.nextInb + 1, gls := { s.gls with inbLeft := left } }).received m firm

/-- An inbound request arrives (R363, R368, R371). -/
def State.inRequest (s : State) (m : InMsg) (write : Bool) : State :=
  if !s.receives || hType m.hdr != (if write then 2 else 1) then s
  else if !m.hdrOk then s.received m false
  else
    let st := s.inCheck m write
    if st = 0 then s.serve m write
    else
      let s := if st = 7 then s else s.raise 51 5 m.port.val none (fportDetail m.src.val m.hdr)
      (s.received m false).putTx m.port.val
        { cls := .soft 7, resp := true, cluster := 0, firm := false, msg := respond m.hdr m.src.val st }

/-- RD_REQ (R368). -/
def execRdReq (m : InMsg) (s : State) : Result := .next (s.inRequest m false)

/-- WR_REQ (R368). -/
def execWrReq (m : InMsg) (s : State) : Result := .next (s.inRequest m true)

/-- The response to a served request (R370). -/
def Inb.response (b : Inb) : Msg :=
  match b.bad with
  | some (_, st) => respond b.hdr b.src (if st = 2 then 2 else 1)
  | none =>
    if b.write then respond b.hdr b.src 0
    else
      { node := b.src
        hdr := header 0x81 0 0 false (hLen b.hdr) (hAddr b.hdr) (hTag b.hdr) (total (b.lines.map (fun k => 2 ^ k)))
        flits := flitsOf (ceilDiv (hLen b.hdr) 64) b.data }

/-- INBOUND_RESPONSE (R370): every beat or acknowledgement of the request has arrived. -/
def doInbResponse (id : Nat) (s : State) : State :=
  match s.inbs.find? (fun b => b.id == id) with
  | none => s
  | some b =>
    if s.up && b.reqs.isEmpty && b.out == 0 then
      ({ s with inbs := s.inbs.filter (fun x => x.id != id) }).putTx b.port
        { cls := if b.firm then .top else .soft 7, resp := true, cluster := 0, firm := b.firm, msg := b.response }
    else s

/-- INBOUND_RESPONSE (R370). -/
def execInboundResponse (id : Nat) (s : State) : Result := .next (doInbResponse id s)

/-- An inbound request changed by a function. -/
def State.updInb (s : State) (id : Nat) (f : Inb → Inb) : State :=
  { s with inbs := s.inbs.map (fun b => if b.id = id then f b else b) }

/-- A failing status at an offset: the first in address order stays (R370). -/
def Inb.fails (b : Inb) (off st : Nat) : Inb :=
  match b.bad with
  | some (o, _) => if off < o then { b with bad := some (off, st) } else b
  | none => { b with bad := some (off, st) }

/-! ### Responses to this block's requests -/

/-- Attribution of a fault on an owner's access: kind and unit (R409, R410). -/
def State.ownerAttr (s : State) (o : Owner) (inst c : Nat) : Attr :=
  let ctx := fun x : XCtx =>
    match x with
    | .frag id => match s.frag? id with
      | some f => f.attr
      | none => { kind := 0, unit := 0, inst := some inst }
    | .poll g => { kind := 2, unit := g.val, inst := some inst }
    | .man g _ => { kind := 2, unit := g.val, inst := some inst }
    | .ovr g _ => { kind := 2, unit := g.val, inst := some inst }
    | .link n => { kind := 3, unit := n.val, inst := some inst }
    | _ => ({ kind := 0, unit := 0, inst := some inst } : Attr)
  match o with
  | .frag id => ctx (.frag id)
  | .poll g => { kind := 2, unit := g, inst := some inst }
  | .man g _ _ => { kind := 2, unit := g, inst := some inst }
  | .ovr g _ => { kind := 2, unit := g, inst := some inst }
  | .link n => { kind := 3, unit := n, inst := some inst }
  | .chart x _ => ctx x
  | .inb _ => { kind := 6, unit := c, inst := none }
  | .logRd _ _ _ => { kind := 6, unit := c, inst := none }
  | .logWr _ _ _ => { kind := 6, unit := c, inst := none }
  | .pur => { kind := 0, unit := 0, inst := if s.exists_ 0 then some 0 else none }
  | .gone a _ => a
  | .late a => a
  | _ => { kind := 0, unit := 0, inst := some inst }

/-- DETAIL of a fault on an owner's access (R425) by the kind of R410: the fragment's address on the side that fails, or `beat` of
a read beat; slot and lap of a queue's access; what a channel's CH_ERRINFO takes from the fault, if it takes anything. -/
def State.ownerDetail (s : State) (o : Owner) (write : Bool) (beat : Option Nat) (info : Word := 0) : Word :=
  let frag := fun id : Nat =>
    match beat, s.frag? id with
    | some a, _ => BitVec.ofNat 64 a
    | none, some f => BitVec.ofNat 64 (f.sideAddr write)
    | none, none => 0
  let entry := fun (g : Nat) (p : Entry → Bool) =>
    match (s.queue? g).bind (fun q => q.entries.find? p) with
    | some e => queueDetail e.slot e.lap 0
    | none => 0
  let head := fun g : Nat =>
    match s.queue? g with
    | some q => queueDetail q.head q.lap 0
    | none => 0
  match o with
  | .frag id => frag id
  | .poll g => head g
  | .man g seq _ => entry g (fun e => e.seq == seq)
  | .ovr g seq => entry g (fun e => e.seq == seq)
  | .link _ => info
  | .chart x _ =>
    match x with
    | .frag id => frag id
    | .poll g => head g.val
    | .man g dst => entry g.val (fun e => (e.side dst).reading.isSome)
    | .ovr g slot => entry g.val (fun e => e.slot == slot && e.ovr == .waiting)
    | .link _ => info
    | _ => 0
  | .gone a d => if a.kind = 1 then (match beat with | some a => BitVec.ofNat 64 a | none => d) else d
  | _ => 0

/-- A remote request ends badly (R185, R326, R349, R376): status code, PORT_STAT and fault source. -/
def State.spanFails (s : State) (l : FSlot) (code stat source : Nat) : State :=
  match l.owner with
  | .frag id =>
    match s.frag? id with
    | none => s
    | some f =>
      if l.write then (s.fragDstFails f code stat source).fragWriteEnds id
      else (s.fragSrcFails f code stat source).fragReadEnds id
  | .link n =>
    (s.raiseAt source (s.ownerAttr l.owner l.inst 0) (errInfo 3 stat false 0 32)).fetchFails n (if code = 0x20 then 4 else 3) stat
      (if code = 0x20 then 33 else 32)
  | .msi i =>
    (if s.isContained i then s else s.raiseAt source (s.ownerAttr l.owner l.inst 0)).msiEnds i l.addr false none
  | _ => s

/-- The code of a remote error on a side (R376, R277). -/
def remoteErr (write : Bool) : Nat := if write then 0x23 else 0x22

/-- A remote request is answered OK (R376). `lines` are the poisoned payload lines, `bad` the payload bytes that failed
parity, whose lines are poisoned too (R371). -/
def State.spanOk (s : State) (l : FSlot) (data : List Byte) (lines bad : List Nat) : State :=
  match l.owner with
  | .frag id =>
    match s.frag? id with
    | none => s
    | some f =>
      if l.write then s.fragWriteEnds id
      else
        let d := data.take l.bytes
        let pois := (List.range d.length).filter (fun k => lines.contains (k / 64) || bad.any (fun b => b / 64 == k / 64))
        (if f.srcErr.isSome || f.dead then s else s.placeBytes f l.off d pois).fragReadEnds id
  | .link n =>
    if lines.isEmpty && bad.all (fun k => l.bytes ≤ k) then s.fetchData n (data.take 32) else s.fetchFails n 3 0 32
  | .msi i => s.msiEnds i l.addr true none
  | _ => s

/-- The outbound slot that a response answers (R372). The four conditions do not ask for a TYPE (log entry 64). -/
def State.matchSlot (s : State) (m : InMsg) : Option FSlot :=
  let t := hTag m.hdr
  if t / 2 ^ 9 % 4 ≠ m.port.val ∨ t / 2 ^ 48 % 256 ≠ fld s.glb.spanCtl 39 32 then none
  else
    (s.fab m.port.val).slots.find? (fun l => l.idx == t % 512 && l.epoch == t / 2 ^ 40 % 256 && l.node == m.src.val
      && t / 2 ^ 11 % 8 == 0)

/-- A slot is free again (R361); a request of it that waits to be sent again is not sent (R404). -/
def State.freeSpan (s : State) (f idx : Nat) : State :=
  s.updFab f (fun p =>
    let gone := (p.slots.filter (fun l => l.idx == idx)).map (·.msg)
    { p with slots := p.slots.filter (fun l => l.idx != idx), tx := p.tx.filter (fun t => t.resp || !gone.contains t.msg) })

/-- TYPE of a response (R362). -/
def rspType (write : Bool) : Nat := if write then 0x82 else 0x81

/-- A count of SPAN_STAT[p] changes (R22, R378). -/
def State.fabCount (s : State) (p : Nat) (g : FPort → FPort) : State := s.unlessWritten (spanStatOff p) (fun s => s.updFab p g)

/-- Retired by a timeout: its response is discarded and raises nothing (R186, R413). -/
def Owner.isLate : Owner → Bool
  | .late _ => true
  | _ => false

/-- The response to a live outbound request (R372 to R376): BUSY keeps its slot for a reissue; every other status frees the
slot and ends the request. -/
def State.spanEnds (s : State) (m : InMsg) (l : FSlot) : State :=
  let p := m.port.val
  let st := hStatus m.hdr
  if st = 7 then
    ((s.fabCount p (fun q => { q with busy := satAdd 8 q.busy 1 })).updFab p (fun q => { q with
      slots := q.slots.map (fun x => if x.idx = l.idx then { x with busyAt := some (s.age + 500) } else x) })).raiseAt 56
        (s.ownerAttr l.owner l.inst 0) (s.ownerDetail l.owner l.write none)
  else if st = 0 then
    (s.freeSpan p l.idx).spanOk l (payload m)
      ((List.range (ceilDiv l.bytes 64)).filter (fun k => (hPoison m.hdr).testBit k)) (payloadBad m)
  else if st = 5 then
    ((s.freeSpan p l.idx).fabCount p (fun q => { q with absent := satAdd 16 q.absent 1 })).spanFails l 0x21 0 54
  else
    ((s.freeSpan p l.idx).fabCount p (fun q => { q with err := satAdd 8 q.err 1 })).spanFails l (remoteErr l.write)
      (if st = 2 then 2 else if st = 4 ∨ st = 6 then 0 else 1) 53

/-- A response slower than 10 µs is reported (R413). -/
def State.spanLate (s : State) (l : FSlot) : State :=
  if l.sent + 5000 < s.age then s.raiseAt 57 (s.ownerAttr l.owner l.inst 0) (s.ownerDetail l.owner l.write none) else s

/-- Data flits that the TYPE, STATUS and LEN of a response call for (R362, R372). -/
def rspFlits (write : Bool) (st len : Nat) : Nat := if !write ∧ st = 0 then ceilDiv len 64 else 0

/-- A response arrives (R338, R371, R372, R375, R376). One to a fetch that a timeout has retired is discarded (R186). DESIGN CHOICE
(log 65): a BUSY response to a firm request and the response to its repetition both count as firm in IN_FIRM. -/
def State.inResponse (s : State) (m : InMsg) (write : Bool) : State :=
  if !s.receives || hType m.hdr != rspType write then s
  else if !m.hdrOk then s.received m false
  else
    match s.matchSlot m with
    | none => (s.received m false).raise 50 5 m.port.val none (fportDetail m.src.val m.hdr)
    | some l =>
      if m.flits.length ≠ rspFlits write (hStatus m.hdr) (hLen m.hdr) then
        (s.received m false).raise 50 5 m.port.val none (fportDetail m.src.val m.hdr)
      else
        let s' := s.received m (l.cls == .top && !l.owner.isMsi)
        if hTag m.hdr / 2 ^ 14 % 65536 ≠ (s'.inst l.inst).gen || l.owner.isLate then s'.freeSpan m.port.val l.idx
        else (s'.spanLate l).spanEnds m l

/-- RD_RSP (R372). -/
def execRdRsp (m : InMsg) (s : State) : Result := .next (s.inResponse m false)

/-- WR_RSP (R372). -/
def execWrRsp (m : InMsg) (s : State) : Result := .next (s.inResponse m true)

/-- STRAY_MESSAGE (R363, R371): a TYPE that is not listed, or a header flit that failed parity. -/
def doStray (m : InMsg) (s : State) : State :=
  if !s.receives then s
  else if !m.hdrOk then s.received m false
  else if hType m.hdr ∈ [0x01, 0x02, 0x81, 0x82] then s
  else (s.received m false).raise 50 5 m.port.val none (fportDetail m.src.val m.hdr)

/-- STRAY_MESSAGE (R363). -/
def execStrayMessage (m : InMsg) (s : State) : Result := .next (doStray m s)

/-- BUSY_REISSUE (R375): 500 bus clocks after the BUSY response, the request joins its port again. DESIGN CHOICE (log 65): a
repeated message, charged to no budget, is no firm unit of R104. -/
def doReissue (f idx : Nat) (s : State) : State :=
  match (s.fab f).slots.find? (fun l => l.idx == idx) with
  | none => s
  | some l =>
    match l.busyAt with
    | none => s
    | some t =>
      if s.up && !s.frozen && t ≤ s.age then
        (s.updFab f (fun p => { p with
          slots := p.slots.map (fun x => if x.idx = idx then { x with busyAt := none } else x) })).putTx f
            { cls := l.cls, resp := false, cluster := l.cluster, firm := false, msg := l.msg }
      else s

/-- BUSY_REISSUE (R375). -/
def execBusyReissue (f : Fin 4) (slot : Fin 512) (s : State) : Result := .next (doReissue f.val slot.val s)

/-- The tag of a span request as R32 lays it out (R364, R425). -/
def FSlot.tag (l : FSlot) (f : Nat) : Word :=
  pack [(39, 30, l.inst), (29, 14, l.gen), (10, 9, f), (8, 0, l.idx)]

/-- The write is one the settle of its instance waits for: issued before step 1, or an overwrite (R345). -/
def State.waitsFor (s : State) (i : Nat) (owner : Owner) (at_ : Nat) : Bool :=
  match owner with
  | .gone _ _ => false
  | .late _ => false
  | .ovr _ _ => true
  | _ => at_ ≤ (s.inst i).stopAt

/-- One request times out (R345, R374, R376). -/
def State.spanTimeout (s : State) (f : Nat) (l : FSlot) : State :=
  let s := ((s.freeSpan f l.idx).fabCount f (fun p => { p with tmo := satAdd 16 p.tmo 1 })).updFab f (fun p => { p with
    epochs := tabSet p.epochs l.idx ((l.epoch + 1) % 256) })
  let settling := l.write && (s.inReset l.inst || (s.inst l.inst).state == .containing) && s.waitsFor l.inst l.owner l.sent
  let s := if settling then s.raise 35 0 0 (some l.inst) (l.tag f) else s
  match l.owner with
  | .gone a d => s.raiseAt 55 a d
  | .late a => s.raiseAt 55 a
  | _ => s.spanFails l 0x20 0 55

/-- REMOTE_TIMEOUT (R373): the check of every outstanding request. -/
def doRemoteTimeout (s : State) : State :=
  if !s.up || s.frozen then s
  else
    let due := (List.range 4).flatMap (fun f =>
      ((s.fab f).slots.filter (fun l => l.sent + 500 * l.tmo ≤ s.age)).map (fun l => (f, l)))
    due.foldl (fun s p => s.spanTimeout p.1 p.2) s

/-- REMOTE_TIMEOUT (R373). -/
def execRemoteTimeout (s : State) : Result := .next (doRemoteTimeout s)

/-- A request leaves the control path without having been issued. -/
def State.dropCtl (s : State) (r : CtlReq) : State :=
  { s with ports := s.ports.map (fun p => (p.1, { p.2 with ctl := p.2.ctl.filter (fun x => x.owner != r.owner) })) }

/-- A waiting request that no fabric port leads to any more ends (R359): a remote link fetch or MSI write. -/
def State.ctlNoLink (s : State) (r : CtlReq) : State :=
  if nodeOf r.va = s.node ∨ (s.route (nodeOf r.va)).isSome then s
  else
    match r.owner with
    | .link n => (s.dropCtl r).linkNoLink n
    | .msi i => (s.dropCtl r).msiNoLink i
    | _ => s

/-- LINKUP_CHANGE (R359, R413): the port's LINKUP, and FP_LINKDOWN once it has been high. While the block is absent the pin alone
changes: what it is when start-up begins counts. An isolated block acts on nothing but the level source (R445). -/
def doLinkup (f : Nat) (up : Bool) (s : State) : State :=
  if !s.isPresent then s.updFab f (fun p => { p with linkup := up, seen := up })
  else
    let seen := (s.fab f).seen || up
    let s' := s.updFab f (fun p => { p with linkup := up, seen })
    let s' := if seen && (s.fab f).linkup != up then s'.level (60 + f) 5 f (!up) else s'
    if up || !s'.up then s' else (s'.ports.flatMap (fun p => p.2.ctl)).foldl State.ctlNoLink s'

/-- LINKUP_CHANGE (R359). -/
def execLinkupChange (f : Fin 4) (up : Bool) (s : State) : Result := .next (doLinkup f.val up s)

end Sys2Proof.Machine
end

