-- ==== Sys2Proof/Machine/Logbook.lean ====
section
/-! DEFINITION. The logbook: flushes, their failures, and bitmap swaps (R382 to R386). -/

namespace Sys2Proof.Machine

open Sys2Proof

/-- Entries holding pending bits (R386). -/
def State.dirty (s : State) : Nat := (s.logc.filter (fun l => !l.bits.isEmpty)).length

/-- One log cache entry changed by a function; one left without bits and without a flush is free (R382). -/
def State.updLine (s : State) (i line base : Nat) (f : LogLine → LogLine) : State :=
  let all := s.logc.map (fun l => if l.inst = i ∧ l.line = line ∧ l.base = base then f l else l)
  { s with logc := all.filter (fun l => !(l.bits.isEmpty && l.flush == .idle)) }

/-- Entries are queued for flushing (R382). -/
def State.queueLines (s : State) (which : LogLine → Bool) : State :=
  { s with logc := s.logc.map (fun l => if which l && !l.bits.isEmpty then { l with queued := true } else l) }

/-- The entry flushed next: the first queued one, or while fewer than 256 entries are free the one that has held
pending bits longest (R382). -/
def State.flushChoice (s : State) : Option LogLine :=
  let idle := s.logc.filter (fun l => l.flush == .idle && !l.bits.isEmpty)
  match idle.find? (·.queued) with
  | some l => some l
  | none => if 4096 - s.logc.length < 256 then minBy (·.since) idle else none

/-- Node-local address of a bitmap line (R381). -/
def LogLine.addr (l : LogLine) : Nat := l.base + 64 * l.line

/-- The memory port of a bitmap line (R382). -/
def logPort (addr : Nat) : Nat := addr / 4096 % 8

/-- A bitmap access on the control path, as background work, for instance 0 (R382). -/
def State.logCtl (s : State) (owner : Owner) (write : Bool) (addr : Nat) (data : List Byte) : State :=
  s.putCtl (logPort addr) (s.ctlReq owner write 0 addr addr 64 6 .background data)

/-- LOG_FLUSH (R382): the bits are taken and the line's read is requested. -/
def doLogFlush (s : State) : State :=
  if !s.issues then s
  else
    match s.flushChoice with
    | none => s
    | some l =>
      (s.updLine l.inst l.line l.base (fun l => { l with flush := .reading, taken := l.bits, bits := [], queued := false })).logCtl
        (.logRd l.inst l.line l.base) false l.addr []

/-- LOG_FLUSH (R382). -/
def execLogFlush (s : State) : Result := .next (doLogFlush s)

/-- The bits of a line ORed into its 64 B (R380, R382). -/
def orBits (d : List Byte) (bits : List Nat) : List Byte :=
  bits.foldl (fun d b => d.set (b / 8) (byteAt d (b / 8) ||| BitVec.ofNat 8 (2 ^ (b % 8)))) d

/-- A LOG_CTL on the instance is outstanding (R385). -/
def State.logPending (s : State) (i : Nat) : Bool :=
  s.pur.defer.any (fun d => d.inst == i && opcode d.raw == 0x98)

/-- GO of LOG_SWAP requests a swap for the ADDR and INST that the register holds, or the swap is refused (R385). -/
def State.swapAsked (s : State) : State :=
  let i := fld s.glb.logSwap 9 0
  if !s.exists_ i || !(s.inst i).log || s.logPending i then
    { s with glb := { s.glb with logRefused := true } }.noteSet 0xC48 1
  else { s with glb := { s.glb with swapGo := true, swapAt := some (s.bell.glass + 1) } }

/-- A LOG_SWAP of an instance ends (R385); GO written on this bus clock asks again (R22). -/
def State.swapEnds (s : State) : State :=
  let s' := { s with glb := { s.glb with swapGo := false, swapAt := none, swapOld := none, swapOuts := [] } }
  if (s.goAgain 0xC40).isSome then s'.swapAsked else s'

/-- A bitmap access fails (R383): the bits are pending again, LOG_ERR names the instance, and what waits on them ends. -/
def State.logFails (s : State) (i line base st : Nat) : State :=
  let s := s.updLine i line base (fun l => { l with
    flush := .idle, bits := l.bits ++ l.taken.filter (fun b => !l.bits.contains b), taken := [], queued := false
    since := if l.bits.isEmpty then s.now else l.since })
  let s := { s with glb := { s.glb with logFail := true, logInst := i } }.noteSet 0xC48 2
  let s := s.raise 64 0 0 (some i) (BitVec.ofNat 64 (base + 64 * line))
  let waits := fun d : Deferred => d.inst == i && (opcode d.raw == 0x82 || (opcode d.raw == 0x98 &&
    (byteAt d.raw 12 == 0 || d.lines.any (fun t => t.1 == line && t.2.1 == base))))
  let mark := fun d : Deferred => if waits d then { d with failed := some st } else d
  let s := { s with pur := { s.pur with defer := s.pur.defer.map mark } }
  if s.glb.swapGo && s.glb.swapOld == some (i, base) then s.swapEnds else s

/-- The read of a bitmap line is answered (R382). -/
def State.logRead (s : State) (i line base st : Nat) (d : Option (List Byte)) : State :=
  match s.logc.find? (fun l => l.inst = i ∧ l.line = line ∧ l.base = base ∧ l.flush == .reading) with
  | none => s
  | some l =>
    match d with
    | none => s.logFails i line base st
    | some d =>
      (s.updLine i line base (fun l => { l with flush := .writing })).logCtl (.logWr i line base) true l.addr
        (orBits d l.taken)

/-- The write of a bitmap line is acknowledged (R382, R383). -/
def State.logWritten (s : State) (i line base st : Nat) : State :=
  if st = 0 then
    let done := fun d : Deferred => if d.inst = i then { d with lines :=
        (d.lines.map (fun t => if t.1 = line ∧ t.2.1 = base then (t.1, t.2.1, t.2.2 - 1) else t)).filter (fun t => t.2.2 != 0) }
      else d
    let s := { s with pur := { s.pur with defer := s.pur.defer.map done } }
    s.updLine i line base (fun l => { l with flush := .idle, taken := [] })
  else s.logFails i line base st

/-- Logging of an instance goes off: its pending bits are discarded (R383). -/
def State.logOff (s : State) (i : Nat) : State :=
  let keep := s.logc.filter (fun l => l.inst != i || l.flush != .idle)
  { (s.updInst i (fun x => { x with log := false, logNext := none })) with
    logc := keep.map (fun l => if l.inst = i then { l with bits := [], queued := false } else l) }

/-- Bits of an instance still pending or being flushed in one bitmap. -/
def State.logBusy (s : State) (i base : Nat) : Bool := s.logc.any (fun l => l.inst == i && l.base == base)

/-- LOG_SWAP is written (R385): ADDR and INST are taken while GO is 0; GO requests a swap, or the swap is refused. -/
def doLogSwap (v : Word) (s : State) : State :=
  let s := s.noteWrite 0xC40 v
  if s.glb.swapGo then s
  else
    let w := v &&& (mask 53 12 ||| mask 9 0)
    let s := { s with glb := { s.glb with logSwap := w } }
    if bit v 63 then s.swapAsked else s

/-- Logged accesses of an instance that are outstanding: the slot of a memory port or of a fabric port, and the age at which the
request was issued. -/
def State.writesOut (s : State) (i : Nat) : List (Nat × Nat) :=
  s.ports.flatMap (fun p => (p.2.wr.filter (fun w => w.inst == i && !w.stuck && (match w.owner with
    | .frag _ => true | .ovr _ _ => true | .evt _ => true | .msi _ => true | _ => false))).map (fun w => (w.slot, w.at_))) ++
  s.fabs.flatMap (fun p => (p.2.slots.filter (fun l => l.inst == i && l.write)).map (fun l => (16384 + 512 * p.1 + l.idx, l.sent)))

/-- The swap takes effect at its bell (R385). -/
def State.swapBell (s : State) : State :=
  match s.glb.swapAt with
  | some _ =>
    let i := fld s.glb.logSwap 9 0
    let old := (s.inst i).logBase
    { (s.updInst i (fun x => { x with logBase := fld s.glb.logSwap 53 12 * 4096 })) with
      glb := { s.glb with swapAt := none, swapOld := some (i, old), swapOuts := s.writesOut i } }
  | none => s

/-- LOG_SWAP_DONE (R385): every access of before the bell has ended, and its bits are in the old bitmap. -/
def doSwapDone (s : State) : State :=
  match s.glb.swapOld with
  | none => s
  | some (i, base) =>
    if s.up && s.pwr.clocked && s.glb.swapGo && (s.writesOut i).all (fun p => !s.glb.swapOuts.contains p) && !s.logBusy i base then
      s.swapEnds
    else s

/-- LOG_SWAP_DONE (R385). -/
def execLogSwapDone (s : State) : Result := .next (doSwapDone s)

end Sys2Proof.Machine
end

