-- ==== Sys2Proof/Machine/Arbiter.lean ====
section
/-! DEFINITION. Port arbitration (R142 to R146), the first requests of fragments (R89, R119), and what the memory
ports bring: read beats, accepted write beats and acknowledgements (R123, R124, R131, R139). -/

namespace Sys2Proof.Machine

open Sys2Proof

/-! ### What is offered -/

/-- A request offered to an arbiter. -/
inductive What where
  | read (id : Nat)
  | write (id : Nat)
  | ctl (c : Nat) (r : CtlReq)
  | inb (id : Nat)
  | tx (t : TxMsg)
  deriving DecidableEq, Repr

/-- An offer: the order of its class, its requester in the cyclic order, and what it asks for. -/
structure Offer where
  rank : Nat
  who  : Nat
  what : What
  deriving DecidableEq, Repr

/-- The direction of a fragment's next request, with the class it is arbitrated in (R119, R122, R142, R145); a fragment
that has issued nothing must pass the checks of its admission. -/
def State.nextReq (s : State) (f : Frag) : Option (Bool × Nat) :=
  match f.phase with
  | .assigned =>
    match s.admitCheck f with
    | .go k => some (f.src.isNone, k.cls.rank)
    | _ => none
  | .reading => if f.rdReqs.isEmpty then none else some (false, f.charge.cls.rank)
  | .staged => if f.wrReqs.isEmpty || f.dead || f.halted || !s.writeOrder f then none else some (true, f.charge.cls.rank)
  | .writing => if f.wrReqs.isEmpty || f.cutOff then none else some (true, f.charge.cls.rank)
  | .draining => none

/-- The fabric port of the next request; none for a node-local one (R354, R359). -/
def State.reqPort (s : State) (f : Frag) (write : Bool) : Option Nat :=
  match f.phase with
  | .assigned => s.sidePort (if write then f.dst else f.src)
  | _ => if write then f.wport else f.rport

/-- The instance address of a fragment's next write request (R379). -/
def Frag.writeVa (f : Frag) : Nat :=
  match f.phase with
  | .assigned => f.sideAddr true
  | _ => match f.wrReqs with | q :: _ => q.va | [] => 0

/-- A fragment offers its next request to a port: memory port of its cluster, or a fabric port (R144, R145, R381). -/
def State.fragOffer (s : State) (port : Option Nat) (f : Frag) : Option (Nat × What) :=
  match s.nextReq f with
  | none => none
  | some (w, rank) =>
    let free := match port with | none => s.slotFree f.cluster w | some p => s.fabFree p
    if s.reqPort f w == port && free && (!w || s.logRoom f.inst f.writeVa) then
      some (rank, if w then .write f.id else .read f.id)
    else none

/-- The best of the fragments that offer something: by class, then admitted ones before others and earliest first
(R144). -/
def State.bestFrag (s : State) (port : Option Nat) (fs : List Frag) : Option (Nat × What) :=
  let offers := fs.filterMap (fun f => (s.fragOffer port f).map (fun o => (o.1, f, o.2)))
  match minBy (·.1) offers with
  | none => none
  | some (rank, _) =>
    let same := offers.filter (fun o => o.1 == rank)
    let adm := same.filter (fun o => o.2.1.phase != .assigned)
    let pick := if adm.isEmpty then minBy (fun o => o.2.1.id) same else minBy (fun o => o.2.1.admAt) adm
    pick.map (fun o => (rank, o.2.2))

/-- The write-class accesses of an instance on the control path, which are logged (R379). -/
def loggedOwner : Owner → Bool
  | .ovr _ _ => true
  | .evt _ => true
  | .msi _ => true
  | _ => false

/-- Where a control-path request leaves the block (R354, R359): its memory port, a fabric port for a remote link fetch or MSI
write, or nowhere while no fabric port leads to the node. -/
inductive Dest where
  | mem
  | fab (f : Nat)
  | nowhere
  deriving DecidableEq, Repr

/-- The way of a control-path request. -/
def State.ctlDest (s : State) (r : CtlReq) : Dest :=
  let far := if nodeOf r.va = s.node then Dest.mem
    else match s.route (nodeOf r.va) with
      | some f => .fab f
      | none => .nowhere
  match r.owner with
  | .link _ => far
  | .msi _ => far
  | _ => .mem

/-- The request reads ahead of work not yet assigned (R475, R503). -/
def newOwner : Owner → Bool
  | .man _ _ _ => true
  | .link _ => true
  | .chart x _ => isNewCtx x
  | _ => false

/-- How a control-path request is charged at its issue: not at all, or to a budget, which may have to be waited for. -/
inductive CtlCost where
  | free
  | waits
  | costs (k : Charge)
  deriving DecidableEq, Repr

/-- A cost that a budget takes or that has to wait. -/
def CtlCost.of (isOpen : Bool) : Option Charge → CtlCost
  | some k => if isOpen then .costs k else .waits
  | none => .waits

/-- The charge of a control-path request (R550, R296): record reads, link fetches, and the accesses of the Purser with their
chart reads. -/
def State.ctlCost (s : State) (r : CtlReq) : CtlCost :=
  let pur := fun n : Nat => CtlCost.of (!s.bell.noAdmit && !s.bell.out && !s.frozen) (s.canCharge 0 0 false 7 n [])
  match r.owner with
  | .man g _ _ =>
    match s.queue? g with
    | some q => CtlCost.of (s.admits (.queue g)) (s.recCharge q)
    | none => .waits
  | .link n => CtlCost.of (s.admits (.chan n)) (s.linkCharge n)
  | .pur => if s.pur.acc.any (·.image) then .free else pur r.bytes
  | .chart .pur _ => pur r.bytes
  | _ => .free

/-- The class a control-path request is arbitrated in (R143): that of the budget it is charged to. -/
def State.ctlCls (s : State) (r : CtlReq) : ArbClass :=
  match s.ctlCost r with
  | .costs k => k.cls
  | _ => r.cls

/-- The overwrites of a queue go in the order in which they became due, those of one bus clock in ring order (R396). -/
def State.ovrTurn (s : State) (r : CtlReq) : Bool :=
  match r.owner with
  | .ovr g seq =>
    match s.queue? g with
    | none => true
    | some q =>
      match q.entry? seq with
      | none => true
      | some e => q.entries.all (fun b => b.ovr != .waiting || e.ovrAt < b.ovrAt || (e.ovrAt == b.ovrAt && e.seq ≤ b.seq))
  | _ => true

/-- A control-path request may be granted: a free slot, room in the log cache, a budget, and reserve for background work
(R93, R145, R381, R550). DESIGN CHOICE (log 80): background work is issued in the partial glass after a wake too. -/
def State.ctlFree (s : State) (c : Nat) (r : CtlReq) : Bool :=
  (match s.ctlDest r with | .mem => s.slotFree c r.write | .fab p => s.fabFree p | .nowhere => false) &&
    (!loggedOwner r.owner || s.logRoom r.inst r.va) && (s.newWork || !newOwner r.owner) && s.ctlCost r != .waits &&
    s.ovrTurn r && (r.cls != .background || (tabGet {} s.gls.acc c).res + r.bytes ≤ units (portRes s.bell.p))

/-- The best request of the control path of cluster c for a port: by class, then in the order they became ready
(R143). -/
def State.bestCtl (s : State) (c : Nat) (dest : Dest) : Option (Nat × What) :=
  let rs := (s.port c).ctl.filter (fun r => s.ctlDest r == dest && s.ctlFree c r)
  (minBy (fun r => (s.ctlCls r).rank) rs).map (fun r => ((s.ctlCls r).rank, .ctl c r))

/-- The inbound path of memory port c (R142, R147). -/
def State.bestInb (s : State) (c : Nat) : Option (Nat × What) :=
  let rank := fun b : Inb => if b.firm then 0 else 2
  let bs := s.inbs.filter (fun b => b.cluster == c && !b.reqs.isEmpty && s.slotFree c b.write)
  (minBy rank bs).map (fun b => (rank b, .inb b.id))

/-- Offers to the arbiter of memory port c: engines 0 to 15, the inbound path, the control path (R143). -/
def State.memOffers (s : State) (c : Nat) : List Offer :=
  ((List.range 16).filterMap (fun k =>
    (s.bestFrag none (s.frags.filter (fun f => f.eng == 16 * c + k && f.cluster == c))).map
      (fun o => { rank := o.1, who := k, what := o.2 : Offer }))) ++
  ((s.bestInb c).map (fun o => { rank := o.1, who := 16, what := o.2 : Offer })).toList ++
  ((s.bestCtl c .mem).map (fun o => { rank := o.1, who := 17, what := o.2 : Offer })).toList

/-- Offers to the arbiter of fabric port f: the eight clusters and the inbound response path (R146). -/
def State.fabOffers (s : State) (f : Nat) : List Offer :=
  if !(s.fab f).linkup then []
  else
    ((List.range 8).filterMap (fun c =>
      let again := ((s.fab f).tx.find? (fun t => !t.resp && t.cluster == c)).map (fun t => (t.cls.rank, What.tx t))
      let all := again.toList ++ (s.bestCtl c (.fab f)).toList ++
        (s.bestFrag (some f) (s.frags.filter (fun g => g.cluster == c))).toList
      (minBy (·.1) all).map (fun o => { rank := o.1, who := c, what := o.2 : Offer }))) ++
    ((minBy (fun t => t.cls.rank) ((s.fab f).tx.filter (·.resp))).map
      (fun t => { rank := t.cls.rank, who := 8, what := .tx t : Offer })).toList

/-- The offers and round-robin state of an arbiter, with the number of its requesters. -/
def State.offers (s : State) : ArbPort → List Offer
  | .mem c => s.memOffers c.val
  | .fab f => s.fabOffers f.val

def State.rrOf (s : State) : ArbPort → List (Nat × Nat)
  | .mem c => (s.port c.val).rr
  | .fab f => (s.fab f.val).rr

def requesters : ArbPort → Nat
  | .mem _ => 18
  | .fab _ => 9

/-- The offer an arbiter grants: by class, then round robin from the requester after the last one granted in that
class (R142, R143, R146). -/
def State.arbChoice (s : State) (p : ArbPort) : Option Offer :=
  let n := requesters p
  minBy (fun o => o.rank * n + cycDist n (tabGet 0 (s.rrOf p) o.rank) o.who) (s.offers p)

/-! ### Grants -/

/-- The first request of a fragment admits it (R89, R118, R122). -/
def State.admitFirst (s : State) (id : Nat) : State :=
  match s.frag? id with
  | none => s
  | some f =>
    match f.phase, s.admitCheck f with
    | .assigned, .go k => s.admitFrag f k
    | _, _ => s

/-- The counting of a control-path request (R103): a record read or a link fetch by the budget charged, every other one in OTHER. -/
def CtlReq.acct (r : CtlReq) (c : CtlCost) : Acct :=
  match r.owner, c with
  | .man _ _ _, .costs k => k.acct
  | .link _, .costs k => k.acct
  | _, _ => .other

/-- The span bytes of a control-path request: a remote link fetch (R360). -/
def State.ctlSpan (s : State) (r : CtlReq) : List (Nat × Nat × Nat) :=
  match r.owner with
  | .link n => s.linkSpan n
  | _ => []

/-- The bytes of a control write: an overwrite's are made when it is issued (R272, R274). -/
def State.ctlData (s : State) (r : CtlReq) : List Byte :=
  match r.owner with
  | .ovr g seq =>
    match (s.queue? g).bind (fun q => q.entry? seq) with
    | some e => (s.asKnown g e).overwrite s.bell.glass
    | none => r.data
  | _ => r.data

/-- The Purser's request has been issued: the next one joins the control path. -/
def State.purIssued (s : State) : State := (s.updAcs (fun a => { a with reqs := a.reqs.drop 1, out := a.out + 1 })).purGo

/-- A control-path request is issued and charged (R87, R93, R362, R379, R550). -/
def State.grantCtl (s : State) (c : Nat) (r : CtlReq) : State :=
  let dest := s.ctlDest r
  let cost := s.ctlCost r
  let cls := s.ctlCls r
  let s := match cost with
    | .costs k => s.charge r.inst c k r.bytes (s.ctlSpan r)
    | _ => s
  let s := s.updPort c (fun p => { p with ctl := dropFirst (fun x => x == r) p.ctl })
  let q : Req := { va := r.va, pa := r.addr, width := r.width, bytes := r.bytes, fixed := false, off := r.off }
  let s := if r.cls == .background then s.updAcc c (fun a => { a with res := a.res + r.bytes }) else s
  let s := if loggedOwner r.owner then s.logAccess r.inst r.va else s
  match dest with
  | .nowhere => s
  | .fab f => s.issueSpan f r.owner r.write r.inst r.gen q cls c r.data 0
  | .mem =>
    if r.write then
      let s := s.issueWrite c r.owner r.inst r.gen q (cls == .top) (r.acct cost) (s.ctlData r) []
      match r.owner with
      | .ovr g seq => s.ovrIssued g seq
      | .pur => s.purIssued
      | _ => s
    else
      let s := s.issueRead c r.owner r.inst r.gen q (cls == .top) (r.acct cost)
      match r.owner with
      | .pur => s.purIssued
      | _ => s

/-- The next memory request of an inbound request is issued (R370). -/
def State.grantInb (s : State) (id : Nat) : State :=
  match s.inbs.find? (fun b => b.id == id) with
  | none => s
  | some b =>
    match b.reqs with
    | [] => s
    | q :: rest =>
      let s := s.updInb id (fun b => { b with reqs := rest, out := b.out + 1 })
      let k := if b.firm then Acct.firm else Acct.soft
      let gen := (s.inst 0).gen
      if b.write then
        let slot := s.freeSlot b.cluster true
        let s := s.issueWrite b.cluster (.inb id) 0 gen q b.firm k ((b.data.drop q.off).take q.bytes) b.lines
        let hit := fun w : WBeat => w.slot == slot && b.par.any (fun n => w.off ≤ n && n < w.off + w.bytes)
        s.updPort b.cluster (fun p => { p with
          wq := p.wq.map (fun w => if hit w then { w with poison := true } else w) })
      else s.issueRead b.cluster (.inb id) 0 gen q b.firm k

/-- A response or a request sent again leaves on a fabric port (R146, R375). -/
def State.grantTx (s : State) (f : Nat) (t : TxMsg) : State :=
  (s.updFab f (fun p => { p with tx := dropFirst (fun x => x == t) p.tx, lastMsg := some t.msg })).countFab f true t.firm
    t.msg.bytes

/-- Round robin goes on behind the requester granted (R143). -/
def State.setRr (s : State) (p : ArbPort) (o : Offer) : State :=
  match p with
  | .mem c => s.updPort c.val (fun q => { q with rr := tabSet q.rr o.rank (o.who + 1) })
  | .fab f => s.updFab f.val (fun q => { q with rr := tabSet q.rr o.rank (o.who + 1) })

/-- A request that only the want of a log cache entry keeps from being offered is counted once (R381). -/
def State.countWaits (s : State) : State :=
  let late := s.frags.filter (fun f => !f.waited && (match s.nextReq f with
    | some (true, _) => !s.logRoom f.inst f.writeVa
    | _ => false))
  late.foldl (fun s f => (s.updFrag f.id (fun f => { f with waited := true })).logWaits f.inst) s

/-- The same for the control path of memory port c, whichever port its requests go to (R381). -/
def State.countCtlWaits (s : State) (c : Nat) : State :=
  let late := (s.port c).ctl.filter (fun r => !r.waited && loggedOwner r.owner && !s.logRoom r.inst r.va)
  let s := s.updPort c (fun p => { p with
    ctl := p.ctl.map (fun r => if late.contains r then { r with waited := true } else r) })
  late.foldl (fun s r => s.logWaits r.inst) s

/-- Every request that waits for a log cache entry now is counted, once each (R381). -/
def State.countAllWaits (s : State) : State := (List.range 8).foldl State.countCtlWaits s.countWaits

/-- An offer is granted (R142, R146); `par` is what the checks at write-out find on a remote write (R139). -/
def State.grant (s : State) (p : ArbPort) (par : List (Nat × OutPar)) (o : Offer) : State :=
  let s := s.setRr p o
  match o.what, p with
  | .read id, _ => (s.admitFirst id).fragRead id
  | .write id, _ => (s.admitFirst id).fragWrite id par
  | .ctl c r, _ => s.grantCtl c r
  | .inb id, _ => s.grantInb id
  | .tx t, .fab f => s.grantTx f.val t
  | .tx _, .mem _ => s

/-- ARBITER_GRANT (R142, R146). -/
def doGrant (p : ArbPort) (par : List (Nat × OutPar)) (s : State) : State :=
  if !s.issues then s
  else
    let s := s.countAllWaits
    match s.arbChoice p with
    | none => s
    | some o => s.grant p par o

/-- ARBITER_GRANT (R142). -/
def execArbiterGrant (p : ArbPort) (par : List (Nat × OutPar)) (s : State) : Result := .next (doGrant p par s)

/-- The port a fragment's next request goes to. -/
def State.arbPort (s : State) (f : Frag) (write : Bool) : ArbPort :=
  match s.reqPort f write with
  | none => .mem (Fin.ofNat 8 f.cluster)
  | some p => .fab (Fin.ofNat 4 p)

/-- A fragment's next request, if its arbiter would grant it now. -/
def State.ownTurn (s : State) (f : Frag) : Option (ArbPort × Offer) :=
  match s.nextReq f with
  | none => none
  | some (w, _) =>
    let p := s.arbPort f w
    match s.arbChoice p with
    | some o => if o.what == (if w then .write f.id else .read f.id) then some (p, o) else none
    | none => none

/-- A fragment's next request is granted if it is its turn. -/
def State.tryGrant (s : State) (f : Frag) (par : List (Nat × OutPar) := []) : State :=
  match s.ownTurn f with
  | some (p, o) => s.grant p par o
  | none => s

/-- A fragment that is assigned ends for a page that does not translate or a node no port leads to, gives its hold space back, or
has its first request granted (R89, R121, R268). -/
def State.admitNow (s : State) (f : Frag) (par : List (Nat × OutPar)) : State :=
  match s.admitCheck f with
  | .wait => s
  | .xfail dst c => s.fragXfail f dst c
  | .noLink dst => s.fragNoLink f dst
  | .giveBack => s.giveBack f
  | .go _ => s.tryGrant f par

/-- ADMISSION (R89, R121, R268) of a fragment that is assigned. -/
def doAdmission (id : Nat) (s : State) : State :=
  if !s.issues then s
  else
    let s := s.countAllWaits
    match s.frag? id with
    | none => s
    | some f => if f.phase == .assigned then s.admitNow f [] else s

/-- ADMISSION (R89). -/
def execAdmission (f : Nat) (s : State) : Result := .next (doAdmission f s)

/-- FRAGMENT_WRITE_START (R119, R122): the first write request of a staged fragment, or of one that reads nothing. -/
def doWriteStart (id : Nat) (par : List (Nat × OutPar)) (s : State) : State :=
  if !s.issues then s
  else
    let s := s.countAllWaits
    match s.frag? id with
    | none => s
    | some f =>
      match f.phase with
      | .staged => s.tryGrant f par
      | .assigned => if f.src.isNone then s.admitNow f par else s
      | _ => s

/-- FRAGMENT_WRITE_START (R119). -/
def execFragmentWriteStart (f : Nat) (par : List (Nat × OutPar)) (s : State) : Result := .next (doWriteStart f par s)

/-! ### Read beats (R33, R34, R123, R139, R338) -/

/-- The tag as DETAIL shows it (R425). -/
def Tag.word (t : Tag) : Word := pack [(39, 30, t.inst.toNat), (29, 14, t.gen.toNat), (13, 0, t.slot.toNat)]

/-- What a beat brings to its access. `ok` says that no status and no parity check failed it. A fragment of an instance that is
reset or contained discards it (R345); any other one has its source error, halted or stopped though it be (R123, R125). -/
def State.deliver (s : State) (r : RdOut) (b : RBeat) (last : Bool) : State :=
  let ok := b.stat == 0 && b.bad.isEmpty
  let st := b.stat.toNat
  match r.owner with
  | .frag id =>
    match s.frag? id with
    | none => s
    | some f =>
      let s :=
        if s.inReset f.inst || s.isContained f.inst || f.srcErr.isSome then s
        else if st = 1 ∨ st = 2 then s.fragSrcFails f 0x10 st 8
        else if f.dead || f.halted then s
        else
          let s := s.placeBytes f r.off b.data (if st = 3 then List.range b.data.length else b.bad)
          let s := if st = 3 then s.updFrag id (fun f => { f with poisStat := true }) else s
          if b.dp && f.dst.isNone then
            (s.updFrag id (fun f => { f with outPoison := true })).raiseAt 13 f.attr (BitVec.ofNat 64 r.addr)
          else s
      if last then s.fragReadEnds id else s
  | .poll g => s.pollData g (if ok then some b.data else none)
  | .man g seq dst => if ok then s.recData g seq dst b.data else s.recFails g seq dst st none
  | .link n => if ok then s.fetchData n b.data else s.fetchFails n 3 st 32
  | .chart x va => s.chartData x va (if ok then some (BitVec.ofNat 64 (at_ b.data 0 8)) else none)
  | .inb id =>
    let bad := (if st = 3 then List.range b.data.length else b.bad).map (fun k => (r.off + k) / 64)
    let s := s.updInb id (fun x =>
      let x := { x with data := putBytes x.data r.off b.data
                        lines := x.lines ++ (bad.eraseDups.filter (fun l => !x.lines.contains l)) }
      if st = 1 ∨ st = 2 then x.fails r.off st else x)
    if last then s.updInb id (fun x => { x with out := x.out - 1 }) else s
  | .logRd i line base => s.logRead i line base st (if ok then some b.data else none)
  | .pur => s.purData r.off b.data ok st last
  | _ => s

/-- CLU_ERR counts a beat by its parity and its status (R141), whatever becomes of its data. -/
def State.beatCounts (s : State) (c : Nat) (b : RBeat) : State :=
  s.unlessWritten (cluErrOff c) (fun s => s.updPort c (fun p => { p with
    rdPar := if b.bad.isEmpty then p.rdPar else satAdd 16 p.rdPar 1
    rdPois := if b.stat = 3 then satAdd 16 p.rdPois 1 else p.rdPois }))

/-- What a beat of a live request shows beside its data (R36, R139, R413, R425): a late first beat, bytes that fail parity, the
status POISON. One that is discarded after a link timeout raises nothing (R186, R413). -/
def State.beatFaults (s : State) (c : Nat) (b : RBeat) (r : RdOut) : State :=
  if r.owner.isLate then s
  else
  let at' := s.ownerAttr r.owner r.inst c
  let d := s.ownerDetail r.owner false (some r.addr) (errInfo 3 b.stat.toNat false 0 32)
  let s := if r.first && r.at_ + 500 < s.age then s.raise 20 6 c at'.inst (Tag.word b.tag) else s
  let s := if b.bad.isEmpty then s else s.raiseAt 10 at' d
  if b.stat = 3 then s.raiseAt 11 at' d else s

/-- The request a beat belongs to goes on by its bytes, and its slot is free with its last beat (R35). -/
def State.beatSlot (s : State) (c : Nat) (n : Nat) (last : Bool) (r : RdOut) : State :=
  let r' := { r with off := r.off + n, due := r.due - n, first := false
                     addr := if r.fixed then r.addr else r.addr + n }
  s.updPort c (fun p => { p with
    rd := (p.rd.map (fun x => if x.slot = r.slot then r' else x)).filter (fun x => !(x.slot == r.slot && (r.due ≤ n || last))) })

/-- Any read beat that an isolated block does not ignore counts in the telemetry (R154) and in CLU_ERR (R141). -/
def State.beatSeen (s : State) (c : Nat) (b : RBeat) : State :=
  if s.up then (s.updAcc c (fun a => { a with allRd := a.allRd + 1 })).beatCounts c b else s

/-- A beat of a live request is taken; one of the top class counts as such (R142, R154). -/
def State.beatTaken (s : State) (c : Nat) (n : Nat) (r : RdOut) : State :=
  (s.beatSlot c n false r).updAcc c (fun a => { a with topRd := a.topRd + b2n r.top })

/-- A read beat arrives on memory port c. One of a request of before a reset, or that meets an isolated block, is discarded, and
its last one frees the slot (R64). -/
def State.beat (s : State) (c : Nat) (b : RBeat) : State :=
  let slot := b.tag.slot.toNat
  let s := s.beatSeen c b
  if (s.port c).oldRd.contains slot then
    if b.last then s.updPort c (fun p => { p with oldRd := p.oldRd.filter (fun n => n != slot) }) else s
  else
    match (s.port c).rd.find? (fun r => r.slot == slot) with
    | none => if s.up then s.raise 16 6 c none (Tag.word b.tag) else s
    | some r =>
      if !s.up then s.beatSlot c b.data.length b.last r
      else if b.data.length ≠ 2 ^ r.width ∨ (r.first && (s.port c).rd.any (fun x => !x.first)) then
        s.raise 17 6 c none (Tag.word b.tag)
      else
        let s' := s.beatTaken c b.data.length r
        if b.tag.gen.toNat ≠ (s'.inst b.tag.inst.toNat).gen then s'
        else (s'.beatFaults c b r).deliver r b (r.due ≤ b.data.length)

/-- READ_BEAT (R123). -/
def execReadBeat (p : Fin 8) (b : RBeat) (s : State) : Result := .next (s.beat p.val b)

/-- A beat belongs to a poll. -/
def State.isPollBeat (s : State) (c : Nat) (b : RBeat) : Bool :=
  (s.port c).rd.any (fun r => r.slot == b.tag.slot.toNat && (match r.owner with | .poll _ => true | _ => false))

/-- POLL_RESPONSE (R210): the beat of an outstanding poll. -/
def execPollResponse (p : Fin 8) (b : RBeat) (s : State) : Result :=
  .next (if s.isPollBeat p.val b then s.beat p.val b else s)

/-! ### Write beats and acknowledgements (R124, R131, R139, R338) -/

/-- WRITE_DATA_ACCEPT (R131, R139, R140): the first waiting beat is accepted; the checks at write-out may poison it. -/
def doWriteData (c : Nat) (par : OutPar) (s : State) : State :=
  if !s.up then s
  else
    match (s.port c).wq with
    | [] => s
    | w :: rest =>
      let s := s.updAcc c (fun a => { a with allWr := a.allWr + 1, topWr := a.topWr + b2n w.top })
      match w.owner with
      | .frag id =>
        match s.frag? id with
        | none => s.updPort c (fun p => { p with wq := rest, lastBeat := some w })
        | some f =>
          let w' := { w with data := Memory.reads s.hold (f.at_ + w.off) w.bytes, poison :=
            par != .good || f.lines.any (fun l => w.off / 64 ≤ l && l ≤ (w.off + w.bytes - 1) / 64) }
          let s := (s.updPort c (fun p => { p with wq := rest, lastBeat := some w' })).outParity f w.addr par
          (s.updFrag id (fun f => { f with wrBeats := f.wrBeats - 1 })).writesOver id
      | _ => s.updPort c (fun p => { p with wq := rest, lastBeat := some w })

/-- WRITE_DATA_ACCEPT (R131). -/
def execWriteDataAccept (p : Fin 8) (par : OutPar) (s : State) : Result := .next (doWriteData p.val par s)

/-- What an acknowledgement brings to its access; `st` is 0, 1 or 2 (R33). -/
def State.acked (s : State) (w : WrOut) (st : Nat) : State :=
  match w.owner with
  | .frag id =>
    match s.frag? id with
    | none => s
    | some f => (if st = 0 then s else s.fragDstFails f 0x11 st 9).fragWriteEnds id
  | .ovr g seq => s.ovrDone g seq (st == 0) none
  | .evt i => if st = 0 then s.recordDone i else s.recordFails i w.addr none
  | .msi i => s.msiEnds i w.addr (st == 0) none
  | .inb id =>
    s.updInb id (fun b =>
      let b := { b with out := b.out - 1 }
      if st = 0 then b else b.fails (w.addr - localOf (hAddr b.hdr)) st)
  | .logWr i line base => s.logWritten i line base st
  | .pur => s.purEnds (if st = 0 then none else some st)
  | _ => s

/-- WRITE_ACK (R33, R34, R124, R338): a status of 3 is treated as ERR. One that meets an isolated block only frees its slot (R64). -/
def doWriteAck (c : Nat) (tag : Tag) (stat : BitVec 2) (s : State) : State :=
  let slot := tag.slot.toNat
  if (s.port c).oldWr.contains slot then
    s.updPort c (fun p => { p with oldWr := p.oldWr.filter (fun n => n != slot) })
  else if !s.up then s.updPort c (fun p => { p with wr := p.wr.filter (fun x => x.slot != slot) })
  else
    match (s.port c).wr.find? (fun w => w.slot == slot) with
    | none => s.raise 16 6 c none (Tag.word tag)
    | some w =>
      if (s.port c).wq.any (fun x => x.slot == slot) then s.raise 17 6 c none (Tag.word tag)
      else
        let s := s.updPort c (fun p => { p with wr := p.wr.filter (fun x => x.slot != slot) })
        let s := if stat = 0 then s
          else s.unlessWritten (cluErrOff c) (fun s => s.updPort c (fun p => { p with wrErr := satAdd 16 p.wrErr 1 }))
        if tag.gen.toNat ≠ (s.inst tag.inst.toNat).gen then s
        else s.acked w (if stat = 3 then 1 else stat.toNat)

/-- WRITE_ACK (R124). -/
def execWriteAck (p : Fin 8) (tag : Tag) (stat : BitVec 2) (s : State) : Result := .next (doWriteAck p.val tag stat s)

end Sys2Proof.Machine
end

