-- ==== Sys2Proof/Config.lean ====
section
/-! DEFINITION. The values the spec leaves open (log entries 17, 18 and 19). They are constants without a body: nothing can be proved
of their values. -/

namespace Sys2Proof

/-- DETAIL of a refusal that R300 gives no place: at a bus clock, with so many commands executed, of a result code. DESIGN
CHOICE (log 18): a free value. -/
opaque Config.refusalDetail : (clock cmds code : Nat) → BitVec 16

/-- EXCESS of a MEM_ERR whose access failed translation and so has no port status (R298), at a bus clock, with so many
commands executed. DESIGN CHOICE (log 18): a free value. -/
opaque Config.noPortStatus : (clock cmds : Nat) → BitVec 32

/-- The registers that the word of the context SRAM at an index holds for the queue or channel that owns it (R440, R443): a number of
the place. DESIGN CHOICE (log 17): a free value. -/
opaque Config.contextPart : Nat → Nat

/-- The firmware's instruction address that DETAIL shows for a fault of the Purser (R425), at a bus clock. DESIGN CHOICE
(log 19): a free value. -/
opaque Config.firmwarePc : Nat → BitVec 18

end Sys2Proof
end

