-- ==== Sys2Proof/Machine/Instance.lean ====
section
/-! DEFINITION. Instances: the reset sequence, the settle, containment, and invalidations of the chart cache (R335,
R336, R345 to R351). -/

namespace Sys2Proof.Machine

open Sys2Proof

/-! ### Stop and discard (R345 steps 1 and 2, R348) -/

/-- A chart read stops: in a containment all but those of records and MSI writes (R345, R348). An overwrite that is due and not
issued is taken back, to be made again in ring order (R403). -/
def ctxStops (reset : Bool) : XCtx → Bool
  | .evt _ => reset
  | .msi _ => reset
  | _ => true

/-- A request not yet issued is never issued (R345, R348). -/
def ownerStops (reset : Bool) : Owner → Bool
  | .poll _ => true
  | .man _ _ _ => true
  | .link _ => true
  | .ovr _ _ => true
  | .chart x _ => ctxStops reset x
  | .evt _ => reset
  | .msi _ => reset
  | _ => false

/-- Nothing of instance i that stops is issued any more (R345 step 1). -/
def State.stopRequests (s : State) (i : Nat) (reset : Bool) : State :=
  { s with
    ports := s.ports.map (fun p => (p.1, { p.2 with ctl := p.2.ctl.filter (fun c => !(c.inst == i && ownerStops reset c.owner)) }))
    walks := s.walks.filter (fun w => !(w.inst == i && ctxStops reset w.ctx)) }

/-- A read of instance i whose data are to be discarded: of a chart walk that stops, of a manifest record, or of a
fragment that is discarded. -/
def discardedRead (reset : Bool) (lost : List Nat) : Owner → Bool
  | .frag id => lost.contains id
  | .man _ _ _ => true
  | .chart x _ => ctxStops reset x
  | _ => false

/-- What a discarded request of instance i is still known by: the unit that a fault of it names (R410, R425). -/
def State.goneOwner (s : State) (o : Owner) (i : Nat) (write : Bool := false) : Owner :=
  if o.isLate then o else .gone (s.ownerAttr o i 0) (s.ownerDetail o write none)

/-- The requests of instance i whose responses are discarded lose their owner (R345 step 2). -/
def State.disownReads (s : State) (i : Nat) (reset : Bool) (lost : List Nat) : State :=
  let off := fun (j : Nat) (o : Owner) => if j = i ∧ discardedRead reset lost o then s.goneOwner o i else o
  { s with
    ports := s.ports.map (fun p => (p.1, { p.2 with rd := p.2.rd.map (fun r => { r with owner := off r.inst r.owner }) }))
    fabs := s.fabs.map (fun p => (p.1, { p.2 with slots := p.2.slots.map (fun l => { l with owner := off l.inst l.owner }) })) }

/-- A poll of queue g is outstanding on a port. -/
def State.pollOut (s : State) (g : Nat) : Bool := s.ports.any (fun p => p.2.rd.any (fun r => r.owner == .poll g))

/-- A queue of the instance: polling stops, an outstanding poll's response is discarded, record reads are given up, and
each open entry whose overwrite has not been issued ends (R235, R345, R346). -/
def Queue.cut (q : Queue) (reset out : Bool) : Queue :=
  { q with
    state := if reset then q.state else .fenced
    waiting := false, poll := q.poll && out, drop := q.poll && out
    entries := q.entries.map (fun e =>
      { e with mSrc := { e.mSrc with reading := none }, mDst := { e.mDst with reading := none }
               ended := if e.issued then e.ended else if reset then 0x29 else 0x28
               ovr := if e.issued then e.ovr else .none }) }

/-- Fragments that step 2 discards or cuts off: those of queues, and in a reset the bursts of channels too; the bursts
of a contained instance's channels act as R198 states. -/
def State.cutFrags (_ : State) (i : Nat) (reset : Bool) (f : Frag) : Bool := f.inst == i && (reset || f.ctx.isQueue)

/-- A burst discarded or cut off moves the place its channel's registers will point at back to it (R191, R198). -/
def State.burstCut (s : State) (f : Frag) : State :=
  match f.ctx with
  | .chan n => s.updChan n (fun x => { x with cut := some (match x.cut with | some c => min c f.pos | none => f.pos) })
  | .queue _ => s

/-- Steps 1 and 2 of R345: fragments that have not begun writing are discarded, the others are cut off and issue no further write. -/
def State.discard (s : State) (i : Nat) (reset : Bool) : State :=
  let mine := s.cutFrags i reset
  let lost := (s.frags.filter (fun f => mine f && !f.writes)).map (·.id)
  let cut := fun f : Frag => mine f && f.writes && !f.wrReqs.isEmpty
  let s := (s.stopRequests i reset).disownReads i reset lost
  let s := (s.frags.filter (fun f => lost.contains f.id || cut f)).foldl State.burstCut s
  let s := { s with frags := (s.frags.filter (fun f => !lost.contains f.id)).map (fun f =>
    if cut f then { f with cutOff := true, wrReqs := [] } else f) }
  lost.foldl (fun s id => s.dropWalks (.frag id)) s

/-- Fragments of instance i that are cut off and have nothing left to write end (R118, R345). -/
def State.cutsOver (s : State) (i : Nat) : State :=
  ((s.frags.filter (fun f => f.inst == i && f.cutOff)).map (·.id)).foldl State.writesOver s

/-- Channels of instance i. -/
def State.ownChans (s : State) (i : Nat) : List Nat := (s.chans.filter (fun p => p.2.owner == i)).map (·.1)

/-- The event ring and the MSI write of a resetting instance stop; what is on a port runs out (R345 step 1). -/
def State.stopEvents (s : State) (i : Nat) : State :=
  let evt := s.ports.any (fun p => p.2.wr.any (fun w => w.owner == .evt i))
  let msi := s.ports.any (fun p => p.2.wr.any (fun w => w.owner == .msi i)) ||
    s.fabs.any (fun p => p.2.slots.any (fun l => l.owner == .msi i))
  s.updInst i (fun x => { x with
    evWait := [], evOut := if evt then x.evOut else none, msiTrig := none, msiOut := x.msiOut && msi })

/-- Steps 1 and 2 of a reset or a containment, in a state already entered (R345, R348). -/
def State.stopWork (s : State) (i : Nat) (reset : Bool) : State :=
  let s := s.updInst i (fun x => { x with stopAt := s.age, settling := false })
  let s := s.discard i reset
  let s := (s.ownQueues i).foldl (fun s p => s.updQueue p.1 (fun q => q.cut reset (s.pollOut p.1))) s
  let s := if reset then s.stopEvents i else s
  let s := (s.ownChans i).foldl (fun s n =>
    if reset then s.chHalt (Fin.ofNat 512 n) .reset else s.chContain (Fin.ofNat 512 n)) s
  (s.cutsOver i).settleBegins i

/-- A reset of instance i begins, for INST_RESET or INST_REMOVE (R345). -/
def State.beginReset (s : State) (i : Nat) (removing : Bool) : State :=
  (s.updInst i (fun x => { x with state := if removing then .removing else .resetting, renewed := false })).stopWork i true

/-- Instance i is contained (R348): from ACTIVE, SUSPENDING or SUSPENDED. -/
def State.contain (s : State) (i : Nat) : State :=
  let st := (s.inst i).state
  if i ≠ 0 && (st == .active || st == .suspending || st == .suspended) then
    (s.updInst i (fun x => { x with state := .containing })).stopWork i false
  else s

/-! ### The settle (R345 step 4) -/

/-- The settle wait of instance i is over (R345, R348). Bursts of a contained instance that still write are waited for
with the writes (log entry 16). -/
def State.settled (s : State) (i : Nat) : Bool :=
  (s.inst i).settling &&
    s.ports.all (fun p => p.2.wr.all (fun w => w.inst != i || w.stuck || !s.waitsFor i w.owner w.at_)) &&
    s.fabs.all (fun p => p.2.slots.all (fun l => l.inst != i || !l.write || !s.waitsFor i l.owner l.sent)) &&
    s.frags.all (fun f => f.inst != i || !(f.writes && !f.wrReqs.isEmpty))

/-- An access belongs to instance i. -/
def State.ctxOf (s : State) (i : Nat) : XCtx → Bool
  | .frag id => s.frags.any (fun f => f.id == id && f.inst == i)
  | .poll g => (s.queue? g.val).any (fun q => q.inst == i)
  | .man g _ => (s.queue? g.val).any (fun q => q.inst == i)
  | .ovr g _ => (s.queue? g.val).any (fun q => q.inst == i)
  | .link n => (s.chan n.val).owner == i
  | .evt j => j.val == i
  | .msi j => j.val == i
  | .pur => i == 0

/-- A channel after step 5 of a reset (R347): still bound, every register at its reset value but END STOPPED. The level
its port last brought stays. -/
def Chan.reset (x : Chan) (endc : Nat) : Chan := { owner := x.owner, cur := x.cur, endc }

/-- A queue after step 5 of a reset (R347). -/
def Queue.reset (q : Queue) : Queue :=
  { q with state := .off, enable := false, entries := [], susp := false, err := {}, haltRaw := [], poll := false, drop := false
           waiting := false }

/-- The registers of an instance after step 5 of a reset (R347). -/
def Inst.reset (x : Inst) : Inst :=
  { x with
    gen := (x.gen + 1) % 65536
    evtEn := false, sizeM := 7, evtBase := 0, head := 0, tail := 0, lost := 0, lostAt := none, ackAt := none, evWait := [], evOut := none
    intEn := false, msi := false, msiAddr := 0, msiData := 0, msiTrig := none, msiOut := false, msiQ := none
    fv0 := 0, fv1 := 0, fvLast := 0, fview := none
    carryF := [], carryS := [], carryRO := [], carryRI := [], settling := false, renewed := true }

/-- Step 5 of a reset (R345, R347): a new generation, an empty share of the chart cache, registers at their reset
values, no carry, and no access of the old generation left, nor a request that waits to be sent again (R404). -/
def State.newGen (s : State) (i : Nat) : State :=
  let off := fun (j : Nat) (o : Owner) => if j = i then s.goneOwner o i else o
  let s : State := { s with
    cc := s.cc.filter (fun e => e.inst != i)
    walks := s.walks.filter (fun w => w.inst != i)
    walked := s.walked.filter (fun w => !s.ctxOf i w.ctx)
    frags := s.frags.map (fun f => if f.inst = i then { f with cutOff := true, wrReqs := [] } else f)
    ports := s.ports.map (fun p => (p.1, { p.2 with
      ctl := p.2.ctl.filter (fun c => c.inst != i)
      rd := p.2.rd.map (fun r => { r with owner := off r.inst r.owner })
      wr := p.2.wr.map (fun w => { w with owner := off w.inst w.owner }) }))
    fabs := s.fabs.map (fun p => (p.1,
      let old := (p.2.slots.filter (fun l => l.inst == i)).map (·.msg)
      { p.2 with slots := p.2.slots.map (fun l => { l with owner := off l.inst l.owner })
                 tx := p.2.tx.filter (fun t => t.resp || !old.contains t.msg) })) }
  let s := (s.ownQueues i).foldl (fun s p => s.updQueue p.1 Queue.reset) s
  let s := (s.ownChans i).foldl (fun s n => s.updChan n (fun x => x.reset 3)) s
  s.updInst i Inst.reset

/-- SETTLE_END (R345 steps 5 and 6): while a freeze is in force it waits (R515). A reset leaves the instance ACTIVE, unless
the Purser has halted (R285); a removal goes on with its command. -/
def doSettleEnd (i : Nat) (s : State) : State :=
  if s.up && s.pwr.clocked && !s.frozen && s.inReset i && s.settled i then
    (s.newGen i).updInst i (fun x => { x with state := if x.state == .resetting && s.pur.state == 3 then .active else x.state })
  else s

/-- SETTLE_END (R345). -/
def execSettleEnd (i : Fin 1024) (s : State) : Result := .next (doSettleEnd i.val s)

/-- SETTLE_TMO (R344, R345): a node-local write the settle waits for ends by timeout; its slot stays occupied. DESIGN CHOICE
(log 76): an event record or MSI write that ends so in a containment stays the instance's one until its acknowledgement. -/
def doSettleTmo (c slot : Nat) (s : State) : State :=
  match (s.port c).wr.find? (fun w => w.slot == slot) with
  | none => s
  | some w =>
    let x := s.inst w.inst
    let tmo := fld s.glb.settleTmo 19 0
    if s.up && x.settling && !w.stuck && s.waitsFor w.inst w.owner w.at_ && tmo ≠ 0 && x.settle + 500 * tmo ≤ s.age then
      let keep := match w.owner with | .evt _ => true | .msi _ => true | _ => false
      let tag : Tag := { inst := BitVec.ofNat 10 w.inst, gen := BitVec.ofNat 16 w.gen, slot := BitVec.ofNat 14 w.slot }
      let s := s.updPort c (fun p => { p with
        wr := p.wr.map (fun v => if v.slot = slot then { v with stuck := true, owner := if keep then v.owner else .late (s.ownerAttr w.owner w.inst c) } else v) })
      let s := s.raise 35 0 0 (some w.inst) (Tag.word tag)
      match w.owner with
      | .frag id => s.fragWriteEnds id
      | .ovr g seq => s.ovrDone g seq true none
      | _ => s
    else s

/-- SETTLE_TMO (R345). -/
def execSettleTmo (p : Fin 8) (slot : BitVec 14) (s : State) : Result := .next (doSettleTmo p.val slot.toNat s)

/-- CONTAINED (R348): the wait of a containment ends. -/
def doContained (i : Nat) (s : State) : State :=
  if s.up && s.pwr.clocked && (s.inst i).state == .containing && s.settled i then
    s.updInst i (fun x => { x with state := .contained, settling := false })
  else s

/-- CONTAINED (R348). -/
def execContained (i : Fin 1024) (s : State) : Result := .next (doContained i.val s)

/-! ### Invalidations (R335, R336) -/

/-- The range of CC_INV (R335): instance, first address and size as a power of two. -/
def invRange (v : Word) : Nat × Nat × Nat :=
  let log2 := match fld v 59 58 with | 0 => 12 | 1 => 21 | 2 => 30 | _ => 39
  (fld v 57 48, fld v 38 0 / 2 ^ log2 * 2 ^ log2, log2)

/-- Two aligned regions overlap. -/
def regionsMeet (a loga b logb : Nat) : Bool := a < b + 2 ^ logb && b < a + 2 ^ loga

/-- An address lies in the range of CC_INV. -/
def inRange (a log2 va : Nat) : Bool := a ≤ localOf va && localOf va < a + 2 ^ log2

/-- A fragment has used a translation in the range. -/
def fragInRange (f : Frag) (a log2 : Nat) : Bool :=
  let side := fun d : Option Side => match d with | some d => (d.pages f.len).any (inRange a log2) | none => false
  f.phase != .assigned && (side f.src || side f.dst)

/-- Accesses whose addresses the chart translated (R327). -/
def translated : Owner → Bool
  | .frag _ => false
  | .chart _ _ => false
  | .logRd _ _ _ => false
  | .logWr _ _ _ => false
  | .inb _ => false
  | .gone _ _ => false
  | .late _ => false
  | _ => true

/-- GO of CC_INV starts an invalidation of the range that the register holds (R335, R336): the entries are removed, the walks of
the instance start again, and accesses in the range that are not yet on a port go through the chart once more. -/
def State.ccStart (s : State) : State :=
  let (i, a, log2) := invRange s.glb.ccInv
  let ids := (s.frags.filter (fun f => f.inst == i && fragInRange f a log2)).map (·.id)
  { s with
    glb := { s.glb with ccGo := true, ccAt := s.age, ccFrags := ids }
    cc := s.cc.filter (fun e => !(e.inst == i && regionsMeet a log2 e.leaf.va e.leaf.log2))
    ports := s.ports.map (fun p => (p.1, { p.2 with
      ctl := p.2.ctl.filter (fun c => !(c.inst == i && s.pwr.step != 4 && translated c.owner && inRange a log2 c.va)) }))
    walks := s.walks.map (fun k =>
      if k.inst = i then (if k.busy then { k with again := true } else { k with level2 := none }) else k)
    walked := s.walked.filter (fun k => !s.ctxOf i k.ctx) }

/-- CC_INV is written (R335): SCOPE, INST and ADDR are taken while GO is 0, and GO starts the invalidation, in low power once RUN
is reached (R477). -/
def State.ccInvalidate (s : State) (v : Word) : State :=
  let s := s.noteWrite 0x808 v
  if s.glb.ccGo then s
  else
    let s := { s with glb := { s.glb with
      ccInv := v &&& (mask 59 58 ||| mask 57 48 ||| mask 38 12), ccGo := bit v 63, ccAt := s.age, ccFrags := [] } }
    if bit v 63 then s.steer .invalidate State.ccStart else s

/-- CC_INV_DONE (R336): every access that used a translation in the range has ended. GO written on this bus clock starts the
invalidation again (R22). -/
def doCcDone (s : State) : State :=
  let (i, a, log2) := invRange s.glb.ccInv
  let old := fun (inst at_ va : Nat) (o : Owner) => inst == i && at_ ≤ s.glb.ccAt && translated o && inRange a log2 va
  let used := s.frags.any (fun f => s.glb.ccFrags.contains f.id) ||
    s.ports.any (fun p => p.2.rd.any (fun r => old r.inst r.at_ r.addr r.owner) ||
      p.2.wr.any (fun w => !w.stuck && old w.inst w.at_ w.addr w.owner)) ||
    s.fabs.any (fun p => p.2.slots.any (fun l => old l.inst l.sent l.addr l.owner))
  if s.up && s.pwr.clocked && s.glb.ccGo && !used then
    let s' := { s with glb := { s.glb with ccGo := false, ccAt := 0, ccFrags := [] } }
    if (s.goAgain 0x808).isSome then s'.ccStart else s'
  else s

/-- CC_INV_DONE (R336). -/
def execCcInvDone (s : State) : Result := .next (doCcDone s)

end Sys2Proof.Machine
end

