-- ==== Sys2Proof/Machine/Fault.lean ====
section
/-! DEFINITION. The fault collector: detections, classes and their actions, the record, notices, the alarm, injection and
scrubbing (11). -/

namespace Sys2Proof.Machine

open Sys2Proof

/-! ### Effective classes (R408, R409, R412) -/

/-- The SRAM structure of a source of kind WORD: 0 context, 1 chart cache, 2 ledger, 3 Purser SRAM (R413, R425). -/
def srcStruct (k : Nat) : Nat :=
  if k ≤ 37 then 0 else if k ≤ 39 then 1 else if k ≤ 41 then 2 else 3

/-- The kind of a detection has a halt target (R409). -/
def hasTarget (d : Detection) : Bool :=
  match d.attr.kind with
  | 1 => true
  | 2 => true
  | 3 => true
  | 4 => true
  | 7 => srcStruct d.source == 0 || srcStruct d.source == 3
  | _ => false

/-- The effective class of a detection; `inj` says that it is injected only (R412). -/
def State.effClass (s : State) (d : Detection) (inj : Bool) : Nat :=
  let sev := if srcFixed d.source then 5 else (s.src d.source).sev
  let c := if inj then min sev (fld s.glb.injCtl 22 20) else sev
  let c := if c = 2 ∧ (d.attr.inst.isNone ∨ d.attr.inst = some 0) then 3 else c
  if c = 3 ∧ !hasTarget d then 4 else c

/-! ### Actions (R408, R409, R419, R445, R447) -/

/-- A context word that the scrubber has found and no queue or channel owns: there is no unit to act on (R409). -/
def unowned (d : Detection) : Bool := d.attr.kind == 7 && bit d.detail 61 && d.attr.inst.isNone

/-- The Stopped action on the halt target (R409); a queue or channel of an instance in its reset sequence stays as it is (R351,
R502). -/
def State.stopUnit (s : State) (d : Detection) : State :=
  let ch := fun n : Nat => if n < 512 && !s.inReset (s.chan n).owner then s.chStop (Fin.ofNat 512 n) else s
  match d.attr.kind with
  | 1 => s.haltEngine d.attr.unit
  | 2 => s.writeEnable d.attr.unit false
  | 3 => ch d.attr.unit
  | 4 => s.haltPurser
  | 7 =>
    if srcStruct d.source = 3 then s.haltPurser
    else if srcStruct d.source ≠ 0 || unowned d then s
    else if bit d.detail 60 then ch d.attr.unit
    else s.writeEnable d.attr.unit false
  | _ => s

/-- The action of an effective class (R408); an isolated block takes no action but that of Lockdown (R419). -/
def State.act (s : State) (d : Detection) (cls : Nat) : State :=
  if cls = 5 then { s.haltPurser with pwr := { s.pwr with lockdown := true } }
  else if s.isolated then s
  else
    match cls with
    | 2 => match d.attr.inst with | some i => s.contain i | none => s
    | 3 => s.stopUnit d
    | 4 => { s.haltPurser with pwr := { s.pwr with fatal := true } }
    | _ => s

/-! ### The fault view (R322) -/

/-- FV_LAST with CONTAINED as it is now. -/
def State.fvLast (s : State) (i : Nat) : Word := setFld (s.inst i).fvLast 0 0 (b2n (s.isContained i))

/-- The counts of instance i's fault view that a fault falls under (R322). WR_LATE, DROPPED, the malformed entry of a strict queue
and a failed read of a fragment are counted where they arise; a strict halt repeats the failed translation of its poll. DATA_XLATE
and LK_XLATE fall under XLATE when they are injected too (R437). -/
def State.viewCount (s : State) (i : Nat) (d : Detection) : State :=
  let s := if (d.xcause.isSome && d.source != 25) || d.source == 14 || d.source == 22 then s.fvCount i 1 63 48 else s
  match d.source with
  | 3 => s.fvCount i 0 63 48
  | 4 => s.fvCount i 0 47 32
  | 5 => s.fvCount i 0 31 16
  | 8 => s.fvCount i 1 47 32
  | 24 => s.fvCount i 1 15 0
  | 27 => if fld d.detail 31 24 = 0x18 ∧ d.xcause.isNone then s.fvCount i 1 47 32 else s
  | 32 => if d.xcause.isNone then s.fvCount i 1 47 32 else s
  | 33 => s.fvCount i 1 47 32
  | _ => s

/-- The fault view of the attributed instance, if it exists (R322, R418). -/
def State.view (s : State) (d : Detection) (cls : Nat) : State :=
  match d.attr.inst with
  | none => s
  | some i =>
    if !s.exists_ i then s
    else (s.viewCount i d).updInst i (fun x =>
      { x with fvLast := pack [(63, 48, s.bell.glass), (47, 40, d.source), (39, 37, cls),
          (36, 35, d.xcause.getD 0)] })

/-! ### The record (R420 to R427) -/

/-- A detection as the collector reports it. -/
structure Report where
  d    : Detection
  cls  : Nat
  inj  : Bool
  real : Bool
  deriving DecidableEq, Repr

/-- FREC_STAT (R423). -/
def Collector.stat (c : Collector) : Word :=
  pack [(63, 63, b2n c.open_), (62, 60, c.cls), (59, 57, c.fcls), (56, 56, b2n c.inj), (55, 55, b2n c.real),
    (54, 54, b2n c.minj), (47, 40, c.source), (31, 16, c.merged), (15, 0, c.glass)]

/-- FREC_ATTR (R424). -/
def State.attrWord (s : State) (a : Attr) : Word :=
  let i := a.inst.getD 0
  pack [(63, 63, b2n a.inst.isSome), (57, 48, i), (47, 45, a.kind), (44, 31, a.unit),
    (15, 0, if a.inst.isSome then (s.inst i).gen else 0)]

/-- A fault notice of instance i (R431). -/
def State.notice (s : State) (i code : Nat) (load : List Byte) : State := s.post i (s.record code 0 load (i % 8))

/-- A detection opens the record (R421). -/
def State.openRecord (s : State) (r : Report) : State :=
  let a := s.attrWord r.d.attr
  let c := s.flt
  { s with flt := { c with
      open_ := true, source := r.d.source, fcls := r.cls, cls := r.cls, inj := r.inj, real := r.real
      glass := s.bell.glass % 65536, merged := 0, minj := false, sec0 := 0, sec1 := 0, attr := a
      detail := if r.real then r.d.detail else 0
      records := if (s.written 0x4830).isSome then c.records else satAdd 32 c.records 1 } }

/-- A detection is merged into the open record (R422). -/
def Collector.mergeRec (c : Collector) (r : Report) : Collector :=
  let k := r.d.source
  let m := BitVec.ofNat 64 (2 ^ (k % 64))
  { c with
    merged := satAdd 16 c.merged 1
    sec0 := if k < 64 then c.sec0 ||| m else c.sec0
    sec1 := if k < 64 then c.sec1 else c.sec1 ||| m
    cls := max c.cls r.cls, minj := c.minj || r.inj }

/-- What the collector has still to tell: notices in the order of R431. -/
structure Notice where
  code : Nat
  inst : Nat
  load : List Byte
  deriving DecidableEq, Repr

/-- A detection reaches an open record; F_ESC if its class rises (R431). -/
def State.mergeOne (s : State) (r : Report) : State × List Notice :=
  let c := s.flt.mergeRec r
  ({ s with flt := c },
    if s.flt.cls < c.cls then [{ code := 0x31, inst := 0, load := leBytes 8 c.stat.toNat ++ leBytes 1 r.d.source }] else [])

/-- Several detections merged in order of their source numbers. -/
def State.mergeAll (s : State) : List Report → State × List Notice
  | [] => (s, [])
  | r :: rest =>
    let (s, n) := s.mergeOne r
    let (s, ns) := s.mergeAll rest
    (s, n ++ ns)

/-- The detections of one bus clock that reach the record (R420, R421). -/
def State.toRecord (s : State) (rs : List Report) : State × List Notice :=
  let rs := rs.filter (fun r => s.flt.minclass ≤ r.cls)
  if s.flt.open_ then s.mergeAll rs
  else
    match minBy (fun r => 8 - r.cls) rs with
    | none => (s, [])
    | some r =>
      let s := s.openRecord r
      let (s', ns) := s.mergeAll (dropFirst (fun x => x == r) rs)
      (s', { code := 0x30, inst := 0
             load := leBytes 8 s.flt.stat.toNat ++ leBytes 8 s.flt.attr.toNat ++ leBytes 8 s.flt.detail.toNat } :: ns)

/-! ### One bus clock of detections (R411, R417 to R419, R437 to R439) -/

/-- The attribution of an injected detection (R437). -/
def State.injAttr (s : State) (k : Nat) : Attr :=
  let a := s.glb.injAttr
  let i := fld a 57 48
  let inst := if bit a 63 && s.exists_ i then some i else none
  if fld a 47 45 = srcKind k then { kind := srcKind k, unit := fld a 44 31, inst } else { kind := 0, unit := 0, inst }

/-- The injected detection of a source. -/
def State.injected (s : State) (k : Nat) : Detection :=
  { source := k, attr := s.injAttr k, detail := 0, xcause := none, present := true }

/-- The source injected on this bus clock: an event source by GO, held back until RUN (R436, R509). -/
def State.injEvent (s : State) : Option Nat :=
  if s.glb.injGo && !s.clk.ending && (s.pwr.phase == .run || s.pwr.phase == .entering) then some (fld s.glb.injCtl 14 8) else none

/-- The level source whose injected condition is present (R436, R438); requested in low power, it begins at RUN (R509). -/
def State.injHeld (s : State) : Option Nat :=
  let k := fld s.glb.injCtl 14 8
  if bit s.glb.injCtl 1 && srcLevel k &&
      ((!s.clk.ending && (s.pwr.phase == .run || s.pwr.phase == .entering)) || (s.src k).live) then some k
  else none

/-- Event sources whose condition the bell, the timers, the sensors or the register port find on a bus clock and not on a core clock
edge (R411). -/
def srcBus (k : Nat) : Bool := k ≤ 2 || k == 6 || k == 7 || k == 67 || k == 71 || k == 74 || k == 75 || k == 77

/-- The condition is detected now (R411): at the end of a bus clock those of the bus clock itself, and before it all that wait but a
CAP_OVR, which a read of CAP_VAL on the same bus clock still takes back (R460). -/
def State.detectsNow (s : State) (d : Detection) : Bool := if s.clk.ending then srcBus d.source else d.source != 77

/-- Units at which a level condition holds after changes in order. -/
def levelUnits (us : List Nat) (ds : List Detection) : List Nat :=
  ds.foldl (fun us d => if d.present then (if us.contains d.attr.unit then us else us ++ [d.attr.unit])
    else us.filter (fun u => u != d.attr.unit)) us

/-- Order of attributions (R411): kind, unit, instance. -/
def Attr.key (a : Attr) : Nat := (a.kind * 2 ^ 14 + a.unit) * 2 ^ 11 + (match a.inst with | some i => i | none => 2047)

/-- Real conditions of a source on this bus clock, and whether an injected one coincides. -/
structure Find where
  source : Nat
  reals  : List Detection
  inj    : Bool
  deriving DecidableEq, Repr

/-- What source k brings on this bus clock (R411, R417). -/
def State.findOf (s : State) (ds : List Detection) (k : Nat) : Option Find :=
  let mine := ds.filter (fun d => d.source == k && d.present)
  if srcLevel k then
    let held := s.injHeld == some k
    if (s.src k).live || (mine.isEmpty && !held) then none else some { source := k, reals := mine, inj := held }
  else
    let inj := s.injEvent == some k
    if mine.isEmpty && !inj then none else some { source := k, reals := mine, inj }

/-- The level conditions and GO after this bus clock; GO written on it stays (R22). The end of a bus clock leaves both. -/
def State.afterClock (s : State) (ds : List Detection) : State :=
  let ks := if s.clk.ending then [] else (List.range 80).filter (fun k => srcLevel k && ((s.src k).live || s.injHeld == some k || ds.any (fun d => d.source == k)))
  let s := ks.foldl (fun s k => s.updSrc k (fun x =>
    let us := levelUnits x.units (ds.filter (fun d => d.source == k))
    { x with units := us, live := !us.isEmpty || s.injHeld == some k })) s
  { s with
    flt := { s.flt with waiting := s.flt.waiting.filter (fun d => !s.detectsNow d) }
    clk := { s.clk with ending := false }
    glb := { s.glb with injGo := s.glb.injGo && (s.injEvent.isNone || ((s.written 0x400100).filter (fun v => bit v 0)).isSome) } }

/-- The report of a source's detection (R411, R439). -/
def State.reportOf (s : State) (f : Find) : Report :=
  match minBy (fun d => Attr.key d.attr) f.reals with
  | some d => { d, cls := s.effClass d false, inj := f.inj, real := true }
  | none =>
    let d := s.injected f.source
    { d, cls := s.effClass d true, inj := true, real := false }

/-- The conditions of a source with the class each takes (R411, R439). -/
def State.parts (s : State) (f : Find) : List (Detection × Nat) :=
  if f.reals.isEmpty then
    let d := s.injected f.source
    [(d, s.effClass d true)]
  else f.reals.map (fun d => (d, s.effClass d false))

/-- The source's own registers at a detection (R414, R418), CORR and the alarm (R430, R434). -/
def State.tally (s : State) (r : Report) : State :=
  let s := (s.updSrc r.d.source (fun x => { x with
    count := satAdd 16 x.count 1, last := r.cls, latched := true, injd := r.inj && !r.real, live := true })).noteSet
      (srcOff r.d.source) 2
  let s := if r.cls = 1 then s.unlessWritten 0x4830 (fun s => { s with flt := { s.flt with corr := satAdd 32 s.flt.corr 1 } }) else s
  if s.flt.alarmMinclass ≤ r.cls then
    ({ s with flt := { s.flt with min := 128, held := true } }.noteSet 0x4848 1).wakeBy .fault
  else s

/-- The registers of a queue that lie in word part of its context, as zero (R443; the places: log entry 17). -/
def Queue.wordZero (q : Queue) (part : Nat) : Queue :=
  match part % 5 with
  | 0 => { q with base := 0, k := 0, n := 0, depth := 0 }
  | 1 => { q with head := 0, lap := false }
  | 2 => { q with done := 0, taken := 0 }
  | 3 => { q with err := {}, haltRaw := [] }
  | _ => { q with due := 0, prio := 0 }

/-- The registers of a channel that lie in word part of its context, as zero (R443; the places: log entry 17), but those that `kept`
names (R22). -/
def Chan.wordZero (x : Chan) (kept : Nat → Bool) (part : Nat) : Chan :=
  let z := fun (r : Nat) (f : Chan → Chan) (x : Chan) => if kept r then x else f x
  match part % 12 with
  | 0 => z 0x40 (fun x => { x with src := 0 }) x
  | 1 => z 0x48 (fun x => { x with dst := 0 }) x
  | 2 => z 0x50 (fun x => { x with remain := 0 }) (z 0x58 (fun x => { x with cfg := 0 }) x)
  | 3 => z 0x60 (fun x => { x with next := 0 }) x
  | 4 => z 0x80 (fun x => { x with shSrc := 0 }) x
  | 5 => z 0x88 (fun x => { x with shDst := 0 }) x
  | 6 => z 0x90 (fun x => { x with shLen := 0 }) (z 0x98 (fun x => { x with shCfg := 0 }) x)
  | 7 => z 0xA0 (fun x => { x with shNext := 0 }) { x with shValid := false }
  | 8 => z 0x18 (fun x => { x with high := 0, low := 0 }) x
  | 9 => z 0x20 (fun x => { x with limit := 0 }) { x with count := 0 }
  | 10 => { x with errinfo := 0, err := 0, endc := 0 }
  | _ => z 0xC8 (fun x => { x with xfers := 0, bursts := 0 }) x

/-- A repair that the block makes whatever the class (R443): an uncorrectable word of the context SRAM becomes zero, and one of the
chart cache invalidates its entry (the place of registers and the order of entries: log entry 17). -/
def State.repair (s : State) (d : Detection) : State :=
  let part := Config.contextPart (fld d.detail 47 16)
  if d.source = 39 then { s with cc := s.cc.eraseIdx (fld d.detail 47 16 / 2) }
  else if d.source ≠ 37 || unowned d then s
  else if !bit d.detail 60 then s.updQueue d.attr.unit (fun q => q.wordZero part)
  else if d.attr.unit < 512 then s.updChan d.attr.unit (fun x => x.wordZero (s.chKept d.attr.unit) part)
  else s

/-- F_CONTAIN for an instance that this condition put into CONTAINING (R348, R431). -/
def containNotice (before after : State) (d : Detection) : List Notice :=
  match d.attr.inst with
  | none => []
  | some i =>
    if !before.isContained i && after.isContained i then
      let load := leBytes 2 i ++ leBytes 1 d.source ++ leBytes 1 d.attr.kind ++ leBytes 2 d.attr.unit ++ leBytes 2 0 ++
        leBytes 8 d.detail.toNat
      [{ code := 0x32, inst := i, load }, { code := 0x32, inst := 0, load }]
    else []

/-- The fault views of the conditions of one bus clock: every count, and FV_LAST for the last of each instance, a failed translation
behind the others (R330). DESIGN CHOICE (log 79): of several the one with the highest source number stays in FV_LAST. -/
def State.viewAll (s : State) (ps : List (Detection × Nat × Bool)) : State :=
  let x := fun p : Detection × Nat × Bool => p.1.xcause.isSome
  (ps.filter (fun p => !x p) ++ ps.filter x).foldl (fun s p => s.view p.1 p.2.1) s

/-- The repairs and actions of the conditions in order, with the notices of containments. -/
def State.actAll (s : State) : List (Detection × Nat × Bool) → State × List Notice
  | [] => (s, [])
  | (d, cls, real) :: rest =>
    let s1 := if real then s.repair d else s
    let s2 := s1.act d cls
    let n := containNotice s1 s2 d
    let (s3, ns) := s2.actAll rest
    (s3, n ++ ns)

/-- F_VIEW for the instances whose FV_LAST has changed since a state (R431). -/
def State.viewNotices (s : State) (before : State) : State :=
  let is := (s.insts.filter (fun p => p.2.fvLast != (before.inst p.1).fvLast && p.2.fview != some s.bell.glass)).map (·.1)
  is.foldl (fun s i => (s.updInst i (fun x => { x with fview := some s.bell.glass })).notice i 0x33
    (leBytes 8 (s.fvLast i).toNat)) s

/-- The collector runs: from the start of MEMINIT (R489), and with step FUSE for the mismatch that ends it there (R488). -/
def State.collects (s : State) : Bool := s.isPresent && (s.pwr.step != 1 || s.flt.waiting.any (fun d => d.source == 76))

/-- One bus clock of the collector over the conditions given and those that wait (R411, R418). -/
def State.detect (s : State) (found : List Detection) : State :=
  if !s.collects then s
  else
    let ds := s.flt.waiting.filter s.detectsNow ++ found
    let fs := (List.range 80).filterMap (s.findOf ds)
    let rs := fs.map s.reportOf
    let ps := fs.flatMap (fun f => (s.parts f).map (fun p => (p.1, p.2, !f.reals.isEmpty)))
    let s0 := s.afterClock ds
    let s1 := rs.foldl State.tally s0
    let (s2, n1) := s1.toRecord rs
    let (s3, n2) := (s2.viewAll ps).actAll ps
    let s4 := (n1 ++ n2).foldl (fun s n => s.notice n.inst n.code n.load) s3
    s4.viewNotices s

/-- FAULT_DETECTION (R411): one detection bus clock. -/
def execFaultDetection (found : List Detection) (s : State) : Result := .next (s.detect found)

/-- A stall is found or has ended (R413): the wait for it does not count in a freeze, so none is found in one (R504). -/
def State.stall (s : State) (source kind unit : Nat) (present : Bool) : State :=
  if s.isPresent && !(present && s.frozen) then s.level source kind unit present else s

/-- MP_STALL (R413): a request or write beat of memory port c waits for READY, or is taken. -/
def execMpStall (c : Fin 8) (present : Bool) (s : State) : Result := .next (s.stall 19 6 c.val present)

/-- FP_TX_STALL (R413). -/
def execFpTxStall (f : Fin 4) (present : Bool) (s : State) : Result := .next (s.stall 58 5 f.val present)

/-! ### Closing the record, the alarm (R428, R434) -/

/-- A write of FREC_CTL.CLOSE (R428). -/
def State.closeRecord (s : State) : State :=
  if s.flt.open_ && s.flt.merged == s.flt.seen then { s with flt := { s.flt with open_ := false } } else s

/-- ALARM_MIN_EXPIRY (R434): the last bus clock of the minimum low time. -/
def execAlarmMinExpiry (s : State) : Result :=
  .next (if s.flt.min = 1 then { s with flt := { s.flt with min := 0 } } else s)

/-- TT_ALARM_N is low (R434). -/
def State.alarm (s : State) : Bool := s.flt.min != 0 || s.flt.held || s.flt.force || s.pwr.lockdown

/-! ### Scrubbing (R440 to R444) -/

/-- Words of each SRAM structure (R440). -/
def sramWords : Sram → Nat
  | .context => 81920
  | .chartCache => 16384
  | .ledger => 16384
  | .purser => 32768

/-- Number of a structure in DETAIL (R425). -/
def sramNo : Sram → Nat
  | .context => 0
  | .chartCache => 1
  | .ledger => 2
  | .purser => 3

/-- The detection of an SRAM error (R413, R425). A context word that no queue or channel owns has UNIT 0 (R409). -/
def State.sramFind (s : State) (f : ScrubFind) (word : Nat) : Detection :=
  let k := sramNo f.sram
  let source := 36 + 2 * k + b2n (!f.single)
  let attr : Attr := match f.sram with
    | .context =>
      match f.owner with
      | some u => { kind := 7, unit := u
                    inst := if f.chan then some (s.chan u).owner else (s.queue? u).map (·.inst) }
      | none => { kind := 7, unit := 0, inst := none }
    | .chartCache => { kind := 7, unit := 0, inst := (s.cc[word / 2]?).map (·.inst) }
    | _ => { kind := 7, unit := 0, inst := none }
  { source, attr, xcause := none, present := true
    detail := pack [(63, 62, k), (61, 61, 1), (60, 60, b2n (f.chan && f.sram == .context)), (47, 16, word),
      (7, 0, f.syndrome.toNat)] }

/-- One error that the scrubber finds is raised and counted if it is repaired (R443, R444). -/
def State.scrubFound (s : State) (f : ScrubFind) : State :=
  let word := nth s.flt.words (sramNo f.sram)
  let d := s.sramFind f word
  let fix := f.single || f.sram == .context || f.sram == .chartCache
  { s with flt := { s.flt with
      waiting := s.flt.waiting ++ [d], fixes := if fix then satAdd 16 s.flt.fixes 1 else s.flt.fixes } }

/-- The next word of each structure (R440). -/
def nextWords (ws : List Nat) : List Nat :=
  [(nth ws 0 + 1) % 81920, (nth ws 1 + 1) % 16384, (nth ws 2 + 1) % 16384, (nth ws 3 + 1) % 32768]

/-- SCRUB_STEP (R441): after a bell, one word of each SRAM structure is read; at most one error is found in each. -/
def doScrub (found : List ScrubFind) (s : State) : State :=
  if !s.isPresent || !s.pwr.clocked || s.frozen || !s.flt.due then s
  else
    let one := fun k : Sram => (found.find? (fun f => f.sram == k)).toList
    let s := (one .context ++ one .chartCache ++ one .ledger ++ one .purser).foldl State.scrubFound s
    { s with flt := { s.flt with due := false, words := nextWords s.flt.words } }

/-- SCRUB_STEP (R441). -/
def execScrubStep (found : List ScrubFind) (s : State) : Result := .next (doScrub found s)

/-- HOLD_SCRUB (R442): the scrub of the bank whose turn it is ends. A bank assigned meanwhile is left. -/
def doHoldScrub (parityError : Bool) (s : State) : State :=
  if !s.isPresent || !s.pwr.clocked || s.frozen || !s.flt.scrubOn then s
  else
    let k := s.flt.bank
    let s := { s with flt := { s.flt with scrubOn := false, bankDone := true } }
    if s.bankMode (k / 2) (k % 2) ≠ 0 then s
    else
      let inB := fun c : Host.Cell => k * 65536 ≤ c.1 && c.1 < (k + 1) * 65536
      let s := { s with hold := s.hold.filter (fun c => !inB c) }
      if parityError then
        { s with flt := { s.flt with fixes := satAdd 16 s.flt.fixes 1 } }.raise 15 1 (k / 2) none
      else s

/-- HOLD_SCRUB (R442). -/
def execHoldScrub (parityError : Bool) (s : State) : Result := .next (doHoldScrub parityError s)

/-- The bank whose turn is over: it is passed over if no scrub of it has begun (R442). -/
def Collector.nextBank (c : Collector) : Collector :=
  let wrap := c.bank == 255
  { c with
    turn := 0, bankDone := false, scrubOn := false, bank := (c.bank + 1) % 256
    skipped := if wrap then 0 else if c.bankDone || c.scrubOn then c.skipped else c.skipped + 1
    passes := if wrap then (c.passes + 1) % 65536 else c.passes }

/-- A bell that rings (R440, R442): the turn of a bank lasts 4,096 of them, a scrub begins at one that finds it EMPTY, and
one word of each SRAM is due. -/
def State.scrubBell (s : State) : State :=
  let c := if 4096 ≤ s.flt.turn then s.flt.nextBank else s.flt
  let empty := s.bankMode (c.bank / 2) (c.bank % 2) == 0
  { s with flt := { c with turn := c.turn + 1, scrubOn := c.scrubOn || (!c.bankDone && empty), due := true } }

end Sys2Proof.Machine
end

