-- ==== Sys2Proof/Machine/Purser.lean ====
section
/-! DEFINITION. The Purser: mailboxes, the start of commands, the ledger's checks, refusals and completions (R286 to
R301). -/

namespace Sys2Proof.Machine

open Sys2Proof

/-! ### Operands (R297, R304) -/

/-- Fields of a command's 64 B (R297). -/
def cInst (raw : List Byte) : Nat := at_ raw 8 2
def cObj (raw : List Byte) : Nat := at_ raw 10 2
def cOp (raw : List Byte) : Nat := at_ raw 12 1
def cK (raw : List Byte) : Nat := at_ raw 13 1
def cN (raw : List Byte) : Nat := at_ raw 14 1
def cD (raw : List Byte) : Nat := at_ raw 15 1
def cAddr (raw : List Byte) : Nat := at_ raw 16 8
def cAddr2 (raw : List Byte) : Nat := at_ raw 24 8
def cRhead (raw : List Byte) : Nat := at_ raw 32 2
def cClu (raw : List Byte) : Nat := at_ raw 34 1
def cQf (raw : List Byte) : Nat := at_ raw 35 1
def cLen (raw : List Byte) : Nat := at_ raw 36 4

/-- The Exec bound of a command in µs (R306 to R314). -/
def execBound (raw : List Byte) : Nat :=
  if opcode raw ∈ [0x80, 0x81, 0x85, 0xF0] then 8
  else if opcode raw = 0xA0 then (if (cOp raw).testBit 0 then 4 else 64)
  else 4

/-! ### Completions (R289, R298) -/

/-- The header word of a command's completion. -/
def State.cmdHeader (s : State) (src : CmdSrc) (raw : List Byte) (status : Nat) : List Byte :=
  let (gen, lap) := match src with
    | .mailbox _ => ((s.inst 0).gen, false)
    | .queue seq =>
      match (s.queue? 0).bind (fun q => q.entry? seq) with
      | some e => (e.gen, e.lap)
      | none => ((s.inst 0).gen, false)
  leBytes 8 (pack [(63, 48, gen), (47, 32, hfld raw 47 32), (23, 16, status), (15, 8, opcode raw), (1, 1, b2n lap)]).toNat

/-- The place a refusal is located at (R300): a SCOPE and INDEX, INDEX 0 of no stated SCOPE, or none stated. -/
inductive Place where
  | at_ (scope index : Nat)
  | index0
  | open_
  deriving DecidableEq, Repr

/-- A refusal: its result code, place, excess, and for a plan record the value of RET bytes 32–33 (R298 to R300). -/
structure Refuse where
  code   : Nat
  place  : Place
  excess : Nat := 0
  recNo  : Nat := 0
  deriving DecidableEq, Repr

/-- DETAIL of a refusal (R298, R300). -/
def Refuse.detail (s : State) (r : Refuse) : Nat :=
  match r.place with
  | .at_ scope i => scope * 4096 + i % 4096
  | .index0 => (Config.refusalDetail s.now s.pur.cmds r.code).toNat / 4096 * 4096
  | .open_ => (Config.refusalDetail s.now s.pur.cmds r.code).toNat

/-- Order of the checks (R299, R300): the table's order, then the lowest SCOPE, then the lowest INDEX. -/
def Refuse.key (r : Refuse) : Nat :=
  let rank := match r.code with | 3 => 0 | 4 => 1 | 1 => 2 | 2 => 3 | c => c
  let place := match r.place with | .at_ s i => s * 4096 + i | _ => 0
  rank * 65536 + place

/-- The refusal reported of several. -/
def firstOf (rs : List Refuse) : Option Refuse := minBy Refuse.key rs

/-- A refusal if a condition fails. -/
def need (ok : Bool) (code : Nat) (place : Place) (excess : Nat := 0) (recNo : Nat := 0) : List Refuse :=
  if ok then [] else [{ code, place, excess, recNo }]

/-- The 64 B of a completion with STATUS 0 (R298). -/
def State.doneBytes (s : State) (src : CmdSrc) (raw : List Byte) (result detail excess effect : Nat) (ret : List Byte) :
    List Byte :=
  s.cmdHeader src raw 0 ++ leBytes 2 result ++ leBytes 2 detail ++ leBytes 4 excess ++ leBytes 8 effect ++
    leBytes 8 s.bell.glass ++ ret ++ zeros (32 - ret.length)

/-- A completion is issued: the mailbox takes it, or the entry's overwrite becomes due (R288, R298). -/
def State.answer (s : State) (src : CmdSrc) (bytes : List Byte) : State :=
  match src with
  | .mailbox m => (s.updMb m (fun b => { b with rsp := bytes, busy := false, done := true })).noteSet (mbStatOff m) 2
  | .queue seq => s.updEntry 0 seq (fun e => { e with rsp := some bytes })

/-- A command reaches its acceptance bus clock (R280, R293). -/
def State.accepts (s : State) : State := { s with pur := { s.pur with cmds := (s.pur.cmds + 1) % 2 ^ 32, accAt := some s.now } }

/-- A command ends its execution step (R294). -/
def State.curEnds (s : State) : State := { s with pur := { s.pur with cur := none } }

/-- A command ends its execution step with its acceptance bus clock (R280, R293, R294). -/
def State.stepEnds (s : State) : State := s.accepts.curEnds

/-- An accepted immediate command completes with DONE (R294). -/
def State.done (s : State) (c : Cmd) (effect : Nat) (ret : List Byte) : State :=
  s.stepEnds.answer c.src (s.doneBytes c.src c.raw 0 0 0 effect ret)

/-- A refused command completes without effect (R298). -/
def State.refuse (s : State) (c : Cmd) (r : Refuse) : State :=
  s.stepEnds.answer c.src (s.doneBytes c.src c.raw r.code (r.detail s) r.excess 0 (leBytes 2 r.recNo))

/-- An accepted deferred command waits for its condition (R294). -/
def State.deferCmd (s : State) (c : Cmd) (inst : Nat) (lines : List (Nat × Nat × Nat) := []) : State :=
  let s := s.stepEnds
  { s with pur := { s.pur with defer := s.pur.defer ++ [{ src := c.src, raw := c.raw, inst, at_ := s.bell.glass, lines }] } }

/-- The first failing check refuses the command; without one it is accepted. -/
def State.checked (s : State) (c : Cmd) (rs : List Refuse) (go : State) : State :=
  match firstOf rs with
  | some r => s.refuse c r
  | none => go

/-! ### Memory accesses of the Purser (R296) -/

/-- DETAIL of a fault of the Purser with a command (R425). -/
def State.purDetail (s : State) (op : Nat) : Word := pack [(39, 32, op), (17, 0, (Config.firmwarePc s.now).toNat)]

/-- An access of the Purser fails: PUR_MEM_ERR (R296, R413). -/
def State.purMemErr (s : State) (c : Cmd) : State := s.raise 47 4 0 none (s.purDetail (opcode c.raw))

/-- The refusal of a failed access (R298): its port status, or none for a translation. -/
def memErr (s : State) (stat : Option Nat) : Refuse :=
  { code := 0x0F, place := .open_
    excess := match stat with | some st => st | none => (Config.noPortStatus s.now s.pur.cmds).toNat }

/-- PUR_MEM_ERR takes a class that halts the Purser: a halted Purser writes no completion (R285; log entry 30). -/
def State.memErrHalts (s : State) : Bool :=
  let d : Detection := { source := 47, attr := { kind := 4, unit := 0, inst := none }, detail := 0, xcause := none, present := true }
  3 ≤ s.effClass d false

/-- The Purser's access is taken note of; a request of it that is still to be issued is not made (R296). -/
def State.accEnds (s : State) : State := { s.dropPur.dropWalks .pur with pur := { s.pur with acc := none } }

/-- A command that reads n bytes at an address (R296): with its first checks passed it begins the read and waits for it; a failed
one ends it without effect, and its acceptance bus clock is that of the last check. -/
def State.purRead (s : State) (c : Cmd) (addr n : Nat) (early : List Refuse) (go : List Byte → State → State) : State :=
  match s.pur.acc with
  | none => s.checked c early (s.purBegin false addr n [])
  | some a =>
    if !a.isOver then s
    else
      match a.fail with
      | some st =>
        let s' := s.accEnds.purMemErr c
        if s.memErrHalts then s' else s'.refuse c (memErr s st)
      | none => s.accEnds.checked c early (go a.data s.accEnds)

/-- A command that writes its result at an address (R296, R314): accepted, it begins the write and completes once that is
acknowledged. -/
def State.purWrite (s : State) (c : Cmd) (addr : Nat) (early : List Refuse) (bytes : List Byte) : State :=
  match s.pur.acc with
  | none => s.checked c early (s.accepts.purBegin true addr bytes.length bytes)
  | some a =>
    if !a.isOver then s
    else
      match a.fail with
      | some st =>
        let s' := s.accEnds.purMemErr c
        let r := memErr s st
        if s.memErrHalts then s' else s'.curEnds.answer c.src (s'.doneBytes c.src c.raw r.code (r.detail s) r.excess 0 [])
      | none => s.accEnds.curEnds.answer c.src (s.doneBytes c.src c.raw 0 0 0 0 [])

/-! ### Running a command (R285, R292, R505) -/

/-- The Purser executes instructions: READY, the block up and clocked, no freeze (R285, R473, R505). -/
def State.purRuns (s : State) : Bool := s.up && s.pur.state == 3 && s.pwr.clocked && !s.frozen

/-- The command being executed, if its opcode and OP byte are those of a row. -/
def State.running (s : State) (op : Nat) (kind : Nat → Bool) : Option Cmd :=
  if s.purRuns then s.pur.cur.filter (fun c => opcode c.raw == op && kind (cOp c.raw)) else none

/-- A row of the command table acts on the command being executed, if that command is its. -/
def State.onCmd (s : State) (op : Nat) (kind : Nat → Bool) (f : Cmd → State → State) : State :=
  match s.running op kind with
  | some c => f c s
  | none => s

/-- MB_CTL is written (R286 to R288): IRQ_EN; GO submits the request while the Purser is READY and the mailbox is not
BUSY. -/
def State.mbCtl (s : State) (m : Nat) (irqEn go : Bool) : State :=
  let s := s.updMb m (fun b => { b with irqEn })
  if go && s.pur.state == 3 && !(s.mb m).busy then
    s.updMb m (fun b => { b with
      busy := true, done := false
      sub := some ((List.range 8).flatMap (fun w => leBytes 8 (tabGet 0 b.req w).toNat)) })
  else s

/-- The lowest-numbered mailbox with a request not yet started (R292). -/
def State.nextMb (s : State) : Option (Nat × List Byte) :=
  ((List.range 8).find? (fun m => (s.mb m).sub.isSome)).bind (fun m => ((s.mb m).sub).map (fun r => (m, r)))

/-- The entry of queue 0 that may be started: the earliest taken not yet started, if its fences are met and it is no
malformed one (R292, R392, R393). -/
def State.nextAdmin (s : State) : Option Entry :=
  match s.queue? 0 with
  | none => none
  | some q => (q.entries.find? (fun e => !e.started)).filter (fun e => e.bad == 0 && e.ended == 0 && q.fenceMet e)

/-- COMMAND_START (R289, R292, R475, R505). None starts on the acceptance bus clock of another, so that two never share one (R293). -/
def doCommandStart (s : State) : State :=
  if !s.purRuns || s.pur.cur.isSome || s.pur.accAt == some s.now || s.pwr.phase != .run then s
  else
    match s.nextMb with
    | some (m, raw) =>
      let s := s.updMb m (fun b => { b with sub := none })
      if opcode raw ∈ cmdOpcodes then { s with pur := { s.pur with cur := some { src := .mailbox m, raw, start := s.age } } }
      else s.answer (.mailbox m) (s.cmdHeader (.mailbox m) raw 0x40 ++ zeros 56)
    | none =>
      match s.nextAdmin with
      | none => s
      | some e =>
        let s := s.updEntry 0 e.seq (fun e => { e with started := true })
        { s with pur := { s.pur with cur := some { src := .queue e.seq, raw := e.raw, start := s.age } } }

/-- COMMAND_START (R292). -/
def execCommandStart (s : State) : Result := .next (doCommandStart s)

/-- PUR_CMD_TMO (R294): the execution step has run past its Exec bound. -/
def doCmdTmo (s : State) : State :=
  match s.pur.cur with
  | none => s
  | some c =>
    if s.up && s.pur.state == 3 && !c.late && c.start + 500 * execBound c.raw < s.age then
      { s with pur := { s.pur with cur := some { c with late := true } } }.raise 46 4 0 none (s.purDetail (opcode c.raw))
    else s

/-- PUR_CMD_TMO (R294). -/
def execPurCmdTmo (s : State) : Result := .next (doCmdTmo s)

/-- PUR_WDOG (R413): the firmware has left its watchdog unserviced. -/
def execPurWdog (s : State) : Result :=
  .next (if s.purRuns then s.raise 44 4 0 none (s.purDetail 0) else s)

/-! ### The ledger's checks (R88, R115, R218, R301, R313) -/

/-- The ledger as a command is checked against: the P of the capacities, the shares, INB, and the queues. -/
structure Books where
  p      : Nat
  shares : List (Nat × Share)
  inb    : List Nat
  queues : List (Nat × Queue)
  /-- channels bound to each instance -/
  bound  : Nat → Nat

/-- Channels bound to instance i. -/
def State.bound (s : State) (i : Nat) : Nat := (s.chans.filter (fun p => p.2.owner == i)).length

/-- The share of an instance under a plan (R312): the plan's budgets if it is listed, none otherwise. -/
def Plan.onShare (p : Plan) (i : Nat) (x : Share) : Share :=
  let r := tabGet ([], [], []) p.recs i
  { x with f := r.1, ro := r.2.1, ri := r.2.2 }

/-- P under a plan (R76). -/
def Plan.p (p : Plan) : Nat := if p.slave then p.period - p.tol else p.period

/-- The ledger as it stands. -/
def State.booksNow (s : State) : Books :=
  { p := s.bell.p, shares := (s.insts.filter (fun q => q.2.state != .absent)).map (fun q => (q.1, q.2.led))
    inb := s.gls.inbLed, queues := s.queues, bound := s.bound }

/-- The ledger as it will stand after a plan. -/
def Books.after (b : Books) (p : Plan) : Books :=
  { b with p := p.p, inb := p.inb, shares := b.shares.map (fun q => (q.1, p.onShare q.1 q.2)) }

/-- The ledger a command is checked against (R313). -/
def State.books (s : State) : Books :=
  match s.led.plan with
  | some p => s.booksNow.after p
  | none => s.booksNow

/-- A share of instance i as it will stand after a pending plan (R313). -/
def State.afterPlan (s : State) (i : Nat) (x : Share) : Share :=
  match s.led.plan with
  | some p => p.onShare i x
  | none => x

/-- The ledger with the share of one instance replaced. -/
def Books.setShare (b : Books) (i : Nat) (x : Share) : Books := { b with shares := tabSet b.shares i x }

/-- A figure of all shares summed. -/
def Books.sum (b : Books) (f : Share → Nat) : Nat := total (b.shares.map (fun q => f q.2))

/-- A count within its limit, or the refusal. -/
def limit (v max code : Nat) (place : Place) : List Refuse := need (v ≤ max) code place (v - max)

/-- Poll rate of the queues of instance i (R218). -/
def Books.rate (b : Books) (i : Nat) : Nat :=
  total ((b.queues.filter (fun q => q.2.inst == i)).map (fun q => pollRate q.2.n))

/-- Left side of the first check of R88 for cluster c. -/
def Books.firm (b : Books) (c : Nat) : Nat := b.sum (fun x => nth x.f c) + nth b.inb c + ctrlOf b.p b.queues c

/-- The quotas of instance i (R296, R301). `poll` is the code of a broken poll rate. -/
def Books.quotas (b : Books) (i poll : Nat) : List Refuse :=
  let x := tabGet {} b.shares i
  limit (b.queues.filter (fun q => q.2.inst == i)).length x.qmax 0x11 (.at_ 4 0) ++
    (if i = 0 then [] else limit (b.bound i) x.cmax 0x11 (.at_ 4 1)) ++
    limit (b.rate i) x.prate poll (.at_ 4 2) ++
    (if i = 0 then need (16 ≤ nth x.s 0) 0x11 (.at_ 4 4) (16 - nth x.s 0) else [])

/-- The block-wide checks of R301. -/
def Books.pools (b : Books) : List Refuse :=
  limit (b.sum (·.qmax)) 16384 0x12 (.at_ 5 0) ++
    limit (total ((b.shares.filter (fun q => q.1 != 0)).map (fun q => q.2.cmax))) 512 0x12 (.at_ 5 1) ++
    limit (b.sum (·.ccs)) 8192 0x12 (.at_ 5 2) ++
    limit (b.queues.filter (fun q => q.2.strict)).length 256 0x12 (.at_ 5 4) ++
    limit (b.sum (·.prate)) 257698037 0x13 (.at_ 5 3) ++
    (List.range 8).flatMap (fun c => limit (b.sum (fun x => nth x.h c)) 384 0x14 (.at_ 0 c)) ++
    (List.range 8).flatMap (fun c => limit (b.firm c) (portFirm b.p) 0x15 (.at_ 0 c) ++
      limit (ctrlOf b.p b.queues c) (portS50 b.p) 0x15 (.at_ 0 c)) ++
    limit (total ((List.range 8).map b.firm)) (blockFirm b.p) 0x15 (.at_ 1 0) ++
    (List.range 4).flatMap (fun f => limit (b.sum (fun x => nth x.ro f)) (fabFirm b.p) 0x15 (.at_ 2 f) ++
      limit (b.sum (fun x => nth x.ri f)) (fabFirm b.p) 0x15 (.at_ 3 f))

/-- Every check of R301 with those of one instance. -/
def Books.checks (b : Books) (i poll : Nat) : List Refuse := b.quotas i poll ++ b.pools

/-! ### Checks that many commands share (R295, R299, R305) -/

/-- An address operand: the block's own node and an alignment (R305). -/
def State.addrOk (s : State) (a align index : Nat) : List Refuse :=
  need (nodeOf a == s.node && localOf a % align == 0) 2 (.at_ 6 index)

/-- INST names an existing instance with no deferred command running (R295, R299); `self` says that instance 0 is
refused with SELF. DESIGN CHOICE (log 18): a refusal for what INST or OBJ names is located at the field's byte, 8 or 10. -/
def State.instOk (s : State) (raw : List Byte) (self busy : Bool) : List Refuse :=
  let i := cInst raw
  need (!(self && i == 0)) 4 (.at_ 6 8) ++ need (i < 1024) 1 (.at_ 6 8) ++
    (if i < 1024 then need (s.exists_ i) 5 (.at_ 6 8) else []) ++
    need (!(busy && s.pur.defer.any (fun d => d.inst == i))) 8 (.at_ 6 8)

/-- The instance is neither contained nor in reset. -/
def State.instSound (s : State) (i : Nat) : List Refuse := need (!s.isContained i && !s.inReset i) 7 (.at_ 6 8)

/-- OBJ names an existing queue of INST. -/
def State.queueOk (s : State) (raw : List Byte) : List Refuse :=
  need (cObj raw < 1024) 1 (.at_ 6 10) ++
    (if s.exists_ (cInst raw) && cInst raw < 1024 then need (s.localQueue (cInst raw) (cObj raw)).isSome 9 (.at_ 6 10) else [])

end Sys2Proof.Machine
end

