-- ==== Sys2Proof/Machine/Bell.lean ====
section
/-! DEFINITION. The bell: what happens as it rings, and the edges of a slaved bell (R65 to R108). -/

namespace Sys2Proof.Machine

open Sys2Proof

/-! ### Shortfalls (R92) -/

/-- The fragments of an entry that are not assigned, as far as the block knows them, in order: n at most. -/
def fragsLeft (q : Queue) (g : Nat) : Nat → Entry → List Frag
  | 0, _ => []
  | n + 1, e =>
    if e.assignDone then []
    else
      match nextFrag q g e with
      | none => []
      | some (f, e') => f :: fragsLeft q g n e'

/-- The most fragments of an entry that the block can know: those of the command, or of the pieces of records read (R260). -/
def Entry.most (e : Entry) : Nat :=
  if opcode e.raw = 5 then e.mSrc.pieces.length + e.mDst.pieces.length else fragCount e.raw

/-- The fragments of a context that are ready and not assigned (R92): those of every entry fetched that no fence or barrier holds
back, and the bursts left of an active channel, which are of two lengths. ENTERING holds them back (R475). -/
def State.readyLeft (s : State) (x : Context) : List Frag :=
  if s.pwr.phase != .run then []
  else
    match x with
    | .chan n =>
      if s.chanReady n then
        let c := s.chan n
        let b := cfgBurst c.cfg
        let last := { c with asgd := c.asgd + (c.len0 - c.asgd - 1) / b * b }
        [nextBurst c n (s.inst c.owner).gen, nextBurst last n (s.inst c.owner).gen]
      else []
    | .queue g =>
      match s.queue? g with
      | none => []
      | some q =>
        if s.queueReady q then (q.entries.filter (fun e => e.moves && q.fenceMet e)).flatMap (fun e => fragsLeft q g e.most e) else []

/-- The fragments of a context that are ready and not admitted (R92): assigned ones that nothing halts, and those not assigned. -/
def State.unadmitted (s : State) (x : Context) : List Frag :=
  (s.frags.filter (fun f => f.ctx == x && f.phase == .assigned && !f.dead && !f.halted && s.active f.inst)) ++ s.readyLeft x

/-- The work a fragment belongs to: its context and entry. An entry is known whole once it is fetched, a transfer once it is active. -/
def Frag.mark (f : Frag) : Nat × Nat := (f.ctx.order, f.entry)

/-- Every context. -/
def State.allContexts (s : State) : List Context :=
  s.chans.map (fun p => .chan p.1) ++ s.queues.map (fun p => .queue p.1)

/-- Firm work ready and not admitted. -/
def State.firmReady (s : State) : List Frag := (s.allContexts.filter s.ctxFirm).flatMap s.unadmitted

/-- The marks of firm work ready and not admitted, each once. -/
def State.readyMarks (s : State) : List (Nat × Nat) := (s.firmReady.map Frag.mark).eraseDups

/-- The work ready since before the cut-off: that noted since it came, or all that is ready if the glass ends with none (CUT 0, or a
bell that rings early). -/
def State.readyBefore (s : State) : List (Nat × Nat) := if s.gls.cutOff then s.gls.ready else s.readyMarks

/-- A bus clock of the cut-off (R92): as it comes the work that is ready is noted, and afterwards what is no longer ready falls
out. -/
def State.cutClock (s : State) : State :=
  if !s.up || !s.inCut || fld s.bell.ctl 39 32 = 0 then s
  else
    let now := s.readyMarks
    { s with gls := { s.gls with cutOff := true, ready := if s.gls.cutOff then s.gls.ready.filter now.contains else now } }

/-- Firm budgets, by cluster and instance, that fall short at this bell (R92, R475; the glass after a wake: log entry 23). -/
def State.shorts (s : State) : List (Nat × Nat) :=
  if s.bell.noAdmit then []
  else
    let fs := s.firmReady.filter (fun f => s.readyBefore.contains f.mark && f.len ≤ nth (s.inst f.inst).leftF f.cluster)
    (List.range 8).flatMap (fun c =>
      ((s.insts.map (·.1)).filter (fun i => fs.any (fun f => f.inst == i && f.cluster == c))).map (fun i => (c, i)))

/-- GLS_SHORT of a budget (R92, R425). -/
def State.shortFind (s : State) (p : Nat × Nat) : Detection :=
  { source := 5, attr := { kind := 6, unit := p.1, inst := some p.2 }, xcause := none, present := true
    detail := BitVec.ofNat 64 (nth (s.inst p.2).leftF p.1 % 2 ^ 32) }

/-! ### Overruns and carry (R94 to R97) -/

/-- Requests of a fragment that the bell finds not accepted: reads, or writes of one that reads nothing (R94, R122). -/
def Frag.unserved (f : Frag) : List Req := if f.src.isNone then f.wrReqs else f.rdReqs

/-- The fragment was admitted in the glass that ends and is not served (R94). -/
def State.overran (s : State) (f : Frag) : Bool :=
  f.phase != .assigned && f.admGlass == s.bell.glass && !f.unserved.isEmpty

/-- The carry of an overrun in bytes (R94). -/
def Frag.carry (f : Frag) : Nat := total (f.unserved.map (·.bytes))

/-- The fragment is charged to a firm budget. -/
def Frag.isFirm (f : Frag) : Bool := f.charge == .firm

/-- Order of overruns (R97): cluster, instance, firm first, admission, engine. -/
def Frag.before (a b : Frag) : Bool :=
  let key := fun f : Frag => [f.cluster, f.inst, b2n (!f.isFirm), f.admAt, f.eng]
  key a < key b

/-- The first overrun in that order. -/
def firstOver : List Frag → Option Frag
  | [] => none
  | f :: fs =>
    match firstOver fs with
    | none => some f
    | some g => if g.before f then some g else some f

/-- The cause of an overrun (R96): 0 ALIGN, 1 THROTTLE, 2 SPAN, 3 PORT. -/
def State.ovrCause (s : State) (aligned : Bool) (f : Frag) : Nat :=
  if aligned then 0
  else if s.gls.stepNow = 3 then 1
  else if s.remote f.src || s.remote f.dst then 2
  else 3

/-- Write requests of a fragment whose bytes are still unread (log entry 22). -/
def Frag.unreadWrites (f : Frag) : List Req :=
  if f.src.isNone then f.wrReqs
  else
    match minBy (·.off) f.rdReqs with
    | none => []
    | some r => f.wrReqs.filter (fun q => r.off < q.off + q.bytes)

/-- Carry of RO and RI of fabric port p (R95, R360). -/
def Frag.carryOut (f : Frag) (p : Nat) : Nat :=
  (if f.rport = some p then 64 * f.rdReqs.length else 0) +
    (if f.wport = some p then total (f.unreadWrites.map (fun q => dataFlits q.bytes)) else 0)

/-- Carry of RI of fabric port p. -/
def Frag.carryIn (f : Frag) (p : Nat) : Nat :=
  (if f.rport = some p then total (f.rdReqs.map (fun q => dataFlits q.bytes)) else 0) +
    (if f.wport = some p then 64 * f.unreadWrites.length else 0)

/-- The carries of an overrun are added to those of its budgets. -/
def State.addCarry (s : State) (f : Frag) : State :=
  let add := fun (l : List Nat) (k n : Nat) => setNth l k (nth l k + n)
  s.updInst f.inst (fun x => { x with
    carryF := if f.isFirm then add x.carryF f.cluster f.carry else x.carryF
    carryS := if f.isFirm then x.carryS else add x.carryS f.cluster f.carry
    carryRO := tabulate 4 (fun p => nth x.carryRO p + f.carryOut p)
    carryRI := tabulate 4 (fun p => nth x.carryRI p + f.carryIn p) })

/-- GLS_OVR_FIRM or GLS_OVR_SOFT of an overrun (R95, R96, R425). -/
def State.ovrFind (s : State) (aligned : Bool) (f : Frag) : Detection :=
  { source := if f.isFirm then 3 else 4, attr := { kind := 6, unit := f.cluster, inst := some f.inst }, xcause := none, present := true
    detail := pack [(33, 32, s.ovrCause aligned f), (31, 0, f.carry)] }

/-- GLS_OVR_LAST for an overrun (R97). -/
def State.ovrWord (s : State) (aligned : Bool) (f : Frag) : Word :=
  pack [(63, 48, f.admGlass), (47, 38, f.inst), (37, 35, f.cluster), (34, 33, s.ovrCause aligned f),
    (32, 32, b2n f.isFirm), (31, 0, f.carry)]

/-- Overruns and shortfalls of the glass that ends, as the second bus clock after the bell shows them (R78, R92, R94 to R98). -/
def State.overOf (s : State) (aligned : Bool) : Over :=
  let fs := s.frags.filter s.overran
  { firm := (fs.filter Frag.isFirm).length, soft := (fs.filter (fun f => !f.isFirm)).length, short := s.shorts.length
    last := (firstOver fs).map (s.ovrWord aligned), found := s.shorts.map s.shortFind ++ fs.map (s.ovrFind aligned) }

/-- The carries of every overrun are recorded (R94, R95). -/
def State.carries (s : State) : State := (s.frags.filter s.overran).foldl State.addCarry s

/-! ### Telemetry (R103, R104, R154) -/

/-- GLS_PORT_LAST of port c for the glass that ends. -/
def State.portWord (s : State) (c : Nat) : Word :=
  let a := tabGet {} s.gls.acc c
  pack [(63, 48, a.firm / 4096), (47, 32, a.soft / 4096), (31, 16, a.other / 4096),
    (15, 0, (s.frags.filter (fun f => s.overran f && f.cluster == c)).length)]

/-- GLS_FAB_LAST of port f. -/
def State.fabWord (s : State) (f : Nat) : Word :=
  let a := tabGet {} s.gls.fab f
  pack [(63, 48, a.outFirm / 4096), (47, 32, a.outAll / 4096), (31, 16, a.inFirm / 4096), (15, 0, a.inAll / 4096)]

/-- CLU_PTE of cluster c. -/
def State.pteWord (s : State) (c : Nat) : Word :=
  let a := tabGet {} s.gls.acc c
  pack [(63, 48, a.topRd / 64), (47, 32, a.topWr / 64), (31, 16, a.allRd / 64), (15, 0, a.allWr / 64)]

/-- The figures of the glass that ends, as the bus clock after the bell shows them (R78); those of the data path stay in an isolated
block. -/
def State.snapOf (s : State) : Snap :=
  { min := s.gls.stepNow
    portLast := if s.up then (List.range 8).map (fun c => (c, s.portWord c)) else s.gls.portLast
    fabLast := if s.up then (List.range 4).map (fun f => (f, s.fabWord f)) else s.gls.fabLast
    pte := if s.up then (List.range 8).map (fun c => (c, s.pteWord c)) else s.gls.pte }

/-- The counts of a glass begin again (R102, R103), with the step as it is. -/
def State.newGlass (s : State) : State :=
  { s with gls := { s.gls with acc := [], fab := [], cutOff := false, ready := [], stepNow := s.droop.step } }

/-- The figures of the last glass are published (R78): on the bus clock after the bell the telemetry, on the next the overruns, with
their faults and the flush. -/
def State.publish (s : State) : State :=
  let g := s.gls
  match g.snap, g.overNew with
  | some n, _ => { s with gls := { g with stepMin := n.min, portLast := n.portLast, fabLast := n.fabLast, pte := n.pte, snap := none } }
  | none, some o =>
    { s with
      gls := { g with
        ovrFirm := min (g.ovrFirm + o.firm) (2 ^ 32 - 1), ovrSoft := min (g.ovrSoft + o.soft) 65535
        short := min (g.short + o.short) 65535, ovrLast := o.last.getD g.ovrLast, overNew := none }
      flt := { s.flt with waiting := s.flt.waiting ++ o.found } }.queueLines (fun _ => true)
  | none, none => s

/-! ### Plans and allowances (R67, R95, R101, R106, R312, R339) -/

/-- A plan takes effect (R106, R312): bell fields, INB, and the firm and span budgets of every instance. -/
def State.planTakes (s : State) (p : Plan) : State :=
  let was := bit s.bell.ctl 0
  let gone := (p.recs.map (·.1)).filter (fun i => !s.exists_ i)
  let s : State := { s with
    led := { s.led with plan := none }
    bell := { s.bell with
      ctl := setFld (setFld s.bell.ctl 0 0 (b2n p.slave)) 31 24 p.tol, period := p.period
      locked := s.bell.locked && was && p.slave }
    gls := { s.gls with inbLed := p.inb }
    insts := s.insts.map (fun q => (q.1, { q.2 with led := p.onShare q.1 q.2.led })) }
  gone.foldl (fun s i => s.raise 6 0 0 none (BitVec.ofNat 64 i)) s

/-- The plan that takes effect at the bell that begins glass g, if there is one. -/
def State.planBell (s : State) (g : Nat) : State :=
  match s.led.plan with
  | some p => if p.glass ≤ g then s.planTakes p else s
  | none => s

/-- A figure at the 50% step (R101). -/
def scaled (v num den : Nat) : Nat := v * num / den

/-- Whether the allowances of the coming glass are scaled: the step at the bell is 50% (R101). -/
def State.halfStep (s : State) : Bool := s.droop.step == 3

/-- F or INB of cluster c for the coming glass (R101). -/
def State.firmUnits (s : State) (c v : Nat) : Nat :=
  let p := s.bell.p
  if s.halfStep then scaled v (portS50 p - s.ctrl c) (portFirm p - s.ctrl c) else v

/-- RO or RI for the coming glass (R101). -/
def State.spanUnits (s : State) (v : Nat) : Nat := if s.halfStep then scaled v (fabS50 s.bell.p) (fabFirm s.bell.p) else v

/-- What is left of an allowance after its carry, and what is left of the carry (R95). -/
def allow (n : Nat) (budget carry : Nat → Nat) : List Nat × List Nat :=
  (tabulate n (fun k => units (budget k) - carry k), tabulate n (fun k => carry k - units (budget k)))

/-- The allowances of an instance for the coming glass (R91, R95, R339). -/
def State.loadInst (s : State) (x : Inst) : Inst :=
  let f := allow 8 (fun c => s.firmUnits c (nth x.led.f c)) (nth x.carryF)
  let b := allow 8 (nth x.led.s) (nth x.carryS)
  let o := allow 4 (fun p => s.spanUnits (nth x.led.ro p)) (nth x.carryRO)
  let i := allow 4 (fun p => s.spanUnits (nth x.led.ri p)) (nth x.carryRI)
  { x with eff := x.led, leftF := f.1, carryF := f.2, leftS := b.1, carryS := b.2, leftRO := o.1, carryRO := o.2
           leftRI := i.1, carryRI := i.2 }

/-- The allowances of the coming glass are loaded. -/
def State.loadGlass (s : State) : State :=
  { s with
    insts := s.insts.map (fun q => (q.1, s.loadInst q.2))
    gls := { s.gls with inb := s.gls.inbLed, inbLeft := tabulate 8 (fun c => units (s.firmUnits c (nth s.gls.inbLed c))) } }

/-- LOG_CTL ON and OFF take effect (R310). -/
def Inst.logBell (x : Inst) : Inst :=
  match x.logNext with
  | some (.on base len) => { x with log := true, logBase := base, logLen := len, logNext := none }
  | some .off => { x with log := false, logNext := none }
  | none => x

/-! ### The bell (R65, R72, R78) -/

/-- The generator at a bell: POS returns to 0 and the glass number increments (R65, R72). -/
def Bell.ring (b : Bell) : Bell := { b with pos := 0, glass := (b.glass + 1) % 2 ^ 64, out := true, noAdmit := false }

/-- What the bell brings to a block that works (R78), on its own bus clock. -/
def State.glassEnds (s : State) (aligned : Bool) : State :=
  let o := s.overOf aligned
  let s := s.carries.planBell ((s.bell.glass + 1) % 2 ^ 64)
  let s : State := { s with gls := { s.gls with overNew := some o }, insts := s.insts.map (fun q => (q.1, q.2.logBell)) }
  (s.swapBell.loadGlass).scrubBell

/-- A bell rings: an isolated block only lets plans take effect and scrubs (R106, R285, R440, R445), and the step at the bell is
sampled (R102). -/
def State.ring (s : State) (aligned : Bool) : State :=
  let n := s.snapOf
  let s := if s.up then s.glassEnds aligned else (s.planBell ((s.bell.glass + 1) % 2 ^ 64)).scrubBell
  { s.newGlass with
    bell := s.bell.ring
    gls := { s.newGlass.gls with snap := some n, stepBell := s.droop.step }
    droop := { s.droop with bells := s.droop.bells + 1, recheck := s.droop.recheck + 1 } }

/-- The bell generator counts on this bus clock: it has started, and no freeze and no low power holds it (R71, R107, R108, R465). -/
def State.bellRuns (s : State) : Bool := s.isPresent && s.bell.running && !s.frozenHeld && !s.timeStands

/-- The bell is slaved (R73). -/
def Bell.slaved (b : Bell) : Bool := bit b.ctl 0

/-- TOL (R68). -/
def Bell.tol (b : Bell) : Nat := fld b.ctl 31 24

/-- Bus clocks since the last bell (R65, R70, R73; log entry 24). -/
def Bell.t (b : Bell) : Nat := b.pos

/-- A locked slaved bell has reached PERIOD + TOL (R73). -/
def Bell.atEdge (b : Bell) : Bool := b.slaved && b.locked && decide (b.period + b.tol ≤ b.t)

/-- BELL: POS reaches PERIOD in free mode or while the bell acquires (R65), or PERIOD + TOL while it is locked (R73): it rings as that
bus clock begins, whether or not an edge comes on it (R77, R78). -/
def doBell (s : State) : State :=
  if !s.bellRuns then s
  else if s.bell.atEdge then { s.ring false with clk := { s.clk with awaits := true } }
  else if !s.bell.locked && s.bell.period ≤ s.bell.t then s.ring false
  else s

/-- BELL (R78). -/
def execBell (s : State) : Result := .next (doBell s)

/-- BELL_IN_EDGE (R73): an acted edge while the bell is locked rings it within the tolerance; an earlier one is ignored. The bell
of the bus clock PERIOD + TOL has rung as that began.
DESIGN CHOICE (log 67): an ignored edge does not break the run of LOSTN missed ones. -/
def doEdge (s : State) : State :=
  let b := s.bell
  if !s.bellRuns || !b.slaved || !b.locked || b.period + b.tol < b.t then s
  else if s.clk.awaits then { s with bell := { b with missRun := 0 }, clk := { s.clk with awaits := false } }
  else if b.t + b.tol < b.period then
    ({ s with bell := { b with early := true, earlies := satAdd 16 b.earlies 1 } }.noteSet 0x1010 1).raise 0 0 0 none
  else { s with bell := { b with missRun := 0 } }.ring false

/-- BELL_IN_EDGE (R73). -/
def execBellInEdge (s : State) : Result := .next (doEdge s)

/-- A missed edge is counted; LOSTN of them in a row lose the lock (R73). -/
def Bell.missed (b : Bell) : Bell :=
  let n := b.missRun + 1
  let gone := fld b.ctl 23 16 != 0 && fld b.ctl 23 16 ≤ n
  { b with miss := true, misses := satAdd 16 b.misses 1, missRun := if gone then 0 else n
           lost := b.lost || gone, locked := b.locked && !gone }

/-- A missed edge is reported (R73). -/
def State.tellMiss (s : State) (lost : Bool) : State :=
  let s' := (s.noteSet 0x1010 (if lost then 10 else 2)).raise 1 0 0 none
  if lost then s'.raise 2 0 0 none else s'

/-- BELL_MISS (R73): no acted edge by PERIOD + TOL. The bell rings if it has not yet rung on this bus clock, and the miss is counted. -/
def doMiss (s : State) : State :=
  let b := s.bell
  if !s.bellRuns then s
  else if b.atEdge then ({ s with bell := b.missed }.ring false).tellMiss (!b.missed.locked)
  else if s.clk.awaits then
    ({ s with bell := b.missed, clk := { s.clk with awaits := false } }).tellMiss (!b.missed.locked)
  else s

/-- BELL_MISS (R73). -/
def execBellMiss (s : State) : Result := .next (doMiss s)

/-- BELL_ACQUIRE (R74): the first acted edge while the bell acquires. -/
def doAcquire (s : State) : State :=
  let b := s.bell
  if !s.bellRuns || !b.slaved || b.locked then s
  else if b.period / 2 ≤ b.t then { s with bell := { b with locked := true, missRun := 0 } }.ring (b.t < b.period)
  else { s with bell := { b with locked := true, missRun := 0, pos := 0 } }

/-- BELL_ACQUIRE (R74). -/
def execBellAcquire (s : State) : Result := .next (doAcquire s)

end Sys2Proof.Machine
end

