-- ==== Sys2Proof/Machine/Commands.lean ====
section
/-! DEFINITION. The Yulvanil commands (R302 to R314) and the completion of deferred ones (R294, R306, R308, R310). -/

namespace Sys2Proof.Machine

open Sys2Proof

/-! ### Share records (R302) -/

/-- A share record read as a share; CMAX is ignored for instance 0. -/
def shareOf (r : List Byte) (i : Nat) : Share :=
  let col := fun k : Nat => tabulate 8 (fun c => at_ r (8 * c + 2 * k) 2)
  { f := col 0, s := col 1, e := col 2, h := col 3
    ro := tabulate 4 (fun f => at_ r (64 + 4 * f) 2), ri := tabulate 4 (fun f => at_ r (66 + 4 * f) 2)
    qmax := at_ r 80 2, cmax := if i = 0 then 0 else at_ r 82 2, ccs := at_ r 84 2, prate := at_ r 88 4 }

/-- A share as a record. -/
def shareBytes (x : Share) : List Byte :=
  (List.range 8).flatMap (fun c => leBytes 2 (nth x.f c) ++ leBytes 2 (nth x.s c) ++ leBytes 2 (nth x.e c) ++ leBytes 2 (nth x.h c)) ++
    (List.range 4).flatMap (fun f => leBytes 2 (nth x.ro f) ++ leBytes 2 (nth x.ri f)) ++
    leBytes 2 x.qmax ++ leBytes 2 x.cmax ++ leBytes 2 x.ccs ++ zeros 2 ++ leBytes 4 x.prate ++ zeros 4 ++ leBytes 1 1 ++ zeros 31

/-- The record is well formed (R302). -/
def shareOk (r : List Byte) (i : Nat) : List Refuse :=
  let bad := fun (ok : Bool) (k : Nat) => need ok 0x10 (.at_ 7 k)
  (List.range 8).flatMap (fun c => bad (at_ r (8 * c + 4) 2 ≤ 512) (8 * c + 4) ++ bad (at_ r (8 * c + 6) 2 ≤ at_ r (8 * c + 4) 2) (8 * c + 6)) ++
    bad (at_ r 80 2 ≤ 1024) 80 ++ bad (i == 0 || at_ r 82 2 ≤ 512) 82 ++ bad (at_ r 84 2 ≤ 8192) 84 ++
    bad (at_ r 88 4 ≤ 257698037) 88 ++ bad (at_ r 96 1 == 1) 96

/-- The budgets that a plan sets (R313). -/
def Share.planned (x : Share) : List Nat := tabulate 8 (nth x.f) ++ tabulate 4 (nth x.ro) ++ tabulate 4 (nth x.ri)

/-! ### QUERY (R314) -/

/-- TLT_ID (R4). -/
def tltId : Word := pack [(63, 48, 0x0CE0), (47, 32, 0x8128), (31, 24, 8), (23, 16, 16), (15, 8, 1)]

/-- PUR_VER as RET shows it (R281). -/
def doQueryVersions (c : Cmd) (s : State) : State :=
  s.checked c (need (cOp c.raw == 0) 1 (.at_ 6 12)) (s.done c 0 (leBytes 8 s.pur.ver.toNat ++ leBytes 8 tltId.toNat))

/-- QUERY_VERSIONS (R314): OP 0; an OP above 2 is BAD_ARG. -/
def execQueryVersions (s : State) : Result := .next (s.onCmd 0x80 (fun o => o == 0 || 2 < o) doQueryVersions)

/-- The 136 B of QUERY OP 1. -/
def State.instRecord (s : State) (i : Nat) : List Byte :=
  let x := s.inst i
  shareBytes x.led ++ leBytes 2 x.gen ++ leBytes 1 x.state.code ++ leBytes 1 (b2n x.log) ++ zeros 4

/-- QUERY with OP 1. -/
def doQueryInstance (c : Cmd) (s : State) : State :=
  s.purWrite c (cAddr c.raw) (s.instOk c.raw false false ++ s.addrOk (cAddr c.raw) 64 16) (s.instRecord (cInst c.raw))

/-- QUERY_INSTANCE (R314). -/
def execQueryInstance (s : State) : Result := .next (s.onCmd 0x80 (fun o => o == 1) doQueryInstance)

/-- The 128 B pool record of QUERY OP 2, of the ledger that commands are checked against. -/
def State.poolRecord (s : State) : List Byte :=
  let b := s.books
  (List.range 8).flatMap (fun c =>
    leBytes 2 (portFirm b.p - b.firm c) ++ leBytes 2 (384 - b.sum (fun x => nth x.h c)) ++
      leBytes 2 (ctrlOf b.p b.queues c) ++ leBytes 2 (nth b.inb c)) ++
    (List.range 4).flatMap (fun f =>
      leBytes 2 (fabFirm b.p - b.sum (fun x => nth x.ro f)) ++ leBytes 2 (fabFirm b.p - b.sum (fun x => nth x.ri f))) ++
    leBytes 2 (16384 - b.queues.length) ++ leBytes 2 (256 - (b.queues.filter (fun q => q.2.strict)).length) ++
    leBytes 2 (8192 - b.sum (·.ccs)) ++
    leBytes 2 (512 - total ((b.shares.filter (fun q => q.1 != 0)).map (fun q => q.2.cmax))) ++
    leBytes 4 (257698037 - b.sum (·.prate)) ++ leBytes 2 (1024 - b.shares.length) ++ leBytes 1 (b2n s.led.plan.isSome) ++
    zeros 33

/-- QUERY with OP 2. -/
def doQueryPool (c : Cmd) (s : State) : State := s.purWrite c (cAddr c.raw) (s.addrOk (cAddr c.raw) 64 16) s.poolRecord

/-- QUERY_POOL (R314). -/
def execQueryPool (s : State) : Result := .next (s.onCmd 0x80 (fun o => o == 2) doQueryPool)

/-! ### Instances (R306) -/

/-- The figures of a share that apply before the bell of EFFECT (R340). -/
def Share.early (x : Share) : Share := { qmax := x.qmax, cmax := x.cmax, prate := x.prate }

/-- INST_CREATE with its record read. -/
def State.instCreate (s : State) (c : Cmd) (r : List Byte) : State :=
  let i := cInst c.raw
  let x := shareOf r i
  let money := x.planned.any (fun v => v != 0)
  s.checked c (need (!(money && s.led.plan.isSome)) 0x0E .open_ ++ shareOk r i ++
      (s.books.setShare i (s.afterPlan i x)).checks i 0x11)
    (let gen := (tabGet 0 s.led.lastGen i + 1) % 65536
     let s := s.updInst i (fun _ => { state := .active, gen, root := localOf (cAddr2 c.raw), led := x, eff := x.early })
     s.done c (s.bell.glass + 1) (leBytes 2 gen))

/-- INST_CREATE. -/
def doInstCreate (c : Cmd) (s : State) : State :=
  let i := cInst c.raw
  s.purRead c (cAddr c.raw) 128 (need (1 ≤ i && i < 1024) 1 (.at_ 6 8) ++ s.addrOk (cAddr c.raw) 8 16 ++ s.addrOk (cAddr2 c.raw) 4096 24 ++
      (if i < 1024 then need (!s.exists_ i) 6 (.at_ 6 8) else [])) (fun r s => s.instCreate c r)

/-- INST_CREATE (R306). -/
def execInstCreate (s : State) : Result := .next (s.onCmd 0x81 (fun _ => true) doInstCreate)

/-- INST_REMOVE and INST_RESET: the reset sequence starts (R345). -/
def doInstEnd (removing : Bool) (c : Cmd) (s : State) : State :=
  s.checked c (s.instOk c.raw true true) ((s.deferCmd c (cInst c.raw)).beginReset (cInst c.raw) removing)

/-- INST_REMOVE (R306). -/
def execInstRemove (s : State) : Result := .next (s.onCmd 0x82 (fun _ => true) (doInstEnd true))

/-- INST_RESET (R306). -/
def execInstReset (s : State) : Result := .next (s.onCmd 0x83 (fun _ => true) (doInstEnd false))

/-- SUSP on every queue and channel of an instance (R198, R235, R342, R343). -/
def State.setSusp (s : State) (i : Nat) (on : Bool) : State :=
  let s := (s.ownQueues i).foldl (fun s p => s.updQueue p.1 (fun q => { q with susp := on })) s
  (s.ownChans i).foldl (fun s n =>
    let s := s.updChan n (fun x => { x with susp := on })
    if on then s.chHold n else s.chResume n) s

/-- INST_SUSPEND without RESUME. -/
def doSuspend (c : Cmd) (s : State) : State :=
  let i := cInst c.raw
  let st := (s.inst i).state
  s.checked c (s.instOk c.raw true true ++ s.instSound i ++ need (st != .suspending && st != .suspended) 7 (.at_ 6 8))
    (((s.deferCmd c i).updInst i (fun x => { x with state := .suspending })).setSusp i true)

/-- INST_SUSPEND (R306, R342). -/
def execInstSuspend (s : State) : Result := .next (s.onCmd 0x84 (fun o => !o.testBit 0) doSuspend)

/-- INST_SUSPEND with RESUME. -/
def doResume (c : Cmd) (s : State) : State :=
  let i := cInst c.raw
  let st := (s.inst i).state
  s.checked c (s.instOk c.raw true true ++ s.instSound i ++ need (st == .suspending || st == .suspended) 7 (.at_ 6 8))
    (((s.done c 0 []).updInst i (fun x => { x with state := .active })).setSusp i false)

/-- INST_RESUME (R306, R343). -/
def execInstResume (s : State) : Result := .next (s.onCmd 0x84 (fun o => o.testBit 0) doResume)

/-- SHARE_SET with its record read. -/
def State.shareSet (s : State) (c : Cmd) (r : List Byte) : State :=
  let i := cInst c.raw
  let x := shareOf r i
  let money := x.planned != (s.inst i).led.planned
  s.checked c (need (!(money && s.led.plan.isSome)) 0x0E .open_ ++ shareOk r i ++
      (s.books.setShare i (s.afterPlan i x)).checks i 0x11)
    ((s.updInst i (fun y => { y with
      led := x, eff := { y.eff with qmax := x.qmax, cmax := x.cmax, prate := x.prate } })).done c (s.bell.glass + 1) [])

/-- SHARE_SET. -/
def doShareSet (c : Cmd) (s : State) : State :=
  s.purRead c (cAddr c.raw) 128 (s.instOk c.raw false true ++ s.addrOk (cAddr c.raw) 8 16) (fun r s => s.shareSet c r)

/-- SHARE_SET (R306, R339). -/
def execShareSet (s : State) : Result := .next (s.onCmd 0x85 (fun _ => true) doShareSet)

/-! ### Queues (R307, R308) -/

/-- Ranges of the ring operands (R308). -/
def ringOk (raw : List Byte) (rhead : Bool) : List Refuse :=
  let k := cK raw
  need (1 ≤ k && k ≤ 16) 1 (.at_ 6 13) ++ need (cN raw ≤ 24) 1 (.at_ 6 14) ++
    (if rhead && 1 ≤ k && k ≤ 16 then need (cRhead raw < 2 ^ k) 1 (.at_ 6 32) else [])

/-- The ring base is aligned to the ring's size (R201, R305). -/
def State.ringBaseOk (s : State) (raw : List Byte) : List Refuse :=
  if 1 ≤ cK raw && cK raw ≤ 16 then s.addrOk (cAddr raw) (64 * 2 ^ cK raw) 16 else []

/-- Ranges of D and CLU. -/
def newQueueOk (raw : List Byte) : List Refuse :=
  need (1 ≤ cD raw && cD raw ≤ 16) 1 (.at_ 6 15) ++ need (cClu raw < 8) 1 (.at_ 6 34)

/-- A queue as its creation leaves it. -/
def newQueue (raw : List Byte) (inst lnum : Nat) (strict firm : Bool) (prio head : Nat) (lap : Bool) : Queue :=
  { inst, lnum, cluster := cClu raw, strict, firm, prio, depth := cD raw, k := cK raw, n := cN raw
    base := BitVec.ofNat 64 (cAddr raw), head, lap }

/-- The lowest free global queue number from 1 (R308). -/
def State.freeQueue (s : State) : Nat := leastFree (s.queues.map (·.1)) 1

/-- SUSP of a queue or channel given to instance i: 1 while the instance is suspended (R162, R207, R342). -/
def State.suspends (s : State) (i : Nat) : Bool := (s.inst i).state == .suspending || (s.inst i).state == .suspended

/-- Q_CREATE. -/
def doQCreate (c : Cmd) (s : State) : State :=
  let raw := c.raw
  let i := cInst raw
  let restore := (cQf raw).testBit 5
  let q := { newQueue raw i (cObj raw) ((cQf raw).testBit 4) ((cQf raw).testBit 0) (cQf raw / 2 % 8)
    (if restore then cRhead raw else 0) (if restore then (cQf raw).testBit 6 else true) with susp := s.suspends i }
  let g := s.freeQueue
  let b := s.books
  s.checked c (need (!(i == 0 && cObj raw == 0)) 4 (.at_ 6 10) ++ s.instOk raw false true ++ need (cObj raw < 1024) 1 (.at_ 6 10) ++
      ringOk raw restore ++ newQueueOk raw ++ s.ringBaseOk raw ++ s.instSound i ++
      need (s.localQueue i (cObj raw)).isNone 0x0A (.at_ 6 10) ++ need (g < 16384) 0x12 (.at_ 5 0) 1 ++
      ({ b with queues := b.queues ++ [(g, q)] } : Books).checks i 0x13)
    (({ s with queues := tabSet s.queues g q }).done c 0 (leBytes 2 g ++ zeros 6 ++ leBytes 8 q.ctlWord.toNat))

/-- Q_CREATE (R308). -/
def execQCreate (s : State) : Result := .next (s.onCmd 0x88 (fun _ => true) doQCreate)

/-- A queue of INST, for a command whose checks have passed. -/
def State.target (s : State) (raw : List Byte) : Nat × Queue :=
  (s.localQueue (cInst raw) (cObj raw)).getD (0, newQueue raw 0 0 false false 0 0 true)

/-- A command on queue 0. -/
def onQueue0 (raw : List Byte) : Bool := cInst raw == 0 && cObj raw == 0

/-- The command came by queue 0. -/
def Cmd.byQueue (c : Cmd) : Bool := match c.src with | .queue _ => true | .mailbox _ => false

/-- A condition on the queue named, if it exists. -/
def State.queueNeed (s : State) (raw : List Byte) (ok : Nat → Queue → Bool) : List Refuse :=
  match s.localQueue (cInst raw) (cObj raw) with
  | some (g, q) => need (ok g q) 0x0B (.at_ 6 10)
  | none => []

/-- Q_RESIZE: POLL_N alone, or the geometry of an idle queue. A new interval counts from the next due time (R215). -/
def doQResize (c : Cmd) (s : State) : State :=
  let raw := c.raw
  let only := (cOp raw).testBit 0
  let (g, q) := s.target raw
  let q' := if only then { q with n := cN raw }
    else { q with base := BitVec.ofNat 64 (cAddr raw), k := cK raw, n := cN raw, head := cRhead raw, lap := (cQf raw).testBit 6 }
  let b := s.books
  s.checked c (need (!(onQueue0 raw && c.byQueue)) 3 .open_ ++ s.instOk raw false true ++ s.queueOk raw ++
      (if only then need (cN raw ≤ 24) 1 (.at_ 6 14) else ringOk raw true ++ s.ringBaseOk raw) ++
      s.queueNeed raw (fun g q => if only then q.state != .fenced else q.state == .off && s.qIdle g q) ++
      (if (s.localQueue (cInst raw) (cObj raw)).isSome then
        ({ b with queues := tabSet b.queues g q' } : Books).checks q.inst 0x13 else []))
    ((s.updQueue g (fun _ => q')).done c 0 (zeros 8 ++ leBytes 8 q'.ctlWord.toNat))

/-- Q_RESIZE (R308). -/
def execQResize (s : State) : Result := .next (s.onCmd 0x89 (fun _ => true) doQResize)

/-- Q_DESTROY: the queue takes no ENABLE. -/
def doQDestroy (c : Cmd) (s : State) : State :=
  let raw := c.raw
  s.checked c (need (!onQueue0 raw) 4 (.at_ 6 10) ++ s.instOk raw false true ++ s.queueOk raw ++
      s.queueNeed raw (fun _ q => q.state == .off))
    ((s.deferCmd c (cInst raw)).updQueue (s.target raw).1 (fun q => { q with dying := true }))

/-- Q_DESTROY (R308). -/
def execQDestroy (s : State) : Result := .next (s.onCmd 0x8A (fun _ => true) doQDestroy)

/-- The snapshot of R307. -/
def State.queueContext (s : State) (g : Nat) (q : Queue) : List Byte :=
  leBytes 2 g ++ leBytes 2 q.head ++
    leBytes 1 (q.state.code + 8 * b2n q.lap + 16 * b2n (s.qIdle g q) + 32 * b2n q.enable) ++
    leBytes 1 q.k ++ leBytes 1 q.n ++ leBytes 1 q.depth ++ leBytes 8 q.base.toNat ++ leBytes 4 q.taken ++ leBytes 4 q.done ++
    leBytes 1 q.cluster ++ leBytes 1 (b2n q.firm + 2 * q.prio + 16 * b2n q.strict) ++ zeros 6

/-- Q_READ_CTX. -/
def doQReadCtx (c : Cmd) (s : State) : State :=
  let (g, q) := s.target c.raw
  s.checked c (s.instOk c.raw false true ++ s.queueOk c.raw) (s.done c 0 (s.queueContext g q))

/-- Q_READ_CTX (R307). -/
def execQReadCtx (s : State) : Result := .next (s.onCmd 0x8B (fun _ => true) doQReadCtx)

/-- Q_STRICT. -/
def doQStrict (grant : Bool) (c : Cmd) (s : State) : State :=
  let raw := c.raw
  let strict := (s.queues.filter (fun q => q.2.strict)).length
  s.checked c (need (!(!grant && onQueue0 raw)) 4 (.at_ 6 10) ++ s.instOk raw false true ++ s.queueOk raw ++
      s.queueNeed raw (fun _ q => q.state == .off && q.strict != grant) ++
      (if grant then limit (strict + 1) 256 0x12 (.at_ 5 4) else []))
    ((s.updQueue (s.target raw).1 (fun q => { q with strict := grant })).done c 0 [])

/-- Q_STRICT_GRANT (R308). -/
def execQStrictGrant (s : State) : Result := .next (s.onCmd 0x8C (fun o => o.testBit 0) (doQStrict true))

/-- Q_STRICT_REVOKE (R308). -/
def execQStrictRevoke (s : State) : Result := .next (s.onCmd 0x8C (fun o => !o.testBit 0) (doQStrict false))

/-- ADMIN_INIT. -/
def doAdminInit (c : Cmd) (s : State) : State :=
  let raw := c.raw
  let q := newQueue raw 0 0 true false 7 0 true
  let b := s.books
  s.checked c (need (!c.byQueue) 3 .open_ ++ ringOk raw false ++ newQueueOk raw ++ s.ringBaseOk raw ++ s.addrOk (cAddr2 raw) 4096 24 ++
      need (s.queue? 0).isNone 0x0A (.at_ 6 10) ++ ({ b with queues := b.queues ++ [(0, q)] } : Books).checks 0 0x13)
    ((({ s with queues := tabSet s.queues 0 q }).updInst 0 (fun x => { x with root := localOf (cAddr2 raw) })).done c 0
      (zeros 8 ++ leBytes 8 q.ctlWord.toNat))

/-- ADMIN_INIT (R308). -/
def execAdminInit (s : State) : Result := .next (s.onCmd 0xF0 (fun _ => true) doAdminInit)

/-! ### Channels (R309) -/

/-- A channel gets a new owner, every register at its reset value, with SUSP as its owner stands (R162, R342). -/
def State.giveChan (s : State) (n i : Nat) : State :=
  s.updChan n (fun x => { x.reset 0 with owner := i, susp := s.suspends i })

/-- CH_BIND. -/
def doChBind (c : Cmd) (s : State) : State :=
  let i := cInst c.raw
  let n := cObj c.raw
  s.checked c (s.instOk c.raw true true ++ need (n < 512) 1 (.at_ 6 10) ++ s.instSound i ++
      (if n < 512 then need ((s.chan n).owner == 0 && (s.chan n).state == .idle) 0x0C (.at_ 6 10) else []) ++
      limit (s.bound i + 1) (s.inst i).led.cmax 0x11 (.at_ 4 1))
    ((s.giveChan n i).done c 0 [])

/-- CH_BIND (R309). -/
def execChBind (s : State) : Result := .next (s.onCmd 0x90 (fun _ => true) doChBind)

/-- CH_UNBIND. -/
def doChUnbind (c : Cmd) (s : State) : State :=
  let n := cObj c.raw
  s.checked c (need (n < 512) 1 (.at_ 6 10) ++
      (if n < 512 then need ((s.chan n).owner != 0 && (s.chan n).state == .idle) 0x0C (.at_ 6 10) else []))
    ((s.giveChan n 0).done c 0 [])

/-- CH_UNBIND (R309). -/
def execChUnbind (s : State) : Result := .next (s.onCmd 0x91 (fun _ => true) doChUnbind)

/-! ### Logbook (R310) -/

/-- LOG_CTL is refused while a swap of the instance runs (R385). -/
def State.swapping (s : State) (i : Nat) : Bool := s.glb.swapGo && fld s.glb.logSwap 9 0 == i

/-- Logging of the instance is on, and no swap of it runs. -/
def State.logStateOk (s : State) (i : Nat) (on : Bool) : List Refuse := need ((s.inst i).log == on && !s.swapping i) 0x0D .open_

/-- LOG_CTL ON. -/
def doLogOn (c : Cmd) (s : State) : State :=
  let i := cInst c.raw
  let n := cLen c.raw
  s.checked c (s.instOk c.raw false true ++ need (n % 4096 == 0 && 4096 ≤ n && n ≤ 16777216) 1 (.at_ 6 36) ++
      s.addrOk (cAddr c.raw) 4096 16 ++ s.logStateOk i false)
    ((s.deferCmd c i).updInst i (fun x => { x with logNext := some (.on (localOf (cAddr c.raw)) n) }))

/-- LOG_CTL_ON (R310). -/
def execLogCtlOn (s : State) : Result := .next (s.onCmd 0x98 (fun o => o == 1) doLogOn)

/-- LOG_CTL OFF; an OP above 2 is BAD_ARG. -/
def doLogOff (c : Cmd) (s : State) : State :=
  let i := cInst c.raw
  s.checked c (s.instOk c.raw false true ++ need (cOp c.raw ≤ 2) 1 (.at_ 6 12) ++ s.logStateOk i true)
    ((s.deferCmd c i).updInst i (fun x => { x with logNext := some .off }))

/-- LOG_CTL_OFF (R310). -/
def execLogCtlOff (s : State) : Result := .next (s.onCmd 0x98 (fun o => o == 0 || 2 < o) doLogOff)

/-- The flushes that a FLUSH waits for: of each line of the instance, the one in progress and the one of its pending
bits. -/
def State.flushesDue (s : State) (i : Nat) : List (Nat × Nat × Nat) :=
  (s.logc.filter (fun l => l.inst == i)).map (fun l => (l.line, l.base, b2n (l.flush != .idle) + b2n (!l.bits.isEmpty)))

/-- LOG_CTL FLUSH. -/
def doLogFlushCmd (c : Cmd) (s : State) : State :=
  let i := cInst c.raw
  s.checked c (s.instOk c.raw false true ++ s.logStateOk i true)
    ((s.deferCmd c i (s.flushesDue i)).queueLines (fun l => l.inst == i))

/-- LOG_CTL_FLUSH (R310). -/
def execLogCtlFlush (s : State) : Result := .next (s.onCmd 0x98 (fun o => o == 2) doLogFlushCmd)

/-! ### Plans (R311 to R313) -/

/-- The plan a well-formed plan's bytes describe, for glass g: GLASS 0, or a glass that has begun, means the next one
(R106). -/
def planOf (r : List Byte) (g : Nat) : Plan :=
  let list := fun (off n : Nat) => tabulate n (fun k => at_ r (off + 2 * k) 2)
  { slave := (at_ r 1 1).testBit 0, tol := at_ r 2 1, period := at_ r 4 4
    glass := if at_ r 8 8 ≤ g then g + 1 else at_ r 8 8
    inb := list 24 8
    recs := (List.range (at_ r 16 2)).map (fun k => (at_ r (64 + 48 * k) 2,
      list (72 + 48 * k) 8, list (88 + 48 * k) 4, list (96 + 48 * k) 4)) }

/-- Field checks of a plan (R312): header fields, record order, and instances that exist. DESIGN CHOICE (log 18): PERIOD less TOL
below 500 is located at TOL, byte 2, so a PERIOD below 500 is too; a LEN that does not fit NINST is PLAN_BAD at NINST, byte 16. -/
def State.planOk (s : State) (r : List Byte) (len : Nat) : List Refuse :=
  let n := at_ r 16 2
  let i := fun k : Nat => at_ r (64 + 48 * k) 2
  let bad := fun (ok : Bool) (k : Nat) => need ok 0x10 (.at_ 7 k)
  let zeroed := putBytes r 20 (zeros 4)
  bad (at_ r 0 1 == 1) 0 ++ bad (500 + at_ r 2 1 ≤ at_ r 4 4) 2 ++ bad (500 ≤ at_ r 4 4 && at_ r 4 4 ≤ 500000) 4 ++
    bad (at_ r 8 8 ≤ s.bell.glass + 2 ^ 20) 8 ++ bad (n ≤ 1024 && len == 64 + 48 * n) 16 ++
    bad (crc32c 0 zeroed == at_ r 20 4) 20 ++
    (if len = 64 + 48 * n then
      (List.range n).flatMap (fun k => need (i k < 1024 && s.exists_ (i k)) 5 (.at_ 7 0) 0 (k + 1) ++
        need (k == 0 || i (k - 1) < i k) 0x10 (.at_ 7 0) 0 (k + 1))
    else [])

/-- PLAN_LOAD with the plan read. -/
def State.planLoad (s : State) (c : Cmd) (r : List Byte) : State :=
  let p := planOf r s.bell.glass
  s.checked c (s.planOk r (cLen c.raw) ++ (s.booksNow.after p).pools)
    ({ s with led := { s.led with plan := some p } }.done c p.glass [])

/-- PLAN_LOAD. -/
def doPlanLoad (c : Cmd) (s : State) : State :=
  s.purRead c (cAddr c.raw) (cLen c.raw)
    (need (cLen c.raw ≤ 49216) 1 (.at_ 6 36) ++ s.addrOk (cAddr c.raw) 64 16 ++ need s.led.plan.isNone 0x0E .open_)
    (fun r s => s.planLoad c r)

/-- PLAN_LOAD (R312). -/
def execPlanLoad (s : State) : Result := .next (s.onCmd 0xA0 (fun o => !o.testBit 0) doPlanLoad)

/-- PLAN_LOAD with CANCEL: the ledger that returns must pass the checks too (R301). -/
def doPlanCancel (c : Cmd) (s : State) : State :=
  s.checked c (need s.led.plan.isSome 0x0E .index0 ++ s.booksNow.pools) ({ s with led := { s.led with plan := none } }.done c 0 [])

/-- PLAN_CANCEL (R312). -/
def execPlanCancel (s : State) : Result := .next (s.onCmd 0xA0 (fun o => o.testBit 0) doPlanCancel)

/-! ### Completions of deferred commands (R294, R306, R308, R310) -/

/-- Everything of a suspended instance has ended and been acknowledged (R306). -/
def State.quiet (s : State) (i : Nat) : Bool :=
  let x := s.inst i
  s.frags.all (fun f => f.inst != i) &&
    (s.ownChans i).all (fun n => let st := (s.chan n).state; st == .paused || st == .idle || st == .error) &&
    (s.ownQueues i).all (fun p => p.2.entries.all (fun e => e.ovr == .none && !s.ovrReady p.1 p.2 e)) &&
    x.evWait.isEmpty && x.evOut.isNone && x.msiTrig.isNone && !x.msiOut

/-- Queues of a removed instance are destroyed, its channels returned, and logging turned off at the next bell unless a
swap runs (R306, R385). -/
def State.dismantle (s : State) (i : Nat) : State :=
  let s := (s.ownChans i).foldl (fun s n => s.giveChan n 0) { s with queues := s.queues.filter (fun p => p.2.inst != i) }
  if (s.inst i).log && !s.swapping i then s.updInst i (fun x => { x with logNext := some .off }) else s

/-- Logging of a removed instance is off and its bits are in the bitmap, or could not be put there. -/
def State.logOver (s : State) (i : Nat) (failed : Bool) : Bool :=
  let x := s.inst i
  !x.log && x.logNext.isNone && (failed || !s.logc.any (fun l => l.inst == i))

/-- Suspensions that have drained: the instances are SUSPENDED, whether or not the Purser runs to say so (R285, R342). -/
def State.suspended (s : State) : State :=
  { s with insts := s.insts.map (fun p =>
      (p.1, if p.2.state == .suspending && s.quiet p.1 then { p.2 with state := .suspended } else p.2)) }

/-- What a deferred command whose condition holds completes with: its result, EXCESS and RET. -/
def State.outcome (s : State) (d : Deferred) : Option (Nat × Nat × List Byte) :=
  let x := s.inst d.inst
  let log := match d.failed with | some st => (0x0F, st, []) | none => (0, 0, [])
  match opcode d.raw with
  | 0x82 => if x.state == .removing && x.renewed && s.logOver d.inst d.failed.isSome then some (0, 0, leBytes 2 x.gen) else none
  | 0x83 => if x.state != .removing && x.renewed then some (0, 0, leBytes 2 x.gen) else none
  | 0x84 =>
    if x.state == .contained || x.state == .suspended || (x.state == .suspending && s.quiet d.inst) then some (0, 0, []) else none
  | 0x8A =>
    match s.localQueue d.inst (cObj d.raw) with
    | some (g, q) => if s.qIdle g q then some (0, 0, leBytes 8 q.cnt.toNat) else none
    | none => none
  | 0x98 =>
    match cOp d.raw with
    | 1 => if x.log && x.logNext.isNone then some (0, 0, []) else none
    | 0 => if s.logOver d.inst d.failed.isSome then some log else none
    | _ => if d.failed.isSome || d.lines.isEmpty then some log else none
  | _ => none

/-- What a deferred command does as it completes. -/
def State.finish (s : State) (d : Deferred) : State :=
  let i := d.inst
  match opcode d.raw with
  | 0x82 =>
    let gen := (s.inst i).gen
    let s := s.logOff i
    { s with insts := tabErase s.insts i, led := { s.led with lastGen := tabSet s.led.lastGen i gen } }
  | 0x83 => s.updInst i (fun x => { x with
      state := if x.state == .resetting then .active else x.state, renewed := false })
  | 0x84 => s.updInst i (fun x => { x with state := if x.state == .suspending then .suspended else x.state })
  | 0x8A =>
    match s.localQueue i (cObj d.raw) with
    | some (g, _) => { s with queues := tabErase s.queues g }
    | none => s
  | 0x98 => if cOp d.raw = 0 then s.logOff i else s
  | _ => s

/-- EFFECT of a deferred command: the glass of the bell that a LOG_CTL waits for (R298, R310). -/
def Deferred.effect (d : Deferred) : Nat := if opcode d.raw = 0x98 ∧ cOp d.raw ≤ 1 then d.at_ + 1 else 0

/-- A removal whose instance is past its reset goes on (R306, R385). -/
def State.removals (s : State) : State :=
  (s.pur.defer.filter (fun d => opcode d.raw == 0x82 && (s.inst d.inst).renewed)).foldl (fun s d => s.dismantle d.inst) s

/-- COMMAND_COMPLETION (R294): the first deferred command whose condition holds completes. -/
def doCompletion (s : State) : State :=
  if !s.purRuns then s
  else
    let s := s.removals
    match s.pur.defer.find? (fun d => (s.outcome d).isSome) with
    | none => s
    | some d =>
      match s.outcome d with
      | none => s
      | some (res, excess, ret) =>
        let detail := if res = 0 then 0 else (Config.refusalDetail s.now s.pur.cmds res).toNat
        let s := { s with pur := { s.pur with defer := dropFirst (fun x => x == d) s.pur.defer } }
        let s := s.finish d
        s.answer d.src (s.doneBytes d.src d.raw res detail excess d.effect ret)

/-- COMMAND_COMPLETION (R294). -/
def execCommandCompletion (s : State) : Result := .next (doCompletion s)

end Sys2Proof.Machine
end

