-- ==== Sys2Proof/Machine/Timer.lean ====
section
/-! DEFINITION. Counters, capture inputs, debug halt, and dead reckoning (12). -/

namespace Sys2Proof.Machine

open Sys2Proof

/-! ### Counters (R451 to R456) -/

/-- Fields of TMR_CTL (R451). -/
def Tmr.run (x : Tmr) : Bool := bit x.ctl 0
def Tmr.chain (x : Tmr) : Bool := bit x.ctl 4
def Tmr.matchAct (x : Tmr) : Nat := fld x.ctl 9 8
def Tmr.linkEv (x : Tmr) : Nat := fld x.ctl 13 12
def Tmr.linkAct (x : Tmr) : Nat := fld x.ctl 15 14
def Tmr.presc (x : Tmr) : Nat := fld x.ctl 19 16

/-- RUN set or cleared. -/
def Tmr.setRun (x : Tmr) (v : Bool) : Tmr := { x with ctl := setFld x.ctl 0 0 (b2n v) }

/-- The value a tick gives CNT (R453). -/
def Tmr.nextCnt (x : Tmr) : Nat :=
  if x.matchAct = 1 ∧ x.cnt = x.cmp then 0
  else if x.cnt = 0xFFFFFFFF then 0
  else x.cnt + 1

/-- The prescaler expires on this bus clock (R453). -/
def Tmr.expires (x : Tmr) : Bool := x.run && 2 ^ x.presc ≤ x.phase + 1

/-- The events of a tick: match and overflow (R453). -/
structure TickEv where
  hit : Bool
  ovf : Bool
  deriving DecidableEq, Repr

/-- The events of a counter that ticks or does not. -/
def Tmr.events (x : Tmr) (ticks : Bool) : TickEv :=
  { hit := ticks && x.nextCnt == x.cmp, ovf := ticks && x.nextCnt == 0 }

/-- LINK_EV selects the event (R451). -/
def Tmr.links (x : Tmr) (e : TickEv) : Bool := (x.linkEv.testBit 0 && e.hit) || (x.linkEv.testBit 1 && e.ovf)

/-- LINK_ACT has an effect on the partner: a START of one that runs has none (R451). -/
def Tmr.actsOn (x partner : Tmr) (e : TickEv) : Bool := x.links e && !(x.linkAct == 0 && partner.run)

/-- LINK_ACT of a partner is applied (R451, R454). -/
def Tmr.acted (x : Tmr) (act : Nat) : Tmr :=
  match act with
  | 0 => if x.run then x else { x.setRun true with phase := 0 }
  | 1 => { x with cnt := 0, phase := 0 }
  | 2 => { x.setRun true with cnt := 0, phase := 0 }
  | _ => x.setRun false

/-- MATCH, OVF and MATCH_ACT of the events of a counter (R454). -/
def Tmr.noted (x : Tmr) (e : TickEv) : Tmr :=
  let x := { x with hit := x.hit || e.hit, ovf := x.ovf || e.ovf }
  if e.hit && x.matchAct == 2 then x.setRun false else x

/-- The prescaler of a counter that counts bus clocks (R453). -/
def Tmr.prescale (x : Tmr) : Tmr :=
  if x.run && !x.chain then { x with phase := if x.expires then 0 else x.phase + 1 } else x

/-- One bus clock of counter 2k and counter 2k + 1 (R453, R454). An action on a partner replaces its tick, and with it the
events of that tick, unless they have acted on the other counter at this bus clock (log entry 26). -/
def pairClock (low high : Tmr) : Tmr × Tmr :=
  let tl := low.expires
  let el := low.events tl
  let th := if high.chain then high.run && el.ovf else high.expires
  let eh := high.events th
  let lh := low.actsOn high el
  let hl := high.actsOn low eh
  let stepOf := fun (x : Tmr) (ticks : Bool) (e : TickEv) (hit mine : Bool) =>
    let y := x.prescale
    if hit then (if mine then y.noted e else y)
    else { y with cnt := if ticks then x.nextCnt else x.cnt }.noted e
  let l := stepOf low tl el hl (lh || (high.chain && th))
  let h := stepOf high th eh lh hl
  (if hl then l.acted high.linkAct else l, if lh then h.acted low.linkAct else h)

/-- The timers count on this bus clock: no freeze and no low power holds them (R464, R465). -/
def State.timersRun (s : State) : Bool := s.isPresent && !s.frozenHeld && !s.timeStands

/-- Counter n as held during this bus clock (R450): before a tick, action or write of it. -/
def State.heldCounter (s : State) (n : Nat) : Tmr := tabGet (s.counter n) s.clk.cnt n

/-- Counter n is kept as held during this bus clock, before its first change on it. -/
def State.noteCounter (s : State) (n : Nat) : State :=
  { s with clk := { s.clk with cnt := tabSet s.clk.cnt n (s.heldCounter n) } }

/-- A counter as it stands and as held before, with what the bus clock makes of the latter: CNT and RUN that software has written on
it stay as written (R450), flags that are set stay set. -/
def Tmr.after (cur old new : Tmr) (ctl cnt : Bool) : Tmr :=
  { (if ctl then cur else cur.setRun new.run) with
    cnt := if cnt then cur.cnt else new.cnt
    phase := if cnt || (ctl && !old.run && cur.run) then 0 else new.phase
    hit := cur.hit || new.hit, ovf := cur.ovf || new.ovf }

/-- What this bus clock makes of counter n, from what it makes of the counter as held. -/
def State.tickCounter (s : State) (n : Nat) (new : Tmr) : State :=
  let old := s.heldCounter n
  ((s.noteCounter n).updCounter n (fun cur =>
    cur.after old new (s.written (tmrCtlOff n)).isSome (s.written (tmrCntOff n)).isSome)).noteSet (tmrStatOff n)
      (pack [(1, 1, b2n new.ovf), (0, 0, b2n new.hit)])

/-- Counter n as held during this bus clock, with no event of it noted yet. -/
def State.freshCounter (s : State) (n : Nat) : Tmr := { s.heldCounter n with hit := false, ovf := false }

/-- TIMER_TICK (R453): one bus clock of the pair of counter n, once. -/
def doTimer (n : Nat) (s : State) : State :=
  if s.timersRun then
    let k := n / 2 * 2
    let p := pairClock (s.freshCounter k) (s.freshCounter (k + 1))
    (s.tickCounter k p.1).tickCounter (k + 1) p.2
  else s

/-- TIMER_TICK (R453). -/
def execTimerTick (n : Fin 32) (s : State) : Result := .next (doTimer n.val s)

/-- A write of CNT (R452): PHASE returns to 0. A tick or action on this bus clock does not change it (R450). -/
def State.writeCnt (s : State) (n v : Nat) : State :=
  ((s.noteCounter n).noteWrite (tmrCntOff n) (BitVec.ofNat 64 v)).updCounter n (fun x => { x with cnt := v % 2 ^ 32, phase := 0 })

/-- A write of TMR_CTL[n] (R451): PRESC and CHAIN only where RUN was held at 0, CHAIN on odd counters, MATCH_ACT never 3; PHASE is 0
when RUN rises. -/
def State.writeTmrCtl (s : State) (n : Nat) (v : Word) : State :=
  let ran := (s.heldCounter n).run
  ((s.noteCounter n).noteWrite (tmrCtlOff n) v).updCounter n (fun x =>
    let m := mask 15 12 ||| mask 3 2 ||| mask 0 0 ||| (if fld v 9 8 = 3 then 0 else mask 9 8) |||
      (if ran then 0 else mask 19 16 ||| (if n % 2 = 1 then mask 4 4 else 0))
    { x with ctl := merge m x.ctl v, phase := if !ran && bit v 0 then 0 else x.phase })

/-- A write of TMR_CMP[n] (R452): the tick of this bus clock still compares with the value held (R450). -/
def State.writeCmp (s : State) (n v : Nat) : State := (s.noteCounter n).updCounter n (fun x => { x with cmp := v })

/-- A write of TMR_STAT[n] clears the flags it names (R452). -/
def State.clearTmr (s : State) (n : Nat) (w : Word) : State :=
  (s.noteCounter n).updCounter n (fun x => { x with ovf := x.ovf && !bit w 1, hit := x.hit && !bit w 0 })

/-- TMR_STAT (R452). -/
def Tmr.stat (x : Tmr) : Word := pack [(30, 16, x.phase), (1, 1, b2n x.ovf), (0, 0, b2n x.hit)]

/-- TMR_CNT (R452, R455), as held during this bus clock (R450). -/
def State.cntWord (s : State) (n : Nat) : Word :=
  pack [(63, 32, (s.heldCounter (n ^^^ 1)).cnt), (31, 0, (s.heldCounter n).cnt)]

/-! ### Capture inputs (R457 to R460) -/

/-- Fields of CAP_CTL (R457). -/
def Cap.en (c : Cap) : Bool := bit c.ctl 0
def Cap.edge (c : Cap) : Nat := fld c.ctl 5 4
def Cap.cntr (c : Cap) : Nat := fld c.ctl 12 8
def Cap.div (c : Cap) : Nat := fld c.ctl 31 24

/-- F (R457). -/
def Cap.filter (c : Cap) : Nat := fld c.ctl 23 16 + 1

/-- A filtered edge to a level qualifies (R457). -/
def Cap.qualifies (c : Cap) (level : Bool) : Bool := c.edge == 2 || (c.edge == 0 && level) || (c.edge == 1 && !level)

/-- The value an edge captures (R459): as held during this bus clock. -/
def State.capture64 (s : State) (n : Nat) : Word :=
  let high := if n % 2 = 0 ∧ (s.heldCounter (n + 1)).chain then (s.heldCounter (n + 1)).cnt else 0
  pack [(63, 32, high), (31, 0, (s.heldCounter n).cnt)]

/-- Capture inputs act: the block is Present and no stay in low power holds them, its two edges included (R62, R466). -/
def State.capsRun (s : State) : Bool := s.isPresent && !s.pwr.timeHeld && s.clk.exit.isNone

/-- Input i as held during this bus clock (R450): before a capture, an edge, a read or a write of it. -/
def State.heldCap (s : State) (i : Nat) : Cap := tabGet (s.capture i) s.clk.cap i

/-- Input i changes on this bus clock: it is kept as held before its first change on it. -/
def State.changeCap (s : State) (i : Nat) (f : Cap → Cap) : State :=
  { s with clk := { s.clk with cap := tabSet s.clk.cap i (s.heldCap i) } }.updCapture i f

/-- The synchronised level of input i on this bus clock (R458). -/
def State.sampleCap (s : State) (i : Nat) (y : Bool) : State :=
  s.updCapture i (fun c => if c.y == y then c else { c with y, yAt := s.now })

/-- The filtered level of input i changes at the end of this bus clock: CAP_CTL as held has EN set, and y has differed from LEVEL
for F bus clocks, this one the last (R458). -/
def State.filtered (s : State) (i : Nat) : Bool :=
  let c := s.capture i
  (s.heldCap i).en && c.y != c.level && decide ((s.heldCap i).filter ≤ s.now + 1 - c.yAt)

/-- Whether input i has captured on this bus clock, and if so whether it replaced an unread value. -/
def State.captured (s : State) (i : Nat) : Option Bool := (s.clk.took.find? (fun p => p.1 == i)).map (·.2)

/-- A filtered edge of input i that qualifies, on a bus clock on which it has not captured (R459). -/
def State.qualified (s : State) (i : Nat) : Bool :=
  s.filtered i && (s.heldCap i).qualifies (s.capture i).y && (s.captured i).isNone

/-- A qualifying edge within the divisor only counts; past it, it captures, and an unread value that it replaces is an overrun
(R459, R460). -/
def State.qualify (s : State) (i : Nat) : State :=
  let c := s.capture i
  if c.divcnt < (s.heldCap i).div then s.changeCap i (fun c => { c with level := c.y, divcnt := c.divcnt + 1 })
  else
    let v := s.capture64 (s.heldCap i).cntr
    let s' := s.changeCap i (fun c => { c with level := c.y, divcnt := 0, val := v, pending := true, ovr := c.ovr || c.pending })
    let s' := { s' with clk := { s'.clk with took := tabSet s'.clk.took i c.pending } }
    if c.pending then (s'.noteSet (capStatOff i) 2).raise 77 0 0 none else s'

/-- CAPTURE_EDGE (R458, R459): the level of the input on this bus clock is `level`; if that completes the filter and the edge
qualifies, it counts or captures. -/
def doCapture (i : Nat) (level : Bool) (s : State) : State :=
  let s := s.sampleCap i level
  if s.capsRun && s.qualified i then s.qualify i else s

/-- CAPTURE_EDGE (R459). -/
def execCaptureEdge (i : Fin 8) (level : Bool) (s : State) : Result := .next (doCapture i.val level s)

/-- A filtered edge of input i that does not qualify, or the level of an input whose EN is 0, moves LEVEL (R458). -/
def State.follows (s : State) (i : Nat) : Bool :=
  let c := s.heldCap i
  (!c.en && (s.capture i).y != (s.capture i).level) || (s.filtered i && !c.qualifies (s.capture i).y)

/-- FILTERED_EDGE (R458): the level of the input on this bus clock is `level`; LEVEL follows it if EN is 0 or if that completes the
filter and the edge does not qualify. -/
def doFiltered (i : Nat) (level : Bool) (s : State) : State :=
  let s := s.sampleCap i level
  if s.capsRun && s.follows i then s.changeCap i (fun c => { c with level := c.y }) else s

/-- FILTERED_EDGE (R458). -/
def execFilteredEdge (i : Fin 8) (level : Bool) (s : State) : Result := .next (doFiltered i.val level s)

/-- A read of CAP_VAL sampled on this bus clock (R460): it returns VAL as held and clears PENDING. With a capture on the same bus
clock PENDING stays, and the value held before counts as read: no overrun. -/
def State.capRead (s : State) (i : Nat) : State :=
  match s.captured i with
  | none => s.changeCap i (fun c => { c with pending := false })
  | some false => s
  | some true =>
    let s := s.updCapture i (fun c => { c with ovr := c.ovr && (s.heldCap i).ovr })
    { s with
      clk := { s.clk with took := tabSet s.clk.took i false }
      flt := { s.flt with waiting := dropFirst (fun d => d.source == 77) s.flt.waiting } }

/-- VAL of input i as held during this bus clock. -/
def State.capVal (s : State) (i : Nat) : Word := (s.heldCap i).val

/-- A write of CAP_CTL[i] (R457, R458): DIV, FILT, CNTR and EDGE only where EN was held at 0; a FILT of 0 is stored as 1, and an
EDGE of 3 changes nothing. When EN rises LEVEL is set to the input, and DIVCNT and PENDING are cleared. -/
def State.writeCapCtl (s : State) (i : Nat) (v : Word) : State :=
  let was := (s.heldCap i).en
  s.changeCap i (fun c =>
    let w := if fld v 23 16 = 0 then setFld v 23 16 1 else v
    let m := mask 2 0 ||| (if was then 0 else mask 31 16 ||| mask 12 8 ||| (if fld v 5 4 = 3 then 0 else mask 5 4))
    let c := { c with ctl := merge m c.ctl w }
    if !was && bit v 0 then { c with divcnt := 0, pending := false, level := c.y } else c)

/-- A write of CAP_STAT[i] that clears OVR (R457). -/
def State.clearCap (s : State) (i : Nat) (w : Word) : State := s.changeCap i (fun c => { c with ovr := c.ovr && !bit w 1 })

/-- CAP_STAT (R457). -/
def Cap.stat (c : Cap) : Word :=
  pack [(47, 40, c.divcnt), (2, 2, b2n c.level), (1, 1, b2n c.ovr), (0, 0, b2n c.pending)]

/-- A timer interrupt source is pending (R462). -/
def State.tmrIrq (s : State) (k : Nat) : Bool :=
  if k < 32 then
    let x := s.counter k
    (x.hit && bit x.ctl 2) || (x.ovf && bit x.ctl 3)
  else
    let c := s.capture (k - 32)
    (c.pending && bit c.ctl 1) || (c.ovr && bit c.ctl 2)

/-! ### Debug halt (R463, R464) -/

/-- A state after a change of HALT or FREEZE: at the end of a freeze a slaved bell acquires (R74, R511 N13). -/
def State.thawed (before after : State) : State :=
  if before.frozen && !after.frozen then { after with bell := { after.bell with locked := false } } else after

/-- DBG_CTL.HALT changes (R62, R463). -/
def State.setHalt (s : State) (v : Bool) : State :=
  if s.isPresent then State.thawed s { s.noteDbg with glb := { s.glb with halt := v } } else s

/-- DEBUG_HALT_ASSERT (R464). -/
def execDebugHaltAssert (s : State) : Result := .next (s.setHalt true)

/-- DEBUG_HALT_RELEASE (R464). -/
def execDebugHaltRelease (s : State) : Result := .next (s.setHalt false)

/-- DBG_CTL.FREEZE is written (R463, R464). -/
def State.setFreeze (s : State) (v : Bool) : State := State.thawed s { s.noteDbg with glb := { s.glb with freeze := v } }

/-! ### Dead reckoning (R466 to R471) -/

/-- What n ticks make of a counter that nothing stops, and how many matches and overflows they pass (R453). -/
structure Made where
  cnt  : Nat
  hits : Nat
  ovfs : Nat
  deriving DecidableEq, Repr

/-- Ticks modulo 2^32. -/
def madeFree (cnt cmp n : Nat) : Made :=
  let m := 2 ^ 32
  { cnt := (cnt + n) % m, ovfs := (cnt + n) / m, hits := (cnt + n + m - cmp) / m - (cnt + m - cmp) / m }

/-- Ticks of a counter that wraps at CMP. -/
def madeWrap (cnt cmp n : Nat) : Made :=
  let p := cmp + 1
  let loop := fun c n : Nat => ({ cnt := (c + n) % p, ovfs := (c + n) / p, hits := (c + n + 1) / p - (c + 1) / p } : Made)
  if cnt ≤ cmp then loop cnt n
  else if n < 2 ^ 32 - cnt then { cnt := cnt + n, ovfs := 0, hits := 0 }
  else
    let r := loop 0 (n - (2 ^ 32 - cnt))
    { r with ovfs := r.ovfs + 1, hits := r.hits + b2n (cmp == 0) }

/-- Ticks until a counter next equals CMP. -/
def toMatch (cnt cmp : Nat) : Nat := (cmp + 2 ^ 32 - cnt - 1) % 2 ^ 32 + 1

/-- A counter after n ticks, and its overflows (R468): its MATCH_ACT is applied. -/
def Tmr.makeUp (x : Tmr) (n : Nat) : Tmr × Nat × TickEv :=
  let put := fun (r : Made) (stop : Bool) =>
    let e : TickEv := { hit := r.hits != 0, ovf := r.ovfs != 0 }
    let y := { x with cnt := r.cnt, hit := x.hit || e.hit, ovf := x.ovf || e.ovf }
    (if stop then { y.setRun false with phase := 0 } else y, r.ovfs, e)
  match x.matchAct with
  | 1 => put (madeWrap x.cnt x.cmp n) false
  | 2 =>
    let d := toMatch x.cnt x.cmp
    if n < d then put (madeFree x.cnt x.cmp n) false else put (madeFree x.cnt x.cmp d) true
  | _ => put (madeFree x.cnt x.cmp n) false

/-- A counter that counts bus clocks after e of them; `ran` says that it counted at the entry edge. -/
def Tmr.makeUpClocks (x : Tmr) (ran : Bool) (e : Nat) : Tmr × Nat × TickEv :=
  if !ran then (x, 0, { hit := false, ovf := false })
  else
    let all := x.phase + e
    ({ x with phase := all % 2 ^ x.presc }).makeUp (all / 2 ^ x.presc)

/-- A chained counter after the overflows of its partner. -/
def Tmr.makeUpChain (x : Tmr) (ran : Bool) (n : Nat) : Tmr × Nat × TickEv :=
  if !ran then (x, 0, { hit := false, ovf := false })
  else
    let r := x.makeUp n
    ({ r.1 with phase := x.phase }, r.2)

/-- A pair after e bus clocks: both counters first, then the actions on the partners (R468). -/
def pairMakeUp (low high : Tmr) (ranL ranH : Bool) (e : Nat) : Tmr × Tmr :=
  let (l, n, el) := low.makeUpClocks ranL e
  let (h, _, eh) := if high.chain then high.makeUpChain ranH n else high.makeUpClocks ranH e
  (if high.links eh then l.acted high.linkAct else l, if low.links el then h.acted low.linkAct else h)

/-- The counters that counted at the entry edge made up by e bus clocks from the values held (R468); what software writes on the
bus clock of the exit edge stays as written (R450). -/
def State.makeUpTimers (s : State) (e : Nat) : State :=
  (List.range 16).foldl (fun s k =>
    let p := pairMakeUp (s.freshCounter (2 * k)) (s.freshCounter (2 * k + 1)) (s.pwr.ran.contains (2 * k))
      (s.pwr.ran.contains (2 * k + 1)) e
    (s.tickCounter (2 * k) p.1).tickCounter (2 * k + 1) p.2) s

/-- The bell made up by e bus clocks (R469); a slaved one acquires (R74). -/
def Bell.makeUp (b : Bell) (e : Nat) : Bell :=
  { b with pos := (b.pos + e) % b.period, glass := (b.glass + (b.pos + e) / b.period) % 2 ^ 64, locked := false }

/-- Capture inputs at the exit edge: filter and DIVCNT restart at the levels of the inputs (R466). -/
def State.restartCaps (s : State) (levels : BitVec 8) : State :=
  (List.range 8).foldl (fun s i =>
    (s.sampleCap i (levels.getLsbD i)).changeCap i (fun c => { c with level := c.y, divcnt := 0 })) s

/-- Counters and captures at the exit edge (R466, R468). -/
def State.caughtUp (s : State) (e : Nat) (caps : BitVec 8) : State := (s.makeUpTimers e).restartCaps caps

/-- The bell made up (R469); a made-up bell begins a glass of which nothing has been counted (R102, R103, R107). -/
def State.makeUpBell (s : State) (e : Nat) : State :=
  if !s.bell.running then s
  else
    let s' := if s.bell.period ≤ s.bell.pos + e then s.newGlass else s
    { s' with bell := s.bell.makeUp e }

/-- DR_STAT and DR_MADE (R471). -/
def Timers.drStat (t : Timers) : Word := pack [(63, 24, t.slow), (23, 17, t.frac), (2, 2, b2n t.sat), (1, 1, b2n t.noedge)]

/-- The registers of the reckoning, the bell and the polls at the exit edge (R466 to R471), after a stay of x / 128 bus clocks. -/
def State.atExit (s : State) (slow x : Nat) (edge : Bool) : State :=
  let s := s.makeUpBell (x / 128)
  { s with
    clk := { s.clk with exit := some (s.tmr.drStat, s.tmr.made) }
    tmr := { s.tmr with
      slow := min slow (2 ^ 40 - 1), frac := x % 128, sat := decide (2 ^ 40 - 1 < slow), noedge := s.pwr.noedge || !edge
      made := BitVec.ofNat 64 (x / 128) }
    pwr := { s.pwr with timeHeld := false, exitWait := false, edges := 0, ran := [] }
    queues := s.queues.map (fun q =>
      (q.1, if s.up && q.2.state == .polling then { q.2 with due := s.age + 1, waiting := false } else q.2)) }

/-- The stay in 128ths of a bus clock (R467): 1,953,125 for each slow edge, and the remainder of the stays before. -/
def State.stay (s : State) (slow : Nat) : Nat := min slow (2 ^ 40 - 1) * 1953125 + s.tmr.frac

/-- DEAD_RECKONING (R466 to R471): the exit edge, with the slow edges before it that no ENTRY_EDGE has brought, whether it is an edge,
and the levels of the capture inputs. The 32,000th bus clock of the wait serves at the latest. -/
def doReckoning (edges : Nat) (edge : Bool) (caps : BitVec 8) (s : State) : State :=
  let late := s.pwr.exitFrom + 32000 ≤ s.now
  if !s.isPresent || !s.pwr.exitWait || !(edge || late) then s
  else
    let seen := edge && s.now ≤ s.pwr.exitFrom + 32000
    let slow := s.pwr.edges + edges + b2n edge
    let s' := (s.caughtUp (s.stay slow / 128) caps).atExit slow (s.stay slow) seen
    if slow = 0 then s'.raise 7 0 0 none else s'

/-- DEAD_RECKONING (R467). -/
def execDeadReckoning (edges : Nat) (edge : Bool) (caps : BitVec 8) (s : State) : Result :=
  .next (doReckoning edges edge caps s)

end Sys2Proof.Machine
end

