-- ==== Sys2Proof/Machine/Power.lean ====
section
/-! DEFINITION. Power phases, wake, the droop sensor, calibration and temperature (13). -/

namespace Sys2Proof.Machine

open Sys2Proof

/-! ### Entry (R475, R476, R479) -/

/-- A write of TARGET = 1 or 2 (R475, R476): in RUN it begins the entry, and polls not issued are given up; before the quiescence
point it selects the state entered; from then on TARGET does not change. -/
def State.targetLow (s : State) (t : Nat) : State :=
  match s.pwr.phase with
  | .run =>
    let s := s.queueLines (fun _ => true)
    { s with
      pwr := { s.pwr with phase := .entering, target := t, quiesced := false, held := none }
      queues := s.queues.map (fun q => (q.1, { q.2 with waiting := false })) }
  | .entering => if s.pwr.quiesced then s else { s with pwr := { s.pwr with target := t } }
  | _ => s

/-- A write of TARGET = 0 (R475): before the quiescence point it returns the block to RUN. -/
def State.targetRun (s : State) : State :=
  match s.pwr.phase with
  | .entering => if s.pwr.quiesced then s else { s with pwr := { s.pwr with phase := .run, target := 0 } }
  | _ => s

/-- A write of TARGET (R474); 3 changes nothing. -/
def State.writeTarget (s : State) (t : Nat) : State :=
  if t = 0 then s.targetRun else if t = 3 then s else s.targetLow t

/-- A slot kept occupied after a timeout does not count (R186, R345, R374). -/
def keptSlot (o : Owner) : Bool := o.isLate

/-- No request is outstanding or waiting on any port, but for those that ENTERING does not issue (R475), and no record, interrupt
write or overwrite is due (R476). -/
def State.portsIdle (s : State) : Bool :=
  s.ports.all (fun p => p.2.rd.all (fun r => keptSlot r.owner) && p.2.wr.all (fun w => w.stuck) &&
      p.2.ctl.all (fun r => newOwner r.owner)) &&
    s.fabs.all (fun p => p.2.slots.all (fun l => keptSlot l.owner) && p.2.tx.isEmpty) && s.inbs.isEmpty &&
    s.insts.all (fun p => p.2.evOut.isNone && (p.2.evWait.isEmpty || !p.2.evtEn) && !p.2.msiOut && p.2.msiTrig.isNone && p.2.state != .containing) &&
    s.queues.all (fun p => p.2.entries.all (fun e => (e.ovr == .none && !s.ovrReady p.1 p.2 e) || e.ovr == .accepted))

/-- The conditions of the quiescence point (R476, R508). -/
def State.quiescent (s : State) : Bool :=
  !s.frozen && s.frags.all (fun f => !f.held) && s.portsIdle && s.logc.all (fun l => l.bits.isEmpty && l.flush == .idle) &&
    s.pur.cur.isNone && s.pur.defer.isEmpty && !s.glb.ccGo && !s.glb.swapGo

/-- QUIESCENCE_POINT (R476). -/
def doQuiesce (s : State) : State :=
  if s.up && s.pwr.phase == .entering && !s.pwr.quiesced && s.quiescent then
    { s with pwr := { s.pwr with quiesced := true, waitFrom := s.now, held := none } }
  else s

/-- QUIESCENCE_POINT (R476). -/
def execQuiescencePoint (s : State) : Result := .next (doQuiesce s)

/-- The entry edge is awaited: the exit edge of the stay before it has come (R465, R466). -/
def State.entryWait (s : State) : Bool := s.isPresent && s.pwr.phase == .entering && s.pwr.quiesced && !s.pwr.exitWait

/-- Counters that count on this bus clock: RUN 1 and no freeze (R468). -/
def State.counting (s : State) : List Nat := if s.frozenHeld then [] else (List.range 32).filter (fun n => (s.counter n).run)

/-- ENTRY_EDGE (R465, R476): a slow edge, or the 32,000th bus clock, is the entry edge; a later slow edge of the stay is counted
(R466). -/
def doEntryEdge (edge : Bool) (s : State) : State :=
  if s.entryWait && (edge || s.pwr.waitFrom + 32000 ≤ s.now) then
    { s with pwr := { s.pwr with
      phase := if s.pwr.target = 2 then .sleep else .doze, timeHeld := true, noedge := !edge, lowAt := s.now, edges := 0
      ran := s.counting } }
  else if edge && s.isPresent && s.pwr.timeHeld && !s.pwr.exitWait then
    { s with pwr := { s.pwr with edges := s.pwr.edges + 1 } }
  else s

/-- ENTRY_EDGE (R465). -/
def execEntryEdge (edge : Bool) (s : State) : Result := .next (doEntryEdge edge s)

/-! ### Wake (R477, R478) -/

/-- WAKE_EVENT (R477): TT_WAKE and inbound flits do not reach an isolated block (R60, R62); a flit wakes on a port whose LINKUP is
high. -/
def doWake (c : WakeCause) (port : Nat) (s : State) : State :=
  if !s.isPresent then s
  else
    match c with
    | .pin => if s.isolated then s else s.wakeBy c
    | .fabric => if !s.isolated && (s.fab port).linkup then s.wakeBy c else s
    | _ => s.wakeBy c

/-- WAKE_EVENT (R477). -/
def execWakeEvent (cause : WakeCause) (port : Fin 4) (s : State) : Result := .next (doWake cause port.val s)

/-- The holds after a wake from SLEEP: zero, every bank EMPTY, every engine IDLE (R478). -/
def State.clearHolds (s : State) : State :=
  { s with hold := [], engs := s.engs.map (fun e => (e.1, { e.2 with halted := false, clearing := false })) }

/-- A clear of an engine goes on where the entry edge left it, or begins if it was released since (R150, R473, R477). -/
def State.clearsGoOn (s : State) : State :=
  { s with engs := s.engs.map (fun e => (e.1, { e.2 with clearAt := s.now - (s.pwr.lowAt - e.2.clearAt) })) }

/-- The next step of start-up. -/
def State.toStep (s : State) (n : Nat) : State := { s with pwr := { s.pwr with step := n } }

/-- STATE of the Purser; only a block reset leaves HALTED (R285). -/
def State.purState (s : State) (n : Nat) : State := { s with pur := { s.pur with state := if s.pur.state = 5 then 5 else n } }

/-- START_CTL.LOAD (R490): in IMAGE_WAIT it begins the image reads with the one that holds the header (R491). -/
def State.startLoad (s : State) : State :=
  if s.up && s.pwr.step == 3 then
    let s := (s.toStep 4).purState 1
    let a := s.pur.img.toNat
    { s with pur := { s.pur with acc := some { image := true, addr := a, data := zeros 256, reqs := imageReads a 0 256, at_ := s.now } } }.purGo
  else s

/-- What a write of a stay in low power steers (R477, R507). -/
def State.runLater (s : State) : Later → State
  | .pause n => s.pauseActs n
  | .chCmd n all v => s.chCmd n all v
  | .enable i q on => doEnable i q on s
  | .release i q skip => if skip then doSkip i q s else doRetry i q s
  | .invalidate => if s.glb.ccGo then s.ccStart else s
  | .load => s.startLoad

/-- RUN is reached (R478). -/
def State.reachRun (s : State) : State :=
  { s with
    pwr := { s.pwr with phase := .run, target := 0, quiesced := false, exitWait := true, exitFrom := s.now, later := [] }
    bell := { s.bell with noAdmit := true } }

/-- WAKE_COMPLETE (R478): RUN is reached, what the writes of the stay steer begins, and the level ports are sampled again. -/
def doWakeComplete (levels : List (Fin 512 × BitVec 12)) (s : State) : State :=
  if s.isPresent && s.pwr.phase == .waking then
    let t := (if s.pwr.target = 2 then s.clearHolds else s).clearsGoOn.reachRun
    if s.up then levels.foldl (fun s l => s.chLevel l.1.val l.2.toNat) (s.pwr.later.foldl State.runLater t) else t
  else s

/-- WAKE_COMPLETE (R478). -/
def execWakeComplete (levels : List (Fin 512 × BitVec 12)) (s : State) : Result := .next (doWakeComplete levels s)

/-- LEVEL_CROSSING (R44, R177): a level sampled in RUN; an absent or isolated block ignores the level ports (R62), and in
low power they are not sampled (R478). -/
def doLevel (n level : Nat) (s : State) : State :=
  if s.up && s.pwr.clocked then s.chLevel n level else s

/-- LEVEL_CROSSING (R177). -/
def execLevelCrossing (n : Fin 512) (level : BitVec 12) (s : State) : Result := .next (doLevel n.val level.toNat s)

/-! ### Calibration (R485 to R487) -/

/-- A calibration field: word, highest and lowest bit, and its range. -/
structure CalField where
  k  : Nat
  hi : Nat
  lo : Nat
  deriving DecidableEq, Repr

/-- The fields of R485 in order: L1, L2, L3, HYST, FLOOR, BIN, BOUT, MP[c], FP[f]. -/
def calFields : List CalField :=
  [⟨0, 7, 0⟩, ⟨0, 15, 8⟩, ⟨0, 23, 16⟩, ⟨1, 31, 24⟩, ⟨1, 39, 32⟩, ⟨1, 5, 0⟩, ⟨1, 13, 8⟩] ++
    (List.range 8).map (fun c => ⟨2, 8 * c + 5, 8 * c⟩) ++ (List.range 4).map (fun f => ⟨3, 8 * f + 5, 8 * f⟩)

/-- The bits of CAL_FUSEk, CAL_OFSk and CAL_EFFk that hold fields. -/
def calMask (k : Nat) : Word := (calFields.filter (fun c => c.k == k)).foldl (fun m c => m ||| mask c.hi c.lo) 0

/-- Word k of a list of words. -/
def wordAt (l : List Word) (k : Nat) : Word := l.getD k 0

/-- A two's-complement field. -/
def signedFld (w : Word) (hi lo : Nat) : Int :=
  let v := fld w hi lo
  if v < 2 ^ (hi - lo) then v else (v : Int) - 2 ^ (hi + 1 - lo)

/-- Fuse plus offset of a field, not yet clamped (R486). -/
def Droop.sum (d : Droop) (k hi lo : Nat) : Int := (fld (wordAt d.fuse k) hi lo : Int) + signedFld (wordAt d.ofs k) hi lo

/-- A value within a range. -/
def clamp (lo hi v : Int) : Int := if v < lo then lo else if hi < v then hi else v

/-- The effective values of L1, L2 and L3, evaluated from top to bottom (R486). -/
def Droop.l1 (d : Droop) : Nat := (clamp 4 78 (d.sum 0 7 0)).toNat
def Droop.l2 (d : Droop) : Nat := (clamp (d.l1 + 1) 79 (d.sum 0 15 8)).toNat
def Droop.l3 (d : Droop) : Nat := (clamp (d.l2 + 1) 80 (d.sum 0 23 16)).toNat

/-- The range of a field (R486). -/
def Droop.range (d : Droop) (c : CalField) : Int × Int :=
  if c.k = 0 then (if c.lo = 0 then (4, 78) else if c.lo = 8 then ((d.l1 : Int) + 1, 79) else ((d.l2 : Int) + 1, 80))
  else if c.k = 1 ∧ c.lo = 32 then (40, 100)
  else if c.k = 1 ∧ c.lo = 24 then (1, 16)
  else (0, 63)

/-- The effective value of a field (R486). -/
def Droop.effOf (d : Droop) (c : CalField) : Int := clamp (d.range c).1 (d.range c).2 (d.sum c.k c.hi c.lo)

/-- CAL_EFFk (R486). -/
def Droop.eff (d : Droop) (k : Nat) : Word :=
  (calFields.filter (fun c => c.k == k)).foldl (fun w c => setFld w c.hi c.lo (d.effOf c).toNat) 0

/-- A clamp changes a value of words k (R486). -/
def Droop.clamps (d : Droop) (ks : List Nat) : Bool :=
  calFields.any (fun c => ks.contains c.k && d.effOf c != d.sum c.k c.hi c.lo)

/-- A write of CAL_OFSk (R486, R487): words 2 and 3 only in IMAGE_WAIT. -/
def State.writeOfs (s : State) (k : Nat) (v : Word) : State :=
  if 2 ≤ k ∧ s.pwr.step ≠ 3 then s
  else
    let d := { s.droop with ofs := (List.range 4).map (fun j => if j = k then v &&& calMask k else wordAt s.droop.ofs j) }
    let s' : State := { s with droop := d }
    if d.loaded && d.clamps [k] then s'.raise 75 0 0 none else s'

/-! ### The droop sensor and the clock step (R480 to R484) -/

/-- HYST and FLOOR in use. -/
def Droop.hyst (d : Droop) : Nat := fld (d.eff 1) 31 24
def Droop.floor (d : Droop) : Nat := fld (d.eff 1) 39 32

/-- The depth of level k. -/
def Droop.depth (d : Droop) (k : Nat) : Nat := if k = 1 then d.l1 else if k = 2 then d.l2 else d.l3

/-- Level k is tripped: the rail, in µV, is below its threshold (R480). -/
def Droop.tripped (d : Droop) (k : Nat) : Bool :=
  d.rail * 400 < d.vref * (400 - d.depth k) || (k == 3 && d.rail < 500000 + d.floor * 2500)

/-- The rail is good at the step held (R481). -/
def Droop.railGood (d : Droop) : Bool :=
  let k := d.step
  d.vref * (400 + d.hyst - d.depth k) ≤ d.rail * 400 && (k != 3 || 500000 + (d.floor + d.hyst) * 2500 ≤ d.rail)

/-- The deepest level tripped (R484). -/
def Droop.deepest (d : Droop) : Nat := if d.tripped 3 then 3 else if d.tripped 2 then 2 else if d.tripped 1 then 1 else 0

/-- The droop response runs: from the start of MEMINIT (R489). -/
def State.droopRuns (s : State) : Bool := s.isPresent && 2 ≤ s.pwr.step

/-- The level sources of the clock step change with it (R482): 68 DROOP_875, 69 DROOP_75, 70 DROOP_50. -/
def State.stepLevels (s : State) (before after : Nat) : State :=
  [1, 2, 3].foldl (fun s k =>
    if before < k ∧ k ≤ after then s.level (67 + k) 0 0 true
    else if after < k ∧ k ≤ before then s.level (67 + k) 0 0 false
    else s) s

/-- The clock step changes (R481, R482); GLS_STEP.MIN follows the lowest step of the glass, and glass 0 begins with the step that
MEMINIT leaves (R102, R489). -/
def State.setStep (s : State) (n : Nat) : State :=
  let was := s.droop.step
  ({ s with
    droop := { s.droop with step := n, good := 0 }
    gls := { s.gls with stepNow := if s.bell.running then max s.gls.stepNow n else n } }).stepLevels was n

/-- DROOP_TRIP (R480, R484): the rail and its reference are as given. Levels that trip are counted, and a deeper one lowers
the step. -/
def doDroop (rail vref : Nat) (s : State) : State :=
  if !s.droopRuns then s
  else
    let was := s.droop
    let d := { was with rail, vref }
    let new := fun k => d.tripped k && !was.on.contains k
    let d := { d with level := d.deepest, on := [1, 2, 3].filter d.tripped }
    let s' := { s with droop := d }.unlessWritten 0x8028 (fun s => { s with droop := { s.droop with
      trip1 := satAdd 16 d.trip1 (b2n (new 1)), trip2 := satAdd 16 d.trip2 (b2n (new 2))
      trip3 := satAdd 16 d.trip3 (b2n (new 3)) } })
    if d.step < d.level then s'.setStep d.level else s'

/-- DROOP_TRIP (R480). -/
def execDroopTrip (rail vref : Nat) (s : State) : Result := .next (doDroop rail vref s)

/-- GOOD after a bus clock that does not raise the step (R481). -/
def Droop.count (d : Droop) : Droop :=
  if d.step = 0 ∨ !d.railGood then { d with good := 0 } else { d with good := min 499 (d.good + 1) }

/-- STEP_RISE (R481): GOOD would reach 500. -/
def doStepRise (s : State) : State :=
  if s.droopRuns && s.droop.step != 0 && s.droop.railGood && 499 ≤ s.droop.good then s.setStep (s.droop.step - 1) else s

/-- STEP_RISE (R481). -/
def execStepRise (s : State) : Result := .next (doStepRise s)

/-- The larger of two corrections in magnitude. -/
def larger (a b : Int) : Int := if a.natAbs < b.natAbs then b else a

/-- DROOP_SELF_TRIM (R483, R484): 4,096 bells after the last one, the comparator whose turn it is takes its correction; a
round is one correction of each of the six. -/
def doSelfTrim (c : Int) (s : State) : State :=
  if !s.droopRuns || s.frozen || s.droop.bells < 4096 then s
  else
    let d := s.droop
    let trims := (List.range 6).map (fun j => d.trims.getD j 0 + if j = d.turn then clamp (-2) 2 c else 0)
    let most := larger d.round c
    let last := d.turn == 5
    let s' : State := { s with droop := { d with
      bells := 0, trims, turn := (d.turn + 1) % 6, round := if last then 0 else most, drift := if last then most else d.drift } }
    if 2 < c.natAbs then s'.raise 71 0 0 none else s'

/-- DROOP_SELF_TRIM (R483). -/
def execDroopSelfTrim (correction : Int) (s : State) : Result := .next (doSelfTrim correction s)

/-- TEMP_SAMPLE (R474, R413): the level source above 105 °C, and the event above 125 °C as the temperature rises past it. -/
def doTemp (t : BitVec 8) (s : State) : State :=
  if !s.droopRuns then s
  else
    let was := s.pwr.temp.toInt
    let s' : State := { s with pwr := { s.pwr with temp := t } }
    let s' := if (decide (105 < was)) != decide (105 < t.toInt) then s'.level 73 0 0 (105 < t.toInt) else s'
    if 125 < t.toInt ∧ ¬ 125 < was then s'.raise 74 0 0 none else s'

/-- TEMP_SAMPLE (R474). -/
def execTempSample (temp : BitVec 8) (s : State) : Result := .next (doTemp temp s)

/-- CODE_RECHECK (R493): 65,536 bells after the last one. -/
def doRecheck (same : Bool) (s : State) : State :=
  if !s.isPresent || !s.pwr.clocked || s.pwr.step != 7 || s.droop.recheck < 65536 then s
  else
    let s' : State := { s with droop := { s.droop with recheck := 0 } }
    if same then s' else s'.raise 48 4 0 none (s.purDetail 0)

/-- CODE_RECHECK (R493). -/
def execCodeRecheck (same : Bool) (s : State) : Result := .next (doRecheck same s)

end Sys2Proof.Machine
end

