-- ==== Sys2Proof/Machine/Crypto.lean ====
section
/-! DEFINITION. The two public standards that the spec names for the authentication of an image (R485, R492, R493): SHA-384 and the
ECDSA check over NIST P-384. PRESUMED (log 1): their algorithms and constants are those of FIPS 180-4, FIPS 186-5 and SEC 2. -/

namespace Sys2Proof.Machine

open Sys2Proof

/-! ### SHA-384 -/

/-- The number that bytes give, most significant first. -/
def beNat (l : List Byte) : Nat := l.foldl (fun n b => 256 * n + b.toNat) 0

/-- The n bytes of a number, most significant first. -/
def beBytes (n v : Nat) : List Byte := (leBytes n v).reverse

/-- A 64-bit number turned right by k bits. -/
def rotr (k x : Nat) : Nat := (x >>> k) ||| ((x <<< (64 - k)) % 2 ^ 64)

/-- The round constants. -/
def shaK : List Nat :=
  [0x428A2F98D728AE22, 0x7137449123EF65CD, 0xB5C0FBCFEC4D3B2F, 0xE9B5DBA58189DBBC,
   0x3956C25BF348B538, 0x59F111F1B605D019, 0x923F82A4AF194F9B, 0xAB1C5ED5DA6D8118,
   0xD807AA98A3030242, 0x12835B0145706FBE, 0x243185BE4EE4B28C, 0x550C7DC3D5FFB4E2,
   0x72BE5D74F27B896F, 0x80DEB1FE3B1696B1, 0x9BDC06A725C71235, 0xC19BF174CF692694,
   0xE49B69C19EF14AD2, 0xEFBE4786384F25E3, 0x0FC19DC68B8CD5B5, 0x240CA1CC77AC9C65] ++
  [0x2DE92C6F592B0275, 0x4A7484AA6EA6E483, 0x5CB0A9DCBD41FBD4, 0x76F988DA831153B5,
   0x983E5152EE66DFAB, 0xA831C66D2DB43210, 0xB00327C898FB213F, 0xBF597FC7BEEF0EE4,
   0xC6E00BF33DA88FC2, 0xD5A79147930AA725, 0x06CA6351E003826F, 0x142929670A0E6E70,
   0x27B70A8546D22FFC, 0x2E1B21385C26C926, 0x4D2C6DFC5AC42AED, 0x53380D139D95B3DF,
   0x650A73548BAF63DE, 0x766A0ABB3C77B2A8, 0x81C2C92E47EDAEE6, 0x92722C851482353B] ++
  [0xA2BFE8A14CF10364, 0xA81A664BBC423001, 0xC24B8B70D0F89791, 0xC76C51A30654BE30,
   0xD192E819D6EF5218, 0xD69906245565A910, 0xF40E35855771202A, 0x106AA07032BBD1B8,
   0x19A4C116B8D2D0C8, 0x1E376C085141AB53, 0x2748774CDF8EEB99, 0x34B0BCB5E19B48A8,
   0x391C0CB3C5C95A63, 0x4ED8AA4AE3418ACB, 0x5B9CCA4F7763E373, 0x682E6FF3D6B2B8A3,
   0x748F82EE5DEFB2FC, 0x78A5636F43172F60, 0x84C87814A1F0AB72, 0x8CC702081A6439EC] ++
  [0x90BEFFFA23631E28, 0xA4506CEBDE82BDE9, 0xBEF9A3F7B2C67915, 0xC67178F2E372532B,
   0xCA273ECEEA26619C, 0xD186B8C721C0C207, 0xEADA7DD6CDE0EB1E, 0xF57D4F7FEE6ED178,
   0x06F067AA72176FBA, 0x0A637DC5A2C898A6, 0x113F9804BEF90DAE, 0x1B710B35131C471B,
   0x28DB77F523047D84, 0x32CAAB7B40C72493, 0x3C9EBE0A15C9BEBC, 0x431D67C49C100D4C,
   0x4CC5D4BECB3E42B6, 0x597F299CFC657E2A, 0x5FCB6FAB3AD6FAEC, 0x6C44198C4A475817]

/-- The initial hash value of SHA-384. -/
def shaInit : List Nat :=
  [0xCBBB9D5DC1059ED8, 0x629A292A367CD507, 0x9159015A3070DD17, 0x152FECD8F70E5939,
   0x67332667FFC00B31, 0x8EB44A8768581511, 0xDB0C2E0D64F98FA7, 0x47B5481DBEFA4FA4]

/-- A message with its padding: a 1 bit, 0 bits up to a whole block of 128 B, and the length in bits. -/
def shaPad (m : List Byte) : List Byte := m ++ [0x80] ++ zeros ((239 - m.length % 128) % 128) ++ beBytes 16 (8 * m.length)

/-- The words of a block in order, followed by those that each n more words of the schedule need, newest first. -/
def shaSchedule : Nat → List Nat → List Nat
  | 0, w => w
  | n + 1, w =>
    let x := nth w 14
    let y := nth w 1
    shaSchedule n ((((rotr 19 y ^^^ rotr 61 y ^^^ (y >>> 6)) + nth w 6 + (rotr 1 x ^^^ rotr 8 x ^^^ (x >>> 7)) + nth w 15) % 2 ^ 64) :: w)

/-- One round with a constant and a word of the schedule. -/
def shaRound (h : List Nat) (kw : Nat × Nat) : List Nat :=
  match h with
  | [a, b, c, d, e, f, g, i] =>
    let t := i + (rotr 14 e ^^^ rotr 18 e ^^^ rotr 41 e) + ((e &&& f) ^^^ ((2 ^ 64 - 1 - e) &&& g)) + kw.1 + kw.2
    let u := (rotr 28 a ^^^ rotr 34 a ^^^ rotr 39 a) + ((a &&& b) ^^^ (a &&& c) ^^^ (b &&& c))
    [(t + u) % 2 ^ 64, a, b, c, (d + t) % 2 ^ 64, e, f, g]
  | _ => h

/-- The eight-byte words of a block. -/
def shaWords (b : List Byte) : List Nat := (List.range 16).map (fun k => beNat ((b.drop (8 * k)).take 8))

/-- One block of 128 B is taken in. -/
def shaBlock (h : List Nat) (b : List Byte) : List Nat :=
  let w := (shaSchedule 64 (shaWords b).reverse).reverse
  List.zipWith (fun x y => (x + y) % 2 ^ 64) h ((shaK.zip w).foldl shaRound h)

/-- The first n blocks of a padded message. -/
def shaBlocks : Nat → List Nat → List Byte → List Nat
  | 0, h, _ => h
  | n + 1, h, m => shaBlocks n (shaBlock h (m.take 128)) (m.drop 128)

/-- The SHA-384 digest of a byte string (R485, R493). -/
def sha384 (m : List Byte) : List Byte :=
  let p := shaPad m
  ((shaBlocks (p.length / 128) shaInit p).take 6).flatMap (beBytes 8)

/-! ### ECDSA over NIST P-384 -/

/-- The prime of the field, the order of the base point, and the coefficient b of the curve y² = x³ − 3x + b. -/
def ecP : Nat := 0xfffffffffffffffffffffffffffffffffffffffffffffffffffffffffffffffeffffffff0000000000000000ffffffff
def ecN : Nat := 0xffffffffffffffffffffffffffffffffffffffffffffffffc7634d81f4372ddf581a0db248b0a77aecec196accc52973
def ecB : Nat := 0xb3312fa7e23ee7e4988e056be3f82d19181d9c6efe8141120314088f5013875ac656398d8a2ed19d2a85c8edd3ec2aef

/-- A point as X/Z², Y/Z³; Z is 0 for the point at infinity. -/
structure EcPoint where
  x : Nat
  y : Nat
  z : Nat
  deriving DecidableEq, Repr

/-- The base point. -/
def ecG : EcPoint :=
  { x := 0xaa87ca22be8b05378eb1c71ef320ad746e1d3b628ba79b9859f741e082542a385502f25dbf55296c3a545e3872760ab7
    y := 0x3617de4a96262c6f5d9e98bf9292dc29f8f41dbd289a147ce9da3113b5f0b8c00a60b1ce1d7e819d7a431d7c90ea0e5f
    z := 1 }

/-- The difference of two numbers of the field. -/
def ecSub (a b : Nat) : Nat := (a + ecP - b) % ecP

/-- A point added to itself. -/
def EcPoint.double (a : EcPoint) : EcPoint :=
  let d := a.z * a.z % ecP
  let g := a.y * a.y % ecP
  let b := a.x * g % ecP
  let m := 3 * (ecSub a.x d * ((a.x + d) % ecP)) % ecP
  let x := ecSub (m * m % ecP) (8 * b % ecP)
  { x, y := ecSub (m * ecSub (4 * b % ecP) x % ecP) (8 * (g * g) % ecP), z := 2 * (a.y * a.z) % ecP }

/-- Two points added. -/
def EcPoint.add (a b : EcPoint) : EcPoint :=
  if a.z = 0 then b
  else if b.z = 0 then a
  else
    let za := a.z * a.z % ecP
    let zb := b.z * b.z % ecP
    let u := a.x * zb % ecP
    let s := a.y * (zb * b.z % ecP) % ecP
    let h := ecSub (b.x * za % ecP) u
    let r := ecSub (b.y * (za * a.z % ecP) % ecP) s
    if h = 0 then (if r = 0 then a.double else { x := 1, y := 1, z := 0 })
    else
      let hh := h * h % ecP
      let hhh := h * hh % ecP
      let v := u * hh % ecP
      let x := ecSub (r * r % ecP) ((hhh + 2 * v) % ecP)
      { x, y := ecSub (r * ecSub v x % ecP) (s * hhh % ecP), z := h * (a.z * b.z % ecP) % ecP }

/-- The lowest n bits of two numbers k and l, from the highest: k times a point and l times another, added up. -/
def ecMul (a b ab : EcPoint) (k l : Nat) : Nat → EcPoint → EcPoint
  | 0, acc => acc
  | n + 1, acc =>
    let acc := acc.double
    ecMul a b ab k l n
      (match k.testBit n, l.testBit n with
      | true, true => acc.add ab
      | true, false => acc.add a
      | false, true => acc.add b
      | false, false => acc)

/-- A power modulo m, over the lowest n bits of the exponent from the highest. -/
def powMod (m a e : Nat) : Nat → Nat → Nat
  | 0, acc => acc
  | n + 1, acc =>
    let sq := acc * acc % m
    powMod m a e n (if e.testBit n then sq * a % m else sq)

/-- The inverse of a number modulo a 384-bit prime. -/
def invMod (m a : Nat) : Nat := powMod m a (m - 2) 384 1

/-- A public key, x then y, is a point of the curve. -/
def ecOnCurve (x y : Nat) : Bool := x < ecP && y < ecP && (y * y + 3 * x) % ecP == (x * x * x + ecB) % ecP

/-- Whether a signature is valid under a public key for a digest: ECDSA over NIST P-384 (R492, R493). -/
def ecdsaP384 (pubkey digest sig : List Byte) : Bool :=
  let qx := beNat (pubkey.take 48)
  let qy := beNat (pubkey.drop 48)
  let r := beNat (sig.take 48)
  let s := beNat (sig.drop 48)
  if !ecOnCurve qx qy || r = 0 || ecN ≤ r || s = 0 || ecN ≤ s then false
  else
    let w := invMod ecN s
    let q : EcPoint := { x := qx, y := qy, z := 1 }
    let e := ecMul ecG q (ecG.add q) (beNat digest * w % ecN) (r * w % ecN) 384 { x := 1, y := 1, z := 0 }
    let i := invMod ecP e.z
    e.z != 0 && e.x * (i * i % ecP) % ecP % ecN == r

end Sys2Proof.Machine
end

