-- ==== Sys2Proof/Machine/Startup.lean ====
section
/-! DEFINITION. Resets, boundary conditions and start-up (R51 to R64, R489 to R495). -/

namespace Sys2Proof.Machine

open Sys2Proof

/-! ### Resets (R21, R54 to R64, R495) -/

/-- A fabric port after a reset: LINKUP is an input and stays; every tag in use is retired (R64). -/
def FPort.afterReset (p : FPort) : FPort :=
  { linkup := p.linkup, seen := p.linkup
    epochs := p.slots.foldl (fun t l => tabSet t l.idx ((p.epoch l.idx + 1) % 256)) p.epochs }

/-- A memory port after a reset: responses to what was outstanding will be discarded (R64). -/
def MPort.afterReset (p : MPort) : MPort :=
  { oldRd := p.oldRd ++ p.rd.map (·.slot), oldWr := p.oldWr ++ p.wr.map (·.slot) }

/-- The block with every register at its reset value (R21): only the inputs, the clocks and the tags of requests still
outstanding stay, and an access of this bus clock is completed on the next (R64). -/
def State.blank (s : State) (p : Power) : State :=
  { State.reset with
    pending := s.pending, now := s.now, age := s.age, pwr := p
    clk := { owed := s.glb.rpDone || s.clk.owed }
    droop := { State.reset.droop with rail := s.droop.rail, vref := s.droop.vref }
    ports := s.ports.map (fun q => (q.1, q.2.afterReset)), fabs := s.fabs.map (fun q => (q.1, q.2.afterReset)) }

/-- Power registers in a condition in which the block is absent. -/
def Power.gone (p : Power) (b : Boundary) (pgood porstN rstN : Bool) : Power :=
  { bound := b, pgood, porstN, rstN, absent := p.absent }

/-- PGOOD_FALL (R60): the block is Off, and Lockdown ends (R59, R447). -/
def doPgoodFall (s : State) : State := s.blank (s.pwr.gone .off false s.pwr.porstN s.pwr.rstN)

/-- PGOOD_FALL (R60). -/
def execPgoodFall (s : State) : Result := .next (doPgoodFall s)

/-- PGOOD_RISE (R54, R55): from Off the block is in reset. TT_PORST_N is low whenever TT_PGOOD rises, so it is low here. -/
def doPgoodRise (s : State) : State :=
  if s.pwr.bound == .off then { s with pwr := { s.pwr with pgood := true, porstN := false, bound := .inReset } } else s

/-- PGOOD_RISE (R54). -/
def execPgoodRise (s : State) : Result := .next (doPgoodRise s)

/-- POWER_ON_RESET (R54, R59): in Lockdown and in Off only the pin falls. -/
def doPorst (s : State) : State :=
  if s.pwr.lockdown || s.pwr.bound == .off then { s with pwr := { s.pwr with porstN := false } }
  else s.blank (s.pwr.gone .inReset true false s.pwr.rstN)

/-- POWER_ON_RESET (R54). -/
def execPowerOnReset (s : State) : Result := .next (doPorst s)

/-- BLOCK_RESET (R54, R57, R59): in Lockdown, in Off and of a fused-absent block only the pin falls. -/
def doRst (s : State) : State :=
  if s.pwr.lockdown || s.pwr.bound == .off || s.pwr.bound == .fusedAbsent then { s with pwr := { s.pwr with rstN := false } }
  else s.blank (s.pwr.gone .inReset true s.pwr.porstN false)

/-- BLOCK_RESET (R54). -/
def execBlockReset (s : State) : Result := .next (doRst s)

/-- RESET_RELEASE (R57, R64, R489): both resets are high. TT_ABSENT is sampled at the release of TT_PORST_N; the block starts at
step FUSE, or stays in reset. -/
def doRelease_ (absent : Bool) (s : State) : State :=
  match s.pwr.bound with
  | .off => { s with pwr := { s.pwr with porstN := true, rstN := true } }
  | .inReset =>
    let por := !s.pwr.porstN
    let gone := if por then absent else s.pwr.absent
    { s with pwr := { s.pwr with
        porstN := true, rstN := true, absent := gone, bound := if gone then .fusedAbsent else .present
        leftAt := if gone then none else some s.now, step := 1, selfTest := por } }
  | .fusedAbsent => { s with pwr := { s.pwr with rstN := true } }
  | .present => { s with pwr := { s.pwr with porstN := true, rstN := true } }

/-- RESET_RELEASE (R489). -/
def execResetRelease (absent : Bool) (s : State) : Result := .next (doRelease_ absent s)

/-! ### Start-up (R488 to R494) -/

/-- A start-up step is in progress: the block is Present and not isolated (R489). -/
def State.atStep (s : State) (n : Nat) : Bool := s.up && s.pwr.step == n

/-- FAILED with a code of R494. -/
def State.startFails (s : State) (code : Nat) : State :=
  let s := (s.toStep 8).purState 4
  { s with pur := { s.pur with fail := code } }

/-- The factory values as the registers hold them (R485). -/
def Droop.load (d : Droop) (f : Fuses) : Droop :=
  { d with
    fuse := [f.cal0 &&& calMask 0, f.cal1 &&& calMask 1, f.cal2 &&& calMask 2, f.cal3 &&& calMask 3]
    sec := f.sec &&& (mask 15 8 ||| mask 1 0), key0 := f.key0, key1 := f.key1, loaded := true }

/-- FUSE (R488, R489): the two copies and their checks agree, and MEMINIT begins with the droop response and the level sources of
the step, the collector from then on; or FUSE_ERR takes the block to Lockdown with the primary copy readable (R520). -/
def doFuse (primary copy : Fuses) (checkOk : Bool) (s : State) : State :=
  if !s.atStep 1 then s
  else if primary = copy ∧ checkOk then
    let s := { s with flt := { s.flt with waiting := s.flt.waiting.filter (fun d => srcLevel d.source) } }
    let s := ({ s with droop := s.droop.load primary }.toStep 2).stepLevels 0 s.droop.step
    if s.droop.clamps [0, 1, 2, 3] then s.raise 75 0 0 none else s
  else ({ s with droop := s.droop.load primary }.raise 76 0 0 none).detect []

/-- FUSE (R488). -/
def execFuse (primary copy : Fuses) (checkOk : Bool) (s : State) : Result := .next (doFuse primary copy checkOk s)

/-- MEMINIT (R489, R71): the bell starts with IMAGE_WAIT, and with it the counts of glass 0 (R102); a failed self-test, which only a power-on reset makes, names its
structure. -/
def doMeminit (failed : Fin 8) (s : State) : State :=
  if !s.atStep 2 || !s.pwr.clocked then s
  else if failed = 0 then { (s.toStep 3).newGlass with bell := { s.bell with running := true, glass := 0, pos := 0 } }
  else if s.pwr.selfTest then
    let s := s.startFails 1
    { s with pwr := { s.pwr with unit := failed.val } }
  else s

/-- MEMINIT (R489). -/
def execMeminit (failed : Fin 8) (s : State) : Result := .next (doMeminit failed s)

/-- The ASCII bytes "YSIG" (R492). -/
def ysig : List Byte := [0x59, 0x53, 0x49, 0x47]

/-- Step LOAD ends (R491): the image's access is taken note of, with what is still outstanding. -/
def State.loadEnds (s : State) : State := (s.disown (fun o => o == .pur) (.gone (s.ownerAttr .pur 0 0) 0)).accEnds

/-- The image reads are over: all answered, one failed, or not answered within 10 ms of LOAD (R491). -/
def State.loadOver (s : State) (a : PurAcc) : Bool := a.isOver || a.fail.isSome || a.at_ + 5000000 ≤ s.now

/-- LOAD (R491): a read that failed or was not answered in time, or a bad header, ends the step in FAILED; otherwise header, code and
signature block are kept. -/
def doLoad (s : State) : State :=
  match s.pur.acc with
  | none => s
  | some a =>
    if !s.atStep 4 || !s.loadOver a then s
    else if !a.isOver || a.fail.isSome then s.loadEnds.startFails 2
    else
      match imageBad a.data with
      | some code => s.loadEnds.startFails code
      | none =>
        let s := (s.loadEnds.toStep 5).purState 2
        let n := 64 + codeLen a.data
        { s with pur := { s.pur with image := a.data.take n, sig := (a.data.drop n).take 256 } }

/-- LOAD (R491). -/
def execLoad (s : State) : Result := .next (doLoad s)

/-- The digest fused for a key (R485). -/
def Droop.key (d : Droop) (k : Nat) : List Byte := if k = 0 then d.key0 else d.key1

/-- The first check of R493 that fails, as its code of R494. -/
def verifyFails (d : Droop) (image sig : List Byte) : Option Nat :=
  let id := at_ sig 4 1
  let pubkey := (sig.drop 16).take 96
  if sig.take 4 != ysig || 2 ≤ id || at_ sig 5 1 != 1 || !allZero ((sig.drop 6).take 2) || !allZero ((sig.drop 12).take 4) ||
      !allZero (sig.drop 208) then some 5
  else if bit d.sec id || sha384 pubkey != d.key id then some 6
  else if !ecdsaP384 pubkey (sha384 (image ++ sig.take 16)) ((sig.drop 112).take 96) then some 7
  else if at_ sig 8 4 < fld d.sec 15 8 then some 8
  else none

/-- VERIFY (R493). -/
def doVerify (s : State) : State :=
  if !s.atStep 5 || !s.pwr.clocked then s
  else
    match verifyFails s.droop s.pur.image s.pur.sig with
    | some code => s.startFails code
    | none => s.toStep 6

/-- VERIFY (R493). -/
def execVerify (s : State) : Result := .next (doVerify s)

/-- Instance 0 as the ledger holds it at READY (R303). -/
def firstShare (p : Nat) : Share :=
  { f := List.replicate 8 0, s := List.replicate 8 (portFull p), e := List.replicate 8 512, h := List.replicate 8 0
    ro := List.replicate 4 0, ri := List.replicate 4 0, qmax := 1024, cmax := 0, ccs := 1024, prate := 16777216 }

/-- PUR_VER from the header of the image (R281, R284). -/
def verOf (image : List Byte) : Word := pack [(63, 32, at_ image 4 4), (31, 0, at_ image 8 4)]

/-- READY (R58, R303, R489). Its share applies from then on (log entry 27). A Purser that a fault has halted stays so, and PUR_VER
reads 0 (R281, R285). -/
def State.ready (s : State) : State :=
  let x := firstShare s.bell.p
  let i : Inst := { state := .active, led := x, eff := x, leftF := List.replicate 8 0
                    leftS := List.replicate 8 (units (portFull s.bell.p)) }
  let s := (s.toStep 7).purState 3
  { s with
    pwr := { s.pwr with fpPresent := true }
    pur := { s.pur with ver := if s.pur.state = 3 then verOf s.pur.image else s.pur.ver }
    insts := [(0, i)]
    droop := { s.droop with recheck := 0 } }

/-- FWINIT (R489): the Purser's firmware, which a freeze and low power hold (R473, R505). -/
def doFwinit (done : Bool) (s : State) : State :=
  if !s.atStep 6 || !s.pwr.clocked || s.frozen then s else if done then s.ready else s.startFails 9

/-- FWINIT (R489). -/
def execFwinit (done : Bool) (s : State) : Result := .next (doFwinit done s)

/-! ### The register port while it cannot reach a register (R61, R413) -/

/-- The port completes an access with data (R42). -/
def State.portDone (s : State) (data : Word) : State := { s with glb := { s.glb with rpRdata := data, rpDone := true } }

/-- The absence responder answers (R61, R64): the block is absent, or has left reset on this very bus clock. -/
def State.answersAbsent (s : State) : Bool := !s.isPresent || s.pwr.leftAt == some s.now

end Sys2Proof.Machine
end

