-- ==== Sys2Proof/Machine/Regs.lean ====
section
/-! DEFINITION. The register window: which register an offset names, and what a read of it returns (15 and the field maps
of the other chapters). -/

namespace Sys2Proof.Machine

open Sys2Proof

/-- Registers of a channel's set (R159). -/
inductive ChReg where
  | ctl | cmd | stat | level | linklim | src | dst | remain | cfg | next | shSrc | shDst | shLen | shCfg | shNext | errinfo | xfers
  deriving DecidableEq, Repr

/-- Registers of an instance page outside the channel window (R205, R317). -/
inductive PageReg where
  | qctl (q : Nat) | qstat (q : Nat) | qerr (q : Nat) | qcnt (q : Nat)
  | evtCtl | evtBase | evtHead | evtTail | evtLost | info | chwSel | intCtl | msiAddr | msiData | fv0 | fv1 | fvLast
  deriving DecidableEq, Repr

/-- Every register of the window (R521 to R531). -/
inductive Reg where
  | tltId | tltCap | glbCtl | irqRoute (j : Nat) | irqMbox | ccInv | settleTmo | spanCtl | spanTmo | spanStat (f : Nat)
  | logSwap | logStat | spanRoute (j : Nat) | spanAllow (j : Nat) | winBase (w : Nat) | winLim (w : Nat)
  | bellCtl | bellPeriod | bellStat | glassNum | glassNow | glsStep | glsCap (k : Nat) | ovrCnt | ovrLast
  | portLast (n : Nat) | fabLast (f : Nat)
  | tmrCtl (n : Nat) | tmrCnt (n : Nat) | tmrCmp (n : Nat) | tmrStat (n : Nat) | capCtl (i : Nat) | capVal (i : Nat)
  | capStat (i : Nat) | drStat | drMade | tmrRoute (j : Nat)
  | fltSrc (k : Nat) | frecStat | frecAttr | frecDetail | frecSec (j : Nat) | frecCtl | fltCnt | alarmCtl | alarmStat | fltRoute
  | fltLive (j : Nat) | fltLatch (j : Nat) | scrubStat
  | pwrCtl | pwrStat | startCtl | startStat | droopStat | droopCnt | calFuse (k : Nat) | fuseSec | calOfs (k : Nat) | calEff (k : Nat)
  | mbReq (m w : Nat) | mbRsp (m w : Nat) | mbCtl (m : Nat) | mbStat (m : Nat) | purStat | purVer | purImg
  | chan (n : Nat) (r : ChReg) | linkTmo
  | engStat (e : Nat) | engCtl (e : Nat) | cluStat (c : Nat) | cluPte (c : Nat) | cluErr (c : Nat)
  | dbgCtl | injCtl | injAttr
  | page (i : Nat) (r : PageReg) | window (i s : Nat) (r : ChReg)
  deriving DecidableEq, Repr

/-- A row of the register index: first offset, stride, count, and the register of each number. -/
structure RegRow where
  base   : Nat
  stride : Nat
  count  : Nat
  reg    : Nat → Reg

/-- A row of one register. -/
def one (base : Nat) (r : Reg) : RegRow := { base, stride := 8, count := 1, reg := fun _ => r }

/-- The number that an offset has in a row. -/
def RegRow.index (x : RegRow) (off : Nat) : Option Nat :=
  if x.base ≤ off ∧ (off - x.base) % x.stride = 0 ∧ (off - x.base) / x.stride < x.count then some ((off - x.base) / x.stride) else none

/-- The first row that holds an offset. -/
def lookup (rows : List RegRow) (off : Nat) : Option Reg := rows.findSome? (fun r => (r.index off).map r.reg)

/-- Identity and global control (R521). -/
def globRows : List RegRow :=
  [one 0x0 .tltId, one 0x8 .tltCap, one 0x10 .glbCtl, ⟨0x400, 8, 128, .irqRoute⟩, one 0x800 .irqMbox, one 0x808 .ccInv,
   one 0x810 .settleTmo, one 0xC00 .spanCtl, one 0xC08 .spanTmo, ⟨0xC20, 8, 4, .spanStat⟩, one 0xC40 .logSwap,
   one 0xC48 .logStat, ⟨0xD00, 8, 32, .spanRoute⟩, ⟨0xE00, 8, 16, .spanAllow⟩, ⟨0xE80, 16, 8, .winBase⟩, ⟨0xE88, 16, 8, .winLim⟩]

/-- Bell and glass (R522). -/
def bellRows : List RegRow :=
  [one 0x1000 .bellCtl, one 0x1008 .bellPeriod, one 0x1010 .bellStat, one 0x1018 .glassNum, one 0x1020 .glassNow,
   one 0x1028 .glsStep, ⟨0x1030, 8, 3, .glsCap⟩, one 0x1048 .ovrCnt, one 0x1050 .ovrLast, ⟨0x1080, 8, 8, .portLast⟩,
   ⟨0x10C0, 8, 4, .fabLast⟩]

/-- Timers (R523). -/
def tmrRows : List RegRow :=
  [⟨0x2000, 0x20, 32, .tmrCtl⟩, ⟨0x2008, 0x20, 32, .tmrCnt⟩, ⟨0x2010, 0x20, 32, .tmrCmp⟩, ⟨0x2018, 0x20, 32, .tmrStat⟩,
   ⟨0x2800, 0x20, 8, .capCtl⟩, ⟨0x2808, 0x20, 8, .capVal⟩, ⟨0x2810, 0x20, 8, .capStat⟩, one 0x2C00 .drStat, one 0x2C08 .drMade,
   ⟨0x2C10, 8, 5, .tmrRoute⟩]

/-- Fault collector (R524). -/
def fltRows : List RegRow :=
  [⟨0x4000, 8, 128, .fltSrc⟩, one 0x4800 .frecStat, one 0x4808 .frecAttr, one 0x4810 .frecDetail, ⟨0x4818, 8, 2, .frecSec⟩,
   one 0x4828 .frecCtl, one 0x4830 .fltCnt, one 0x4840 .alarmCtl, one 0x4848 .alarmStat, one 0x4850 .fltRoute,
   ⟨0x4860, 8, 2, .fltLive⟩, ⟨0x4870, 8, 2, .fltLatch⟩, one 0x4880 .scrubStat]

/-- Power, droop and calibration (R526). -/
def pwrRows : List RegRow :=
  [one 0x8000 .pwrCtl, one 0x8008 .pwrStat, one 0x8010 .startCtl, one 0x8018 .startStat, one 0x8020 .droopStat,
   one 0x8028 .droopCnt, ⟨0x8100, 8, 4, .calFuse⟩, one 0x8120 .fuseSec, ⟨0x8180, 8, 4, .calOfs⟩, ⟨0x8200, 8, 4, .calEff⟩]

/-- Mailboxes and Purser (R527). -/
def purRows : List RegRow :=
  (List.range 8).flatMap (fun m =>
    [⟨0x10000 + 0x100 * m, 8, 8, fun w => .mbReq m w⟩, ⟨0x10040 + 0x100 * m, 8, 8, fun w => .mbRsp m w⟩,
     one (0x10080 + 0x100 * m) (.mbCtl m), one (0x10088 + 0x100 * m) (.mbStat m)]) ++
  [one 0x11000 .purStat, one 0x11008 .purVer, one 0x11010 .purImg]

/-- Offsets within a channel's set (R528). -/
def chRegAt (r : Nat) : Option ChReg :=
  match r with
  | 0x00 => some .ctl | 0x08 => some .cmd | 0x10 => some .stat | 0x18 => some .level | 0x20 => some .linklim
  | 0x40 => some .src | 0x48 => some .dst | 0x50 => some .remain | 0x58 => some .cfg | 0x60 => some .next
  | 0x80 => some .shSrc | 0x88 => some .shDst | 0x90 => some .shLen | 0x98 => some .shCfg | 0xA0 => some .shNext
  | 0xC0 => some .errinfo | 0xC8 => some .xfers
  | _ => none

/-- Engines and clusters (R529). -/
def engRows : List RegRow :=
  [⟨0x200000, 8, 128, .engStat⟩, ⟨0x200400, 8, 128, .engCtl⟩, ⟨0x201000, 0x100, 8, .cluStat⟩, ⟨0x201008, 0x100, 8, .cluPte⟩,
   ⟨0x201010, 0x100, 8, .cluErr⟩]

/-- Debug and injection (R530). -/
def dbgRows : List RegRow := [one 0x400000 .dbgCtl, one 0x400100 .injCtl, one 0x400108 .injAttr]

/-- Registers of the upper part of a page (R531). -/
def pageTop (p : Nat) : Option PageReg :=
  match p with
  | 0xC000 => some .evtCtl | 0xC008 => some .evtBase | 0xC010 => some .evtHead | 0xC018 => some .evtTail | 0xC020 => some .evtLost
  | 0xC040 => some .info | 0xC048 => some .chwSel | 0xC050 => some .intCtl | 0xC058 => some .msiAddr | 0xC060 => some .msiData
  | 0xC080 => some .fv0 | 0xC088 => some .fv1 | 0xC090 => some .fvLast
  | _ => none

/-- The register at an offset of the page of instance i (R317, R531). -/
def pageAt (i p : Nat) : Option Reg :=
  if p < 0x8000 then
    match p % 0x20 with
    | 0x00 => some (.page i (.qctl (p / 0x20)))
    | 0x08 => some (.page i (.qstat (p / 0x20)))
    | 0x10 => some (.page i (.qerr (p / 0x20)))
    | 0x18 => some (.page i (.qcnt (p / 0x20)))
    | _ => none
  else if p < 0xC000 then (chRegAt (p % 0x100)).map (.window i ((p - 0x8000) / 0x100))
  else (pageTop p).map (.page i)

/-- The register at a byte offset of the window, or none for reserved space (R516, R517). -/
def regAt (off : Nat) : Option Reg :=
  if off < 0x1000 then lookup globRows off
  else if off < 0x2000 then lookup bellRows off
  else if off < 0x4000 then lookup tmrRows off
  else if off < 0x8000 then lookup fltRows off
  else if off < 0x10000 then lookup pwrRows off
  else if off < 0x100000 then lookup purRows off
  else if off < 0x120000 then (chRegAt (off % 0x100)).map (.chan ((off - 0x100000) / 0x100))
  else if off = 0x120000 then some .linkTmo
  else if off < 0x200000 then none
  else if off < 0x400000 then lookup engRows off
  else if off < 0x1000000 then lookup dbgRows off
  else if off < 0x5000000 then pageAt ((off - 0x1000000) / 0x10000) ((off - 0x1000000) % 0x10000)
  else none

/-! ### Words that are put together on a read -/

/-- Route byte of interrupt source k in words of eight (R324). -/
def routeByte (words : List (Nat × Word)) (k : Nat) : Nat := fld (tabGet 0 words (k / 8)) (8 * (k % 8) + 7) (8 * (k % 8))

/-- GLS_CAPk (R84 to R86). -/
def capWord (p k : Nat) : Word :=
  match k with
  | 0 => pack [(63, 48, portFull p), (47, 32, portFirm p), (31, 16, portS50 p), (15, 0, portRes p)]
  | 1 => pack [(63, 44, blockFull p), (43, 24, blockFirm p)]
  | _ => pack [(63, 48, fabFull p), (47, 32, fabFirm p), (31, 16, fabS50 p)]

/-- BELL_STAT (R75). -/
def Bell.stat (b : Bell) : Word :=
  pack [(63, 48, b.misses), (47, 32, b.earlies), (3, 3, b2n b.lost), (2, 2, b2n b.locked), (1, 1, b2n b.miss), (0, 0, b2n b.early)]

/-- FLT_SRC of a source (R414, R525). -/
def State.srcWord (s : State) (k : Nat) : Word :=
  if !srcUsed k then 0
  else
    let x := s.src k
    pack [(63, 48, x.count), (23, 21, x.last), (18, 16, srcFloor k), (15, 15, b2n (srcFixed k)), (10, 8, x.sev),
      (5, 5, b2n (srcLevel k)), (4, 4, b2n x.injd), (1, 1, b2n x.latched), (0, 0, b2n x.live)]

/-- A word with one bit for each of 64 sources (R416). -/
def State.srcBits (s : State) (j : Nat) (f : Src → Bool) : Word :=
  pack ((List.range 64).map (fun b => (b, b, b2n (f (s.src (64 * j + b))))))

/-- PWR_STAT.PSTATE (R52, R473): WAKING presents the state being left. -/
def Power.pstate (p : Power) : Nat :=
  match p.phase with
  | .doze => 1
  | .sleep => 2
  | .waking => p.target
  | _ => 0

/-- Codes of the phases (R474). -/
def Phase.code : Phase → Nat
  | .run => 0
  | .entering => 1
  | .doze => 2
  | .sleep => 3
  | .waking => 4

/-- ENG_STAT.STATE (R116). -/
def State.engState (s : State) (e : Nat) : Nat :=
  if s.pwr.holdsOff then 3
  else if s.engHalted e then 2
  else if s.inEngine e = 0 then 0
  else 1

/-- ENG_STAT (R116). -/
def State.engWord (s : State) (e : Nat) : Word :=
  pack [(31, 22, (s.eng e).lastInst), (21, 16, s.inEngine e), (5, 4, s.bankMode e 1), (3, 2, s.bankMode e 0), (1, 0, s.engState e)]

/-- CLU_STAT (R153). -/
def State.cluWord (s : State) (c : Nat) : Word :=
  pack [(41, 32, (s.port c).rd.length), (31, 22, (s.port c).wr.length),
    (21, 16, ((banksOf c).filter (fun p => s.bankMode p.1 p.2 == 0)).length),
    (15, 11, ((List.range 16).filter (fun k => s.engState (16 * c + k) == 2)).length)]

/-- CLU_ERR (R141). -/
def MPort.errWord (p : MPort) : Word := pack [(63, 48, p.rdPar), (47, 32, p.rdPois), (31, 16, p.outPar), (15, 0, p.wrErr)]

/-- INST_INFO (R320, R532). -/
def State.infoWord (s : State) (i : Nat) : Word :=
  let x := s.inst i
  pack [(63, 48, x.gen), (41, 32, i), (3, 3, b2n x.log), (2, 0, x.state.code)]

/-- What a read of a channel's register returns (R159 to R168). -/
def State.readCh (s : State) (n : Nat) (r : ChReg) : Word :=
  let x := s.chan n
  match r with
  | .ctl => x.ctl
  | .cmd => 0
  | .stat => s.chStat n
  | .level => pack [(43, 32, x.cur), (27, 16, x.high), (11, 0, x.low)]
  | .linklim => pack [(47, 32, x.count), (15, 0, x.limit)]
  | .src => x.src
  | .dst => x.dst
  | .remain => BitVec.ofNat 64 x.remain
  | .cfg => x.cfg
  | .next => x.next
  | .shSrc => x.shSrc
  | .shDst => x.shDst
  | .shLen => BitVec.ofNat 64 x.shLen
  | .shCfg => x.shCfg
  | .shNext => x.shNext
  | .errinfo => x.errinfo
  | .xfers => pack [(63, 32, x.xfers), (31, 0, x.bursts)]

/-- What a read of a page's register returns (R205, R238, R317); a group that holds no queue reads 0. -/
def State.readPage (s : State) (i : Nat) (r : PageReg) : Word :=
  let x := s.inst i
  let onQ := fun (q : Nat) (f : Nat → Queue → Word) => match s.localQueue i q with | some (g, q) => f g q | none => 0
  match r with
  | .qctl q => onQ q (fun _ q => q.ctlWord)
  | .qstat q => onQ q s.qStat
  | .qerr q => onQ q (fun _ q => q.errWord)
  | .qcnt q => onQ q (fun _ q => q.cnt)
  | .evtCtl => pack [(8, 4, x.sizeM), (0, 0, b2n x.evtEn)]
  | .evtBase => x.evtBase
  | .evtHead => BitVec.ofNat 64 x.head
  | .evtTail => BitVec.ofNat 64 x.tail
  | .evtLost => BitVec.ofNat 64 x.lost
  | .info => s.infoWord i
  | .chwSel => BitVec.ofNat 64 x.chwSel
  | .intCtl => pack [(2, 2, routeByte s.glb.irqRoute i / 128), (1, 1, b2n x.msi), (0, 0, b2n x.intEn)]
  | .msiAddr => x.msiAddr
  | .msiData => x.msiData
  | .fv0 => x.fv0
  | .fv1 => x.fv1
  | .fvLast => s.fvLast i

/-- The channel that slot s of an instance's window shows, if the instance owns it (R319). -/
def State.shown (s : State) (i slot : Nat) : Option Nat :=
  let n := 64 * (s.inst i).chwSel + slot
  if s.exists_ i && (s.chan n).owner == i then some n else none

/-- What a read of a register returns on this bus clock (R14, R83, R450, R517, R518). -/
def State.readReg (s : State) (r : Reg) : Word :=
  let nat := fun n : Nat => BitVec.ofNat 64 n
  match r with
  | .tltId => 0x0CE0812808100100
  | .tltCap => 0x4000020040040040
  | .glbCtl => nat (b2n s.glb.lock)
  | .irqRoute j => tabGet 0 s.glb.irqRoute j
  | .irqMbox => s.glb.irqMbox
  | .ccInv => setFld s.glb.ccInv 63 63 (b2n s.glb.ccGo)
  | .settleTmo => s.glb.settleTmo
  | .spanCtl => s.glb.spanCtl
  | .spanTmo => s.glb.spanTmo
  | .spanStat f =>
    let p := s.fab f
    pack [(63, 48, p.tmo), (47, 32, p.absent), (31, 22, p.slots.length), (15, 8, p.err), (7, 0, p.busy)]
  | .logSwap => setFld s.glb.logSwap 63 63 (b2n s.glb.swapGo)
  | .logStat =>
    pack [(50, 38, s.dirty), (37, 28, s.glb.logInst), (27, 12, s.glb.logWaits), (2, 2, b2n s.glb.logRange), (1, 1, b2n s.glb.logFail),
      (0, 0, b2n s.glb.logRefused)]
  | .spanRoute j => tabGet 0xE4E4E4E4E4E4E4E4 s.glb.spanRoute j
  | .spanAllow j => tabGet 0 s.glb.spanAllow j
  | .winBase w => tabGet 0 s.glb.winBase w
  | .winLim w => tabGet 0 s.glb.winLim w
  | .bellCtl => s.bell.ctl
  | .bellPeriod => nat s.bell.period
  | .bellStat => s.bell.stat
  | .glassNum => nat s.bell.glass
  | .glassNow => pack [(63, 19, s.bell.glass), (18, 0, s.bell.pos)]
  | .glsStep => pack [(3, 2, s.gls.stepMin), (1, 0, s.gls.stepBell)]
  | .glsCap k => capWord s.gls.capP k
  | .ovrCnt => pack [(63, 32, s.gls.ovrFirm), (31, 16, s.gls.ovrSoft), (15, 0, s.gls.short)]
  | .ovrLast => s.gls.ovrLast
  | .portLast n => tabGet 0 s.gls.portLast n
  | .fabLast f => tabGet 0 s.gls.fabLast f
  | .tmrCtl n => (s.heldCounter n).ctl
  | .tmrCnt n => s.cntWord n
  | .tmrCmp n => nat (s.heldCounter n).cmp
  | .tmrStat n => (s.heldCounter n).stat
  | .capCtl i => (s.heldCap i).ctl
  | .capVal i => s.capVal i
  | .capStat i => (s.heldCap i).stat
  | .drStat => (s.clk.exit.map (·.1)).getD s.tmr.drStat
  | .drMade => (s.clk.exit.map (·.2)).getD s.tmr.made
  | .tmrRoute j => tabGet 0 s.tmr.route j
  | .fltSrc k => s.srcWord k
  | .frecStat => s.flt.stat
  | .frecAttr => s.flt.attr
  | .frecDetail => s.flt.detail
  | .frecSec j => if j = 0 then s.flt.sec0 else s.flt.sec1
  | .frecCtl => pack [(47, 32, s.flt.seen), (18, 16, s.flt.minclass)]
  | .fltCnt => pack [(63, 32, s.flt.records), (31, 0, s.flt.corr)]
  | .alarmCtl => pack [(10, 8, s.flt.alarmMinclass), (0, 0, b2n s.flt.force)]
  | .alarmStat => pack [(15, 8, s.flt.min), (2, 2, b2n s.alarm), (0, 0, b2n s.flt.held)]
  | .fltRoute => s.flt.route
  | .fltLive j => s.srcBits j (·.live)
  | .fltLatch j => s.srcBits j (·.latched)
  | .scrubStat => pack [(63, 48, s.flt.passes), (47, 40, s.flt.bank), (39, 31, s.flt.skipped), (15, 0, s.flt.fixes)]
  | .pwrCtl => nat s.pwr.target
  | .pwrStat => pack [(63, 56, s.pwr.temp.toNat), (18, 16, s.pwr.wake), (10, 8, s.pwr.phase.code), (1, 0, s.pwr.pstate)]
  | .startCtl => 0
  | .startStat => pack [(23, 16, s.pwr.unit), (3, 0, s.pwr.step)]
  | .droopStat =>
    pack [(47, 40, (BitVec.ofInt 8 s.droop.drift).toNat), (18, 10, s.droop.good), (5, 4, s.droop.level), (1, 0, s.droop.step)]
  | .droopCnt => pack [(63, 48, s.droop.trip3), (47, 32, s.droop.trip2), (31, 16, s.droop.trip1)]
  | .calFuse k => wordAt s.droop.fuse k
  | .fuseSec => s.droop.sec
  | .calOfs k => wordAt s.droop.ofs k
  | .calEff k => if s.droop.loaded then s.droop.eff k else 0
  | .mbReq m w => tabGet 0 (s.mb m).req w
  | .mbRsp m w => nat (at_ (s.mb m).rsp (8 * w) 8)
  | .mbCtl m => pack [(1, 1, b2n (s.mb m).irqEn)]
  | .mbStat m => pack [(1, 1, b2n (s.mb m).done), (0, 0, b2n (s.mb m).busy)]
  | .purStat => pack [(63, 32, s.pur.cmds), (31, 16, s.pur.fail), (2, 0, s.pur.state)]
  | .purVer => s.pur.ver
  | .purImg => s.pur.img
  | .chan n r => s.readCh n r
  | .linkTmo => s.glb.chgLinkTmo
  | .engStat e => s.engWord e
  | .engCtl e => nat (b2n (s.eng e).clearing)
  | .cluStat c => s.cluWord c
  | .cluPte c => tabGet 0 s.gls.pte c
  | .cluErr c => (s.port c).errWord
  | .dbgCtl => pack [(1, 1, b2n s.heldDbg.1), (0, 0, b2n s.heldDbg.2)]
  | .injCtl => setFld s.glb.injCtl 0 0 (b2n s.glb.injGo)
  | .injAttr => s.glb.injAttr
  | .page i r => if s.exists_ i then s.readPage i r else 0
  | .window i w r => match s.shown i w with | some n => s.readCh n r | none => 0

/-- What a read of an offset returns: from the absence responder and for reserved space, 0 (R61, R64, R517). -/
def State.regRead (s : State) (off : Nat) : Word :=
  if s.answersAbsent then 0 else match regAt off with | some r => s.readReg r | none => 0

end Sys2Proof.Machine
end

