-- ==== Sys2Proof/Machine/RegWrite.lean ====
section
/-! DEFINITION. Register writes: the access codes and the behaviour of each field, and the rows of the table that are a
write of one register (R16 to R19, R428, R477, R502, R519). -/

namespace Sys2Proof.Machine

open Sys2Proof

/-! ### Access codes (R16) -/

/-- A word after a write: RW bits take the value, RWL bits only while LOCK is 0. -/
def State.wr (s : State) (rw rwl : Word) (old v : Word) : Word := merge (if s.glb.lock then rw else rw ||| rwl) old v

/-- Writable bits of eight route bytes (R324). -/
def routeMask : Word := 0xBFBFBFBFBFBFBFBF

/-- A write of a global register that is a plain word. -/
def State.setGlob (s : State) (f : Glob → Glob) : State := { s with glb := f s.glb }

/-! ### Channels (R157, R160 to R168, R502) -/

/-- The states in which the active set and the low half of CH_CTL can be written (R160, R165). -/
def Chan.still (x : Chan) : Bool := x.state == .idle || x.state == .paused || x.state == .error

/-- A write of CH_CTL (R160, R188, R189). -/
def State.writeChCtl (s : State) (n : Nat) (v : Word) : State :=
  let x := s.chan n
  let m := mask 15 15 ||| (if x.still then mask 14 11 ||| mask 8 8 ||| mask 0 0 else 0)
  let s' := s.updChan n (fun x => { x with ctl := merge m x.ctl v })
  if bit x.ctl 15 != bit v 15 then s'.steer (.pause n) (fun s => s.pauseActs n) else s'

/-- PAUSE alone is written. -/
def State.writePause (s : State) (n : Nat) (v : Bool) : State := s.writeChCtl n (setFld (s.chan n).ctl 15 15 (b2n v))

/-- A write of CH_CMD (R161, R477). `all` is false for the manager's copy of a bound channel, of which only STOP acts (R157). -/
def State.writeChCmd (s : State) (n : Nat) (all : Bool) (v : Word) : State := s.steer (.chCmd n all v) (fun s => s.chCmd n all v)

/-- A write of a channel's register by a path that may write them all (R160 to R168). What software writes stands against what
hardware brings on the same bus clock (R22), a shadow set that a fetch fills on it included. -/
def State.writeCh (s : State) (n : Nat) (r : ChReg) (v : Word) : State :=
  let x := s.chan n
  let put := fun (k : Nat) (f : Chan → Chan) => (s.noteWrite (chOff n k) v).updChan n f
  let act := fun (k : Nat) (f : Chan → Chan) => if x.still then put k f else s
  let shadow := fun (k : Nat) (f : Chan → Chan) => if x.shValid && x.filled != some s.now then s else put k f
  match r with
  | .ctl => s.writeChCtl n v
  | .cmd => s.writeChCmd n true v
  | .level =>
    let s := put 0x18 (fun x => { x with high := fld v 27 16, low := fld v 11 0 })
    if s.pwr.clocked then s.chLevel n x.cur else s
  | .linklim => put 0x20 (fun x => { x with limit := fld v 15 0 })
  | .src => act 0x40 (fun x => { x with src := v })
  | .dst => act 0x48 (fun x => { x with dst := v })
  | .remain => act 0x50 (fun x => { x with remain := fld v 31 0 })
  | .cfg => act 0x58 (fun x => { x with cfg := v &&& cfgMask })
  | .next => act 0x60 (fun x => { x with next := v &&& mask 63 5 })
  | .shSrc => shadow 0x80 (fun x => { x with shSrc := v })
  | .shDst => shadow 0x88 (fun x => { x with shDst := v })
  | .shLen => shadow 0x90 (fun x => { x with shLen := fld v 31 0 })
  | .shCfg => shadow 0x98 (fun x => { x with shCfg := v &&& cfgMask })
  | .shNext => shadow 0xA0 (fun x => { x with shNext := v &&& mask 63 5 })
  | .xfers => put 0xC8 (fun x => { x with xfers := fld v 63 32, bursts := fld v 31 0 })
  | .stat => s
  | .errinfo => s

/-- A write of a channel's register through the channel region (R157). -/
def State.writeChManager (s : State) (n : Nat) (r : ChReg) (v : Word) : State :=
  if (s.chan n).owner = 0 then s.writeCh n r v
  else
    match r with
    | .cmd => s.writeChCmd n false v
    | _ => s

/-! ### Instance pages (R205, R239 to R241, R321 to R325, R502) -/

/-- A write of QCTL (R206): ENABLE first, then SKIP, which governs RETRY (R233). -/
def State.writeQctl (s : State) (i q : Nat) (v : Word) : State :=
  let s := s.setEnable i q (bit v 0)
  if bit v 2 then s.setRelease i q true else if bit v 1 then s.setRelease i q false else s

/-- A write of INT_CTL (R325, R326). -/
def State.writeIntCtl (s : State) (i : Nat) (v : Word) : State :=
  s.withIrq i (i % 8) none (fun x => { x with intEn := bit v 0, msi := bit v 1 })

/-- A write of a page's register. -/
def State.writePage (s : State) (i : Nat) (r : PageReg) (v : Word) : State :=
  let x := s.inst i
  match r with
  | .qctl q => s.writeQctl i q v
  | .evtCtl => s.writeEvtCtl i v
  | .evtBase => if x.evtEn then s else s.updInst i (fun x => { x with evtBase := v &&& mask 63 12 })
  | .evtHead => s.writeHead i (fld v 16 0)
  | .chwSel => s.updInst i (fun x => { x with chwSel := fld v 2 0 })
  | .intCtl => s.writeIntCtl i v
  | .msiAddr => if x.msi then s else s.updInst i (fun x => { x with msiAddr := v &&& mask 63 2 })
  | .msiData => if x.msi then s else s.updInst i (fun x => { x with msiData := v &&& mask 31 0 })
  | .fv0 => (s.noteWrite (fvOff i 0) v).updInst i (fun x => { x with fv0 := v })
  | .fv1 => (s.noteWrite (fvOff i 1) v).updInst i (fun x => { x with fv1 := v })
  | _ => s

/-! ### The fault collector (R415, R427, R428, R433, R436) -/

/-- A class field after a write (R427, R433): 6 and 7 change nothing, and neither does any value while LOCK is 1. -/
def State.classWr (s : State) (old v : Nat) : Nat := if s.glb.lock || 6 ≤ v then old else v

/-- A write of FLT_SRC (R414, R415): in Fatal only CLR and LATCHED act (R445). A detection of this bus clock stays counted and
latched (R22, R415). -/
def State.writeSrc (s : State) (k : Nat) (v : Word) : State :=
  if !srcUsed k then s
  else
    let found := bit (tabGet 0 s.clk.sets (srcOff k)) 1
    let sev := fun old : Nat =>
      if s.pwr.fatal || srcFixed k then old else max (srcFloor k) (s.classWr old (fld v 10 8))
    s.updSrc k (fun x => { x with
      sev := sev x.sev, count := if bit v 3 then b2n found else x.count, latched := x.latched && !(bit v 1 && !found) })

/-- A write of FREC_CTL (R427, R428). -/
def State.writeFrecCtl (s : State) (v : Word) : State :=
  let s : State := { s with flt := { s.flt with seen := fld v 47 32, minclass := s.classWr s.flt.minclass (fld v 18 16) } }
  if bit v 0 then s.closeRecord else s

/-- A write of INJ_CTL (R436): nothing acts while LOCK is 1. -/
def State.writeInj (s : State) (v : Word) : State :=
  if s.glb.lock then s
  else
    let old := s.glb.injCtl
    let cap := fld v 22 20
    let w := if 6 ≤ cap then old else setFld old 22 20 (min cap 4)
    let w := if bit old 1 then w else setFld w 14 8 (fld v 14 8)
    let w := setFld w 1 1 (b2n (bit v 1))
    let k := fld w 14 8
    (s.noteWrite 0x400100 v).setGlob (fun g => { g with injCtl := w, injGo := g.injGo || (bit v 0 && srcUsed k && !srcLevel k) })

/-! ### Every register -/

/-- A write of a register of the global region. -/
def State.writeGlob (s : State) (r : Reg) (v : Word) : State :=
  match r with
  | .glbCtl => s.setGlob (fun g => { g with lock := g.lock || bit v 0 })
  | .irqRoute j => s.setGlob (fun g => { g with irqRoute := tabSet g.irqRoute j (v &&& routeMask) })
  | .irqMbox => s.setGlob (fun g => { g with irqMbox := v &&& routeMask })
  | .ccInv => s.ccInvalidate v
  | .settleTmo => s.setGlob (fun g => { g with settleTmo := s.wr 0 (mask 19 0) g.settleTmo v })
  | .spanCtl =>
    let free := if (s.queue? 0).isSome then 0 else mask 39 32 ||| mask 9 0
    s.setGlob (fun g => { g with spanCtl := s.wr (mask 16 16) free g.spanCtl v })
  | .spanTmo =>
    let n := fld v 19 0
    if n = 0 ∨ 1000000 < n then s else s.setGlob (fun g => { g with spanTmo := s.wr 0 (mask 19 0) g.spanTmo v })
  | .spanStat f => (s.noteWrite (spanStatOff f) v).updFab f (fun p => { p with tmo := fld v 63 48, absent := fld v 47 32, err := fld v 15 8, busy := fld v 7 0 })
  | .logSwap => doLogSwap v s
  | .logStat =>
    let w := s.clears 0xC48 v
    (s.noteWrite 0xC48 v).setGlob (fun g => { g with
      logWaits := fld v 27 12, logRange := g.logRange && !bit w 2, logFail := g.logFail && !bit w 1
      logRefused := g.logRefused && !bit w 0 })
  | .spanRoute j => s.setGlob (fun g => { g with spanRoute := tabSet g.spanRoute j v })
  | .spanAllow j => s.setGlob (fun g => { g with spanAllow := tabSet g.spanAllow j v })
  | .winBase w => s.setGlob (fun g => { g with winBase := tabSet g.winBase w (v &&& (mask 53 12 ||| mask 2 0)) })
  | .winLim w => s.setGlob (fun g => { g with winLim := tabSet g.winLim w (v &&& mask 53 12) })
  | .linkTmo => s.setGlob (fun g => { g with chgLinkTmo := s.wr 0 (mask 19 0) g.chgLinkTmo v })
  | .dbgCtl => if s.glb.lock then s else s.setFreeze (bit v 0)
  | .injCtl => s.writeInj v
  | .injAttr => s.setGlob (fun g => { g with injAttr := s.wr 0 (mask 63 63 ||| mask 57 31) g.injAttr v })
  | _ => s

/-- A write of a register of the bell, timer or collector regions. -/
def State.writeTime (s : State) (r : Reg) (v : Word) : State :=
  match r with
  | .bellCtl => { s with bell := { s.bell with ctl := s.wr 0 (mask 39 32 ||| mask 23 16) s.bell.ctl v } }
  | .bellStat =>
    let b := s.bell
    let w := s.clears 0x1010 v
    { s with bell := { b with
        lost := b.lost && !bit w 3, miss := b.miss && !bit w 1, early := b.early && !bit w 0
        misses := if bit v 1 then b2n (!bit w 1) else b.misses, earlies := if bit v 0 then b2n (!bit w 0) else b.earlies } }
  | .ovrCnt => { s with gls := { s.gls with ovrFirm := fld v 63 32, ovrSoft := fld v 31 16, short := fld v 15 0 } }
  | .tmrCtl n => s.writeTmrCtl n v
  | .tmrCnt n => s.writeCnt n (fld v 31 0)
  | .tmrCmp n => s.writeCmp n (fld v 31 0)
  | .tmrStat n => s.clearTmr n (s.clears (tmrStatOff n) v)
  | .capCtl i => s.writeCapCtl i v
  | .capStat i => s.clearCap i (s.clears (capStatOff i) v)
  | .tmrRoute j => { s with tmr := { s.tmr with route := tabSet s.tmr.route j (v &&& routeMask) } }
  | .fltSrc k => s.writeSrc k v
  | .frecCtl => s.writeFrecCtl v
  | .fltCnt => { s.noteWrite 0x4830 v with flt := { s.flt with records := fld v 63 32, corr := fld v 31 0 } }
  | .alarmCtl => { s with flt := { s.flt with alarmMinclass := s.classWr s.flt.alarmMinclass (fld v 10 8), force := bit v 0 } }
  | .alarmStat => { s with flt := { s.flt with held := s.flt.held && !bit (s.clears 0x4848 v) 0 } }
  | .fltRoute => { s with flt := { s.flt with route := v &&& routeMask &&& mask 15 0 } }
  | _ => s

/-- A write of a register of the power, Purser or engine regions. -/
def State.writePower (s : State) (r : Reg) (v : Word) : State :=
  match r with
  | .pwrCtl => s.writeTarget (fld v 1 0)
  | .startCtl => if bit v 0 then s.steer .load State.startLoad else s
  | .droopCnt => { s.noteWrite 0x8028 v with droop := { s.droop with trip3 := fld v 63 48, trip2 := fld v 47 32, trip1 := fld v 31 16 } }
  | .calOfs k => s.writeOfs k v
  | .mbReq m w => if (s.mb m).busy then s else s.updMb m (fun b => { b with req := tabSet b.req w v })
  | .mbCtl m => s.mbCtl m (bit v 1) (bit v 0)
  | .mbStat m => s.updMb m (fun b => { b with done := b.done && !bit (s.clears (mbStatOff m) v) 1 })
  | .purImg => { s with pur := { s.pur with img := s.wr 0 (mask 53 12) s.pur.img v } }
  | .engCtl e => if bit v 0 then doRelease e s else s
  | .cluErr c => (s.noteWrite (cluErrOff c) v).updPort c (fun p => { p with
      rdPar := fld v 63 48, rdPois := fld v 47 32, outPar := fld v 31 16, wrErr := fld v 15 0 })
  | _ => s

/-- A write of a register (R16 to R19); those whose every field is RO stay as they are. -/
def State.writeReg (s : State) (r : Reg) (v : Word) : State :=
  match r with
  | .chan n c => s.writeChManager n c v
  | .page i p => if s.exists_ i then s.writePage i p v else s
  | .window i w c => match s.shown i w with | some n => s.writeCh n c v | none => s
  | r => ((s.writeGlob r v).writeTime r v).writePower r v

/-- Registers that a Fatal block lets software write (R445). -/
def fatalReg : Reg → Bool
  | .frecCtl => true
  | .fltCnt => true
  | .fltSrc _ => true
  | .alarmCtl => true
  | .alarmStat => true
  | .fltRoute => true
  | _ => false

/-- A write that the register port accepts (R42, R61, R64, R445, R447, R477, R519): the absence responder discards it, an
isolated block ignores it unless R445 lets it act, and it is a wake event in any case. -/
def State.portWrite (s : State) (inFatal : Bool) (f : State → State) : State :=
  let done := fun s : State => { s with glb := { s.glb with rpDone := true } }
  if s.answersAbsent then s.portDone 0
  else done ((if s.pwr.lockdown || (s.pwr.fatal && !inFatal) then s else f s).wakeBy .register)

/-- A write to a byte offset of the window. -/
def State.regWrite (s : State) (off : Nat) (v : Word) : State :=
  match regAt off with
  | some r => s.portWrite (fatalReg r) (fun s => s.writeReg r v)
  | none => s.portWrite true id

/-- REGISTER_WRITE (R16): TT_RP_ADDR carries bits [26:3] of the offset (R41). -/
def execRegisterWrite (off : BitVec 24) (v : Word) (s : State) : Result := .next (s.regWrite (8 * off.toNat) v)

/-! ### The rows that are a write of one register -/

/-- GLB_CTL_LOCK (R496). -/
def execGlbCtlLock (s : State) : Result := .next (s.portWrite false (fun s => s.writeReg .glbCtl 1))

/-- START_CTL_LOAD (R490). -/
def execStartCtlLoad (s : State) : Result := .next (s.portWrite false (fun s => s.steer .load State.startLoad))

/-- A write to the page of an instance (R318). -/
def State.pageWrite (s : State) (i : Nat) (f : State → State) : State :=
  s.portWrite false (fun s => if s.exists_ i then f s else s)

/-- QCTL_ENABLE_SET (R223). -/
def execQctlEnableSet (i q : Fin 1024) (s : State) : Result :=
  .next (s.pageWrite i.val (fun s => s.setEnable i.val q.val true))

/-- QCTL_ENABLE_CLEAR (R224). -/
def execQctlEnableClear (i q : Fin 1024) (s : State) : Result :=
  .next (s.pageWrite i.val (fun s => s.setEnable i.val q.val false))

/-- QCTL_RETRY (R233). -/
def execQctlRetry (i q : Fin 1024) (s : State) : Result :=
  .next (s.pageWrite i.val (fun s => s.setRelease i.val q.val false))

/-- QCTL_SKIP (R233). -/
def execQctlSkip (i q : Fin 1024) (s : State) : Result :=
  .next (s.pageWrite i.val (fun s => s.setRelease i.val q.val true))

/-- EVT_CTL_WRITE (R239). -/
def execEvtCtlWrite (i : Fin 1024) (v : Word) (s : State) : Result :=
  .next (s.pageWrite i.val (fun s => s.writeEvtCtl i.val v))

/-- EVT_HEAD_WRITE (R241). -/
def execEvtHeadWrite (i : Fin 1024) (v : Word) (s : State) : Result :=
  .next (s.pageWrite i.val (fun s => s.writeHead i.val (fld v 16 0)))

/-- A write of a channel's register by a path: the manager's copy of the set, or the window of an instance that shows it
(R157, R319). -/
def State.chWrite (s : State) (via : Path) (n : Nat) (all only : State → State) : State :=
  s.portWrite false (fun s =>
    match via with
    | .manager => if (s.chan n).owner = 0 then all s else only s
    | .page i => if s.shown i.val (n % 64) = some n then all s else s)

/-- CH_START (R176). -/
def execChStart (via : Path) (n : Fin 512) (s : State) : Result :=
  .next (s.chWrite via n.val (fun s => s.writeChCmd n.val true 1) id)

/-- CH_STOP (R191): the one write that acts through the manager's copy of a bound channel (R157). -/
def execChStop (via : Path) (n : Fin 512) (s : State) : Result :=
  .next (s.chWrite via n.val (fun s => s.writeChCmd n.val true 2) (fun s => s.writeChCmd n.val false 2))

/-- CH_LOAD (R161). -/
def execChLoad (via : Path) (n : Fin 512) (s : State) : Result :=
  .next (s.chWrite via n.val (fun s => s.writeChCmd n.val true 4) id)

/-- CH_DROP (R161). -/
def execChDrop (via : Path) (n : Fin 512) (s : State) : Result :=
  .next (s.chWrite via n.val (fun s => s.writeChCmd n.val true 8) id)

/-- CH_PAUSE_SET (R188). -/
def execChPauseSet (via : Path) (n : Fin 512) (s : State) : Result :=
  .next (s.chWrite via n.val (fun s => s.writePause n.val true) id)

/-- CH_PAUSE_CLEAR (R189). -/
def execChPauseClear (via : Path) (n : Fin 512) (s : State) : Result :=
  .next (s.chWrite via n.val (fun s => s.writePause n.val false) id)

/-- ENG_CTL_RELEASE (R150). -/
def execEngCtlRelease (e : Fin 128) (s : State) : Result := .next (s.portWrite false (doRelease e.val))

/-- MB_CTL_GO (R288). -/
def execMbCtlGo (m : Fin 8) (irqEn : Bool) (s : State) : Result := .next (s.portWrite false (fun s => s.mbCtl m.val irqEn true))

/-- CC_INV_GO (R335). -/
def execCcInvGo (v : Word) (s : State) : Result := .next (s.portWrite false (fun s => s.ccInvalidate (v ||| mask 63 63)))

/-- LOG_SWAP_GO (R385). -/
def execLogSwapGo (v : Word) (s : State) : Result := .next (s.portWrite false (doLogSwap (v ||| mask 63 63)))

/-- FREC_CLOSE (R428): SEEN is written with CLOSE; MINCLASS keeps its value. -/
def execFrecClose (seen : BitVec 16) (s : State) : Result :=
  .next (s.portWrite true (fun s => { s with flt := { s.flt with seen := seen.toNat } }.closeRecord))

/-- INJ_GO (R436): SOURCE and GO are written. -/
def execInjGo (source : BitVec 7) (s : State) : Result :=
  .next (s.portWrite false (fun s => s.writeInj (setFld (setFld s.glb.injCtl 14 8 source.toNat) 0 0 1)))

/-- INJ_HOLD (R436, R438): SOURCE and HOLD are written. -/
def execInjHold (source : BitVec 7) (hold : Bool) (s : State) : Result :=
  .next (s.portWrite false (fun s => s.writeInj (setFld (setFld s.glb.injCtl 14 8 source.toNat) 1 1 (b2n hold))))

/-- TMR_CNT_WRITE (R452). -/
def execTmrCntWrite (n : Fin 32) (v : Word) (s : State) : Result :=
  .next (s.portWrite false (fun s => s.writeCnt n.val (fld v 31 0)))

/-- A read that the register port accepts (R14, R42, R61, R64): it completes with the register's value, and a read of CAP_VAL clears
PENDING (R460). -/
def State.portRead (s : State) (off : Nat) : State :=
  let s' := s.portDone (s.regRead off)
  if s.answersAbsent then s'
  else match regAt off with
    | some (.capVal i) => s'.capRead i
    | _ => s'

/-- CAP_VAL_READ (R460). -/
def doCapRead (i : Nat) (s : State) : State := s.portRead (0x2808 + 0x20 * i)

/-- CAP_VAL_READ (R460). -/
def execCapValRead (i : Fin 8) (s : State) : Result := .next (doCapRead i.val s)

/-- ABSENCE_RESPONDER (R61, R64): an access of the register port. Where the absence responder answers, a read returns 0 and a write
is discarded; where the block answers, the access acts as any other (log entry 70). -/
def doAccess (write : Bool) (off : Nat) (v : Word) (s : State) : State :=
  if s.answersAbsent then s.portDone 0 else if write then s.regWrite off v else s.portRead off

/-- ABSENCE_RESPONDER (R61). -/
def execAbsenceResponder (write : Bool) (off : BitVec 24) (v : Word) (s : State) : Result :=
  .next (doAccess write (8 * off.toNat) v s)

/-- RP_TMO (R42, R413): read data 0, and the write dropped. An access to reserved space completes so without a fault (R517), and an
accepted write is a wake event (R519). -/
def doRpTmo (write : Bool) (off : Nat) (s : State) : State :=
  if s.answersAbsent then s
  else
    let s := if write then (s.portDone 0).wakeBy .register else s.portDone 0
    if (regAt off).isNone then s else s.raise 67 0 0 none (BitVec.ofNat 64 off)

/-- RP_TMO (R413). -/
def execRpTmo (write : Bool) (off : BitVec 24) (s : State) : Result := .next (doRpTmo write (8 * off.toNat) s)

/-- EN of a capture input is written with 1, on a bus clock on which the input is at level y (R458). -/
def State.enableCap (s : State) (i : Nat) (y : Bool) : State :=
  let s := s.sampleCap i y
  s.writeCapCtl i ((s.capture i).ctl ||| 1)

/-- CAP_ENABLE (R458). -/
def execCapEnable (i : Fin 8) (y : Bool) (s : State) : Result := .next (s.portWrite false (fun s => s.enableCap i.val y))

/-- DBG_CTL_FREEZE (R464): FREEZE is RWL. -/
def execDbgCtlFreeze (freeze : Bool) (s : State) : Result :=
  .next (s.portWrite false (fun s => if s.glb.lock then s else s.setFreeze freeze))

/-- PWR_TARGET_DOZE (R475). -/
def execPwrTargetDoze (s : State) : Result := .next (s.portWrite false (fun s => s.writeTarget 1))

/-- PWR_TARGET_SLEEP (R475). -/
def execPwrTargetSleep (s : State) : Result := .next (s.portWrite false (fun s => s.writeTarget 2))

/-- PWR_TARGET_RUN (R475). -/
def execPwrTargetRun (s : State) : Result := .next (s.portWrite false (fun s => s.writeTarget 0))

/-- CAL_OFS_WRITE (R487). -/
def execCalOfsWrite (k : Fin 4) (v : Word) (s : State) : Result := .next (s.portWrite false (fun s => s.writeOfs k.val v))

end Sys2Proof.Machine
end

