-- ==== Sys2Proof/Machine/Dispatch.lean ====
section
/-! DEFINITION. One arm per command: each calls the meaning of its row. -/

namespace Sys2Proof.Machine

open Sys2Proof

/-- The effect of a command on everything but the queue of waiting commands. -/
def exec (i : Instr) (s : State) : Host.Outcome State Fault Refusal :=
  match i with
  | .pgoodFall => Sys2Proof.Machine.execPgoodFall s
  | .powerOnReset => Sys2Proof.Machine.execPowerOnReset s
  | .blockReset => Sys2Proof.Machine.execBlockReset s
  | .resetRelease absent => Sys2Proof.Machine.execResetRelease absent s
  | .fuse primary copy checkOk => Sys2Proof.Machine.execFuse primary copy checkOk s
  | .meminit failed => Sys2Proof.Machine.execMeminit failed s
  | .startCtlLoad => Sys2Proof.Machine.execStartCtlLoad s
  | .load => Sys2Proof.Machine.execLoad s
  | .verify => Sys2Proof.Machine.execVerify s
  | .fwinit done => Sys2Proof.Machine.execFwinit done s
  | .absenceResponder write off v => Sys2Proof.Machine.execAbsenceResponder write off v s
  | .registerWrite off v => Sys2Proof.Machine.execRegisterWrite off v s
  | .rpTmo write off => Sys2Proof.Machine.execRpTmo write off s
  | .glbCtlLock => Sys2Proof.Machine.execGlbCtlLock s
  | .bell => Sys2Proof.Machine.execBell s
  | .bellInEdge => Sys2Proof.Machine.execBellInEdge s
  | .bellMiss => Sys2Proof.Machine.execBellMiss s
  | .bellAcquire => Sys2Proof.Machine.execBellAcquire s
  | .dispatchAssign c => Sys2Proof.Machine.execDispatchAssign c s
  | .admission f => Sys2Proof.Machine.execAdmission f s
  | .fragmentWriteStart f par => Sys2Proof.Machine.execFragmentWriteStart f par s
  | .readBeat p b => Sys2Proof.Machine.execReadBeat p b s
  | .writeDataAccept p par => Sys2Proof.Machine.execWriteDataAccept p par s
  | .writeAck p tag stat => Sys2Proof.Machine.execWriteAck p tag stat s
  | .manifestRecordRead q dst => Sys2Proof.Machine.execManifestRecordRead q dst s
  | .chartRead x => Sys2Proof.Machine.execChartRead x s
  | .engCtlRelease e => Sys2Proof.Machine.execEngCtlRelease e s
  | .engineClearDone e => Sys2Proof.Machine.execEngineClearDone e s
  | .pollDue q => Sys2Proof.Machine.execPollDue q s
  | .pollIssue => Sys2Proof.Machine.execPollIssue s
  | .pollResponse p b => Sys2Proof.Machine.execPollResponse p b s
  | .qctlEnableSet inst q => Sys2Proof.Machine.execQctlEnableSet inst q s
  | .qctlEnableClear inst q => Sys2Proof.Machine.execQctlEnableClear inst q s
  | .qctlRetry inst q => Sys2Proof.Machine.execQctlRetry inst q s
  | .qctlSkip inst q => Sys2Proof.Machine.execQctlSkip inst q s
  | .completionOverwrite q => Sys2Proof.Machine.execCompletionOverwrite q s
  | .eventRecordWrite inst => Sys2Proof.Machine.execEventRecordWrite inst s
  | .lostRecord inst => Sys2Proof.Machine.execLostRecord inst s
  | .evtCtlWrite inst v => Sys2Proof.Machine.execEvtCtlWrite inst v s
  | .evtHeadWrite inst v => Sys2Proof.Machine.execEvtHeadWrite inst v s
  | .msiWrite inst => Sys2Proof.Machine.execMsiWrite inst s
  | .chStart via n => Sys2Proof.Machine.execChStart via n s
  | .chStop via n => Sys2Proof.Machine.execChStop via n s
  | .chLoad via n => Sys2Proof.Machine.execChLoad via n s
  | .chDrop via n => Sys2Proof.Machine.execChDrop via n s
  | .chPauseSet via n => Sys2Proof.Machine.execChPauseSet via n s
  | .chPauseClear via n => Sys2Proof.Machine.execChPauseClear via n s
  | .levelCrossing n level => Sys2Proof.Machine.execLevelCrossing n level s
  | .linkFetch n => Sys2Proof.Machine.execLinkFetch n s
  | .chLinkTmo n => Sys2Proof.Machine.execChLinkTmo n s
  | .mbCtlGo m irqEn => Sys2Proof.Machine.execMbCtlGo m irqEn s
  | .commandStart => Sys2Proof.Machine.execCommandStart s
  | .queryVersions => Sys2Proof.Machine.execQueryVersions s
  | .queryInstance => Sys2Proof.Machine.execQueryInstance s
  | .queryPool => Sys2Proof.Machine.execQueryPool s
  | .instCreate => Sys2Proof.Machine.execInstCreate s
  | .instRemove => Sys2Proof.Machine.execInstRemove s
  | .instReset => Sys2Proof.Machine.execInstReset s
  | .settleEnd inst => Sys2Proof.Machine.execSettleEnd inst s
  | .settleTmo p slot => Sys2Proof.Machine.execSettleTmo p slot s
  | .instSuspend => Sys2Proof.Machine.execInstSuspend s
  | .instResume => Sys2Proof.Machine.execInstResume s
  | .shareSet => Sys2Proof.Machine.execShareSet s
  | .qCreate => Sys2Proof.Machine.execQCreate s
  | .qResize => Sys2Proof.Machine.execQResize s
  | .qDestroy => Sys2Proof.Machine.execQDestroy s
  | .qReadCtx => Sys2Proof.Machine.execQReadCtx s
  | .qStrictGrant => Sys2Proof.Machine.execQStrictGrant s
  | .qStrictRevoke => Sys2Proof.Machine.execQStrictRevoke s
  | .chBind => Sys2Proof.Machine.execChBind s
  | .chUnbind => Sys2Proof.Machine.execChUnbind s
  | .logCtlOn => Sys2Proof.Machine.execLogCtlOn s
  | .logCtlOff => Sys2Proof.Machine.execLogCtlOff s
  | .logCtlFlush => Sys2Proof.Machine.execLogCtlFlush s
  | .planLoad => Sys2Proof.Machine.execPlanLoad s
  | .planCancel => Sys2Proof.Machine.execPlanCancel s
  | .adminInit => Sys2Proof.Machine.execAdminInit s
  | .commandCompletion => Sys2Proof.Machine.execCommandCompletion s
  | .purCmdTmo => Sys2Proof.Machine.execPurCmdTmo s
  | .purWdog => Sys2Proof.Machine.execPurWdog s
  | .contained inst => Sys2Proof.Machine.execContained inst s
  | .ccInvGo v => Sys2Proof.Machine.execCcInvGo v s
  | .ccInvDone => Sys2Proof.Machine.execCcInvDone s
  | .logFlush => Sys2Proof.Machine.execLogFlush s
  | .logSwapGo v => Sys2Proof.Machine.execLogSwapGo v s
  | .logSwapDone => Sys2Proof.Machine.execLogSwapDone s
  | .rdReq m => Sys2Proof.Machine.execRdReq m s
  | .wrReq m => Sys2Proof.Machine.execWrReq m s
  | .inboundResponse id => Sys2Proof.Machine.execInboundResponse id s
  | .rdRsp m => Sys2Proof.Machine.execRdRsp m s
  | .wrRsp m => Sys2Proof.Machine.execWrRsp m s
  | .busyReissue f slot => Sys2Proof.Machine.execBusyReissue f slot s
  | .remoteTimeout => Sys2Proof.Machine.execRemoteTimeout s
  | .linkupChange f up => Sys2Proof.Machine.execLinkupChange f up s
  | .faultDetection found => Sys2Proof.Machine.execFaultDetection found s
  | .mpStall c present => Sys2Proof.Machine.execMpStall c present s
  | .fpTxStall f present => Sys2Proof.Machine.execFpTxStall f present s
  | .frecClose seen => Sys2Proof.Machine.execFrecClose seen s
  | .alarmMinExpiry => Sys2Proof.Machine.execAlarmMinExpiry s
  | .injGo source => Sys2Proof.Machine.execInjGo source s
  | .injHold source hold => Sys2Proof.Machine.execInjHold source hold s
  | .scrubStep found => Sys2Proof.Machine.execScrubStep found s
  | .holdScrub parityError => Sys2Proof.Machine.execHoldScrub parityError s
  | .timerTick n => Sys2Proof.Machine.execTimerTick n s
  | .tmrCntWrite n v => Sys2Proof.Machine.execTmrCntWrite n v s
  | .captureEdge input level => Sys2Proof.Machine.execCaptureEdge input level s
  | .capValRead inst => Sys2Proof.Machine.execCapValRead inst s
  | .capEnable inst y => Sys2Proof.Machine.execCapEnable inst y s
  | .debugHaltAssert => Sys2Proof.Machine.execDebugHaltAssert s
  | .debugHaltRelease => Sys2Proof.Machine.execDebugHaltRelease s
  | .pwrTargetDoze => Sys2Proof.Machine.execPwrTargetDoze s
  | .pwrTargetSleep => Sys2Proof.Machine.execPwrTargetSleep s
  | .pwrTargetRun => Sys2Proof.Machine.execPwrTargetRun s
  | .quiescencePoint => Sys2Proof.Machine.execQuiescencePoint s
  | .entryEdge edge => Sys2Proof.Machine.execEntryEdge edge s
  | .wakeEvent cause port => Sys2Proof.Machine.execWakeEvent cause port s
  | .wakeComplete levels => Sys2Proof.Machine.execWakeComplete levels s
  | .deadReckoning edges edge caps => Sys2Proof.Machine.execDeadReckoning edges edge caps s
  | .droopTrip rail vref => Sys2Proof.Machine.execDroopTrip rail vref s
  | .stepRise => Sys2Proof.Machine.execStepRise s
  | .droopSelfTrim correction => Sys2Proof.Machine.execDroopSelfTrim correction s
  | .calOfsWrite k v => Sys2Proof.Machine.execCalOfsWrite k v s
  | .tempSample temp => Sys2Proof.Machine.execTempSample temp s
  | .codeRecheck same => Sys2Proof.Machine.execCodeRecheck same s
  | .pgoodRise => Sys2Proof.Machine.execPgoodRise s
  | .arbiterGrant p par => Sys2Proof.Machine.execArbiterGrant p par s
  | .strayMessage m => Sys2Proof.Machine.execStrayMessage m s
  | .filteredEdge input level => Sys2Proof.Machine.execFilteredEdge input level s
  | .dbgCtlFreeze freeze => Sys2Proof.Machine.execDbgCtlFreeze freeze s

end Sys2Proof.Machine
end

