-- ==== Sys2Proof/Machine/Tick.lean ====
section
/-! DEFINITION. One bus clock on an empty queue: the clocks, the counts that every bus clock changes, and the commands that
fall due at it (log entry 3). -/

namespace Sys2Proof.Machine

open Sys2Proof

/-! ### What falls due -/

/-- A command if its condition holds. -/
def dueIf (ok : Bool) (c : Instr) : List Instr := if ok then [c] else []

/-- The bell is due on this bus clock (R65, R73). -/
def State.bellDue (s : State) : Bool :=
  s.bellRuns && (s.bell.atEdge || (!s.bell.locked && decide (s.bell.period ≤ s.bell.t)))

/-- No acted edge has come by the end of the bus clock PERIOD + TOL, whose bell has rung (R73). -/
def State.missDue (s : State) : Bool := s.bellRuns && s.clk.awaits

/-- The entry edge is due without a slow edge (R465), and the exit edge (R466). -/
def State.entryDue (s : State) : Bool := s.entryWait && decide (s.pwr.waitFrom + 32000 ≤ s.now)
def State.exitDue (s : State) : Bool := s.isPresent && s.pwr.exitWait && decide (s.pwr.exitFrom + 32000 ≤ s.now)

/-- The synchronised levels of the capture inputs. -/
def State.capLevels (s : State) : BitVec 8 := BitVec.ofNat 8 (total ((List.range 8).map (fun i => 2 ^ i * b2n (s.capture i).y)))

/-- Capture inputs whose filtered level changes at the end of this bus clock (R458, R459). -/
def State.capsDue (s : State) : List Instr :=
  if s.capsRun then
    (List.range 8).flatMap (fun i => dueIf (s.qualified i) (.captureEdge (Fin.ofNat 8 i) (s.capture i).y) ++
      dueIf (s.follows i) (.filteredEdge (Fin.ofNat 8 i) (s.capture i).y))
  else []

/-- Conditions that the bell, the timers and the register port have found on this bus clock, which is their detection bus clock
(R411, R460). -/
def State.endDetects (s : State) : Bool := s.collects && s.flt.waiting.any (fun d => srcBus d.source)

/-- What the end of a bus clock brings: what nothing came for on it (R73, R465, R466), and the filters that it completes (R458). -/
def State.endDue (s : State) : List Instr :=
  dueIf s.missDue .bellMiss ++ dueIf s.entryDue (.entryEdge false) ++ dueIf s.exitDue (.deadReckoning 0 false s.capLevels) ++
    s.capsDue

/-- Pairs of counters with a counter that runs (R453). -/
def State.timersDue (s : State) : List Instr :=
  if s.timersRun then
    ((List.range 16).filter (fun k => (s.counter (2 * k)).run || (s.counter (2 * k + 1)).run)).map
      (fun k => .timerTick (Fin.ofNat 32 (2 * k)))
  else []

/-- Polls that fall due (R215). -/
def State.pollsDue (s : State) : List Instr :=
  if s.pollsRun then
    (s.queues.filter (fun p => p.2.state == .polling && p.2.due ≤ s.age)).map (fun p => .pollDue (Fin.ofNat 16384 p.1))
  else []

/-- A level source's injected condition begins or ends (R438). -/
def State.injMoves (s : State) : Bool :=
  (List.range 80).any (fun k => srcLevel k && (s.src k).live != (!(s.src k).units.isEmpty || s.injHeld == some k))

/-- The collector has a condition to detect (R411, R436, R438). -/
def State.detectDue (s : State) : Bool :=
  s.collects && (!s.flt.waiting.isEmpty || s.injEvent.isSome || s.injMoves)

/-- Node-local writes whose settle runs out (R344). -/
def State.settleTmosDue (s : State) : List Instr :=
  let tmo := fld s.glb.settleTmo 19 0
  if !s.up || tmo = 0 then []
  else s.ports.flatMap (fun p => (p.2.wr.filter (fun w =>
      let x := s.inst w.inst
      x.settling && !w.stuck && s.waitsFor w.inst w.owner w.at_ && x.settle + 500 * tmo ≤ s.age)).map
    (fun w => .settleTmo (Fin.ofNat 8 p.1) (BitVec.ofNat 14 w.slot)))

/-- Instances whose settle has ended (R345, R348). -/
def State.settlesDue (s : State) : List Instr :=
  if !s.up || !s.pwr.clocked then []
  else (s.insts.filter (fun p => s.settled p.1)).flatMap (fun p =>
    dueIf (!s.frozen && s.inReset p.1) (.settleEnd (Fin.ofNat 1024 p.1)) ++
      dueIf (p.2.state == .containing) (.contained (Fin.ofNat 1024 p.1)))

/-- LOST records that a ring can take (R244). -/
def State.lostsDue (s : State) : List Instr :=
  (s.insts.filter (fun p => s.lostDue p.1)).map (fun p => .lostRecord (Fin.ofNat 1024 p.1))

/-- Link fetches that run out (R185). -/
def State.fetchesDue (s : State) : List Instr :=
  let t := fld s.glb.chgLinkTmo 19 0
  if !s.up || t = 0 then []
  else (s.chans.filter (fun p => p.2.fetch && p.2.fetchAt + t ≤ s.age)).map (fun p => .chLinkTmo (Fin.ofNat 512 p.1))

/-- Clears of halted engines that end (R150). -/
def State.clearsDue (s : State) : List Instr :=
  if !s.up || !s.pwr.clocked then []
  else (s.engs.filter (fun p => p.2.clearing && p.2.clearAt + 512 ≤ s.now)).map
    (fun p => .engineClearDone (Fin.ofNat 128 p.1))

/-- Span requests that are sent again, and the check of those that run out (R373, R375). -/
def State.spansDue (s : State) : List Instr :=
  if !s.up || s.frozen then []
  else s.fabs.flatMap (fun p => (p.2.slots.filter (fun l => l.busyAt.any (fun t => decide (t ≤ s.age)))).map
      (fun l => .busyReissue (Fin.ofNat 4 p.1) (Fin.ofNat 512 l.idx))) ++
    dueIf (s.age % 500 == 0 && s.fabs.any (fun p => p.2.slots.any (fun l => decide (l.sent + 500 * l.tmo ≤ s.age))))
      .remoteTimeout

/-- The command being executed runs past its bound (R294). -/
def State.cmdTmoDue (s : State) : Bool :=
  s.up && s.pur.state == 3 && s.pur.cur.any (fun c => !c.late && decide (c.start + 500 * execBound c.raw < s.age))

/-- The quiescence point is reached (R476). -/
def State.quietDue (s : State) : Bool := s.up && s.pwr.phase == .entering && !s.pwr.quiesced && s.quiescent

/-- Step LOAD ends (R491). -/
def State.loadDue (s : State) : Bool := s.atStep 4 && s.pur.acc.any s.loadOver

/-- The step rises on this bus clock (R481). -/
def State.riseDue (s : State) : Bool :=
  s.droopRuns && s.droop.step != 0 && s.droop.railGood && decide (499 ≤ s.droop.good)

/-- Every command that the block brings by itself at this bus clock (log entry 3). -/
def State.due (s : State) : List Instr :=
  dueIf s.detectDue (.faultDetection []) ++ dueIf (s.flt.min == 1) .alarmMinExpiry ++ dueIf s.bellDue .bell ++ s.timersDue ++
    dueIf s.riseDue .stepRise ++ s.settleTmosDue ++ s.settlesDue ++ s.lostsDue ++ s.fetchesDue ++ s.clearsDue ++ s.spansDue ++
    dueIf s.cmdTmoDue .purCmdTmo ++ dueIf s.quietDue .quiescencePoint ++ dueIf s.loadDue .load ++ s.pollsDue

/-! ### What every bus clock changes -/

/-- The clocks (log entry 3); a freeze and low power hold the one that timeouts count (R473, R503). What the bus clock before brought
to shared registers is forgotten, but that an access which a reset has cut off completes on this one with data 0 (R64). -/
def State.clocks (s : State) : State :=
  { s with
    now := s.now + 1, age := if s.frozen || !s.pwr.clocked then s.age else s.age + 1, clk := {}
    glb := { s.glb with rpDone := s.clk.owed, rpRdata := if s.clk.owed then 0 else s.glb.rpRdata } }

/-- Pulses end: TT_BELL_OUT, and LIVE of event sources (R48, R417); TT_RP_DONE ends with the bus clock (R42). -/
def State.pulsesEnd (s : State) : State :=
  { s with
    bell := { s.bell with out := false }
    flt := { s.flt with srcs := s.flt.srcs.map (fun p => (p.1, { p.2 with live := p.2.live && srcLevel p.1 })) } }

/-- POS advances (R65), the capacities follow P (R83), and the cut-off comes (R92). -/
def State.bellClock (s : State) : State :=
  { s with
    bell := { s.bell with pos := if s.bellRuns then s.bell.pos + 1 else s.bell.pos }
    gls := { s.gls with capP := s.bell.p } }.cutClock

/-- A wake event of the bus clock before brings WAKING, and one held to the entry edge acts on the bus clock after it (R477,
R478). -/
def State.wakeClock (s : State) : State :=
  match s.pwr.woke with
  | some c => { s with pwr := { s.pwr with phase := .waking, wake := wakeCode c, woke := none } }
  | none =>
    if s.pwr.phase == .doze || s.pwr.phase == .sleep then { s with pwr := { s.pwr with woke := s.pwr.held, held := none } } else s

/-- The gates of paced channels are evaluated (R177), drained suspensions end (R342), and ENTERING queues log cache entries for
flushing (R475). -/
def State.workClock (s : State) : State :=
  if !s.up || !s.pwr.clocked then s
  else
    let s := ((s.chans.filter (fun p => bit p.2.ctl 0)).foldl (fun s p => s.chLevel p.1 p.2.cur) s).suspended
    if s.pwr.phase == .entering then s.queueLines (fun _ => true) else s

/-- MIN of the alarm falls; its last fall is ALARM_MIN_EXPIRY (R434). -/
def State.alarmClock (s : State) : State :=
  if 1 < s.flt.min then { s with flt := { s.flt with min := s.flt.min - 1 } } else s

/-- GOOD counts the bus clocks at which the rail is good (R481). -/
def State.droopClock (s : State) : State := if s.droopRuns then { s with droop := s.droop.count } else s

/-- One bus clock passes (log entry 3). -/
def State.nextClock (s : State) : State :=
  let s := s.clocks.pulsesEnd.bellClock.publish.wakeClock.workClock
  { s.alarmClock.droopClock with pending := s.due }

/-- A step on an empty queue (log entry 3): the bus clock ends with what its end brings and with what it has found, or the next one
begins. -/
def tick (s : State) : State :=
  if !s.endDue.isEmpty then { s with pending := s.endDue }
  else if s.endDetects then { s with pending := [.faultDetection []], clk := { s.clk with ending := true } }
  else s.nextClock

end Sys2Proof.Machine
end

