-- ==== Sys2Proof/Machine/Step.lean ====
section
/-! DEFINITION. The step: the command at the front of the queue, or one bus clock when none waits. -/

namespace Sys2Proof.Machine

open Sys2Proof

/-- One step. A command that no port can carry is refused; on an empty queue one bus clock passes (log entry 3). -/
def step (s : State) : Host.Outcome State Fault Refusal :=
  match s.pending with
  | [] => .next (tick s)
  | c :: rest => if c.wf then exec c { s with pending := rest } else .refused .illFormed

/-- The state with the command a word spells in front of its queue. -/
def State.withFetchWord (s : State) (nbits w : Nat) : State :=
  match decodeTableWord nbits w with
  | some c => { s with pending := c :: s.pending }
  | none => s

end Sys2Proof.Machine
end

