-- ==== Sys2Proof/Machine/Flags.lean ====
section
/-! DEFINITION. The output pins of the block as functions of its state (R30 to R60): the memory, fabric and register ports,
wired interrupt lines, alarm, bell, power and presence. The request, beat or message last accepted on a port and the register
port's answer are fields of State (lastReq, lastBeat, lastMsg, rpDone, rpRdata); the pins that go with them are read from
those here. -/

namespace Sys2Proof.Machine

open Sys2Proof

/-! ### Memory ports (R30, R31, R35, R60) -/

/-- The odd parity bit of a byte: with it the count of ones is odd (R30, R37). -/
def oddParity (b : Byte) : Bool := ((List.range 8).filter (fun k => b.toNat.testBit k)).length % 2 == 0

/-- TT_MPn_REQ_VALID: memory port c has a request to present (R30, R60, R143). -/
def State.ttReqValid (s : State) (c : Fin 8) : Bool := s.issues && (s.arbChoice (.mem c)).isSome

/-- TT_MPn_WDAT_VALID: a write beat of memory port c waits for the host (R30, R60). -/
def State.ttWdatValid (s : State) (c : Nat) : Bool := s.up && !(s.port c).wq.isEmpty

/-- TT_MPn_WDAT_BE of lane l: high exactly on the lanes of the beat's bytes (R31). -/
def WBeat.be (w : WBeat) (l : Nat) : Bool := w.addr % 64 ≤ l && l < w.addr % 64 + w.bytes

/-- TT_MPn_WDAT_DATA of lane l; the spec gives the lanes outside the byte enables no value (R31). -/
def WBeat.lane (w : WBeat) (l : Nat) : Option Byte :=
  if w.be l then some (byteAt w.data (l - w.addr % 64)) else none

/-- TT_MPn_WDAT_PAR of lane l: always odd parity over the data driven (R30, R140). -/
def WBeat.par (w : WBeat) (l : Nat) : Option Bool := (w.lane l).map oddParity

/-- TT_MPn_RDAT_READY and TT_MPn_WACK_READY: high at all times, in every condition (R35, R60). -/
def State.ttMpReady (_ : State) (_ : Fin 8) : Bool := true

/-! ### Fabric ports (R37, R38, R60) -/

/-- TT_FPn_TX_VALID: fabric port f has a message to send (R37, R60, R146). -/
def State.ttTxValid (s : State) (f : Fin 4) : Bool := s.issues && (s.arbChoice (.fab f)).isSome

/-- TT_FPn_TX_DATA of flit k of a message: the header flit, then the data flits (R38, R362). -/
def Msg.flit (m : Msg) (k : Nat) : List Byte := (m.hdr :: m.flits).getD k []

/-- TT_FPn_TX_PAR of byte l of flit k (R37). -/
def Msg.par (m : Msg) (k l : Nat) : Bool := oddParity (byteAt (m.flit k) l)

/-- TT_FPn_TX_SOM of flit k (R37). -/
def Msg.som (_ : Msg) (k : Nat) : Bool := k == 0

/-- TT_FPn_TX_EOM of flit k (R37). -/
def Msg.eom (m : Msg) (k : Nat) : Bool := k == m.flits.length

/-- TT_FPn_TX_DEST, valid with TX_SOM (R37, R362). -/
def Msg.dest (m : Msg) (k : Nat) : Option Nat := if m.som k then some m.node else none

/-- TT_FPn_RX_SOM of flit k of a received message: the header flit carries it (R37, R38). -/
def rxSom (_ : InMsg) (k : Nat) : Bool := k == 0

/-- TT_FPn_RX_EOM of flit k of a received message: its last flit carries it (R37, R38). -/
def rxEom (m : InMsg) (k : Nat) : Bool := k == m.flits.length

/-! ### Register port (R41, R42) -/

/-- TT_RP_DONE (R41, R42). -/
def State.ttRpDone (s : State) : Bool := s.glb.rpDone

/-- TT_RP_RDATA, valid while TT_RP_DONE is high (R41). -/
def State.ttRpRdata (s : State) : Option Word := if s.glb.rpDone then some s.glb.rpRdata else none

/-- TT_RP_READY: an access is accepted on the bus clock it is presented, in every condition, and is done within that step
(R42; DEDUCED, log entry 71). -/
def State.ttRpReady (_ : State) : Bool := true

/-! ### Interrupts, alarm, bell, power and presence -/

/-- A route byte drives a line: EN is 1 and LINE names it (R324). -/
def routes (byte line : Nat) : Bool := byte.testBit 7 && byte % 64 == line

/-- Source FLT_OPEN (k = 0) or FLT_ISOL (k = 1) is pending (R432). -/
def State.fltIrq (s : State) (k : Nat) : Bool := if k = 0 then s.flt.open_ else s.isolated

/-- MB_DONE of mailbox m is pending (R323). -/
def Mbox.irq (b : Mbox) : Bool := b.done && b.irqEn

/-- TT_IRQ, line l (R46, R60, R323, R324, R432, R462). -/
def State.ttIrq (s : State) (l : Nat) : Bool :=
  s.isPresent &&
    (s.insts.any (fun p => p.2.irq && routes (routeByte s.glb.irqRoute p.1) l) ||
      (List.range 8).any (fun m => (s.mb m).irq && routes (fld s.glb.irqMbox (8 * m + 7) (8 * m)) l) ||
      (List.range 40).any (fun k => s.tmrIrq k && routes (routeByte s.tmr.route k) l) ||
      (List.range 2).any (fun k => s.fltIrq k && routes (fld s.flt.route (8 * k + 7) (8 * k)) l))

/-- TT_ALARM_N (R47, R60, R434). -/
def State.ttAlarmN (s : State) : Bool := !s.isPresent || !s.alarm

/-- TT_BELL_OUT (R48, R60). -/
def State.ttBellOut (s : State) : Bool := s.isPresent && s.bell.out

/-- TT_PSTATE (R52, R60). -/
def State.ttPstate (s : State) : Nat := if s.isPresent then s.pwr.pstate else 3

/-- TT_OFF_REQ (R56, R60). -/
def State.ttOffReq (s : State) : Bool :=
  !s.isPresent || s.isolated ||
    (match s.pwr.phase with
     | .entering => s.pwr.quiesced
     | .doze => true
     | .sleep => true
     | _ => false)

/-- TT_STEP (R60, R482). -/
def State.ttStep (s : State) : Nat := if s.isPresent then s.droop.step else 0

/-- TT_LOCKDOWN (R60, R447). -/
def State.ttLockdown (s : State) : Bool := s.isPresent && s.pwr.lockdown

/-- TT_FP_PRESENT (R58, R60). -/
def State.ttFpPresent (s : State) : Bool := s.isPresent && s.pwr.fpPresent && !s.isolated

/-- TT_FPn_RX_READY of every fabric port, but for the wait for a buffer that R40 allows (R40, R60, R476). -/
def State.ttRxReady (s : State) : Bool :=
  !s.isPresent || s.isolated ||
    (match s.pwr.phase with
     | .run => true
     | .entering => !s.pwr.quiesced
     | _ => false)

end Sys2Proof.Machine
end

