-- ==== Sys2Proof/Safety.lean ====
section
/-! DEFINITION. What counts as a safe step of the block, and the form its tables keep. -/

namespace Sys2Proof.Machine

open Sys2Proof

/-- A step that goes on: neither a fault nor a refusal. -/
def Safe (s : State) : Prop := ∃ t, step s = .next t

/-- The factory values that step FUSE loads (R485): CAL_FUSE0 to CAL_FUSE3, FUSE_SEC and the two key digests. -/
def Droop.fuses (d : Droop) : List Word × Word × List Byte × List Byte := (d.fuse, d.sec, d.key0, d.key1)

/-- The block takes register writes, and a write is no wake event: Present, not isolated, in RUN, WAKING, or ENTERING before
the quiescence point (R445, R477, R519), after the bus clock of its release from reset (R64). -/
def State.taking (s : State) : Bool :=
  s.up && !s.answersAbsent && (s.pwr.phase == .run || s.pwr.phase == .waking || (s.pwr.phase == .entering && !s.pwr.quiesced))

/-- The state with the register port's completion shown (R42). -/
def State.answered (s : State) : State := { s with glb := { s.glb with rpDone := true } }

/-- The rows that are a write the register port carries (R41, R42). -/
def isWrite : Instr → Bool
  | .registerWrite _ _ => true
  | .glbCtlLock => true
  | .startCtlLoad => true
  | .qctlEnableSet _ _ => true
  | .qctlEnableClear _ _ => true
  | .qctlRetry _ _ => true
  | .qctlSkip _ _ => true
  | .evtCtlWrite _ _ => true
  | .evtHeadWrite _ _ => true
  | .chStart _ _ => true
  | .chStop _ _ => true
  | .chLoad _ _ => true
  | .chDrop _ _ => true
  | .chPauseSet _ _ => true
  | .chPauseClear _ _ => true
  | .engCtlRelease _ => true
  | .mbCtlGo _ _ => true
  | .ccInvGo _ => true
  | .logSwapGo _ => true
  | .frecClose _ => true
  | .injGo _ => true
  | .injHold _ _ => true
  | .tmrCntWrite _ _ => true
  | .capEnable _ _ => true
  | .dbgCtlFreeze _ => true
  | .pwrTargetDoze => true
  | .pwrTargetSleep => true
  | .pwrTargetRun => true
  | .calOfsWrite _ _ => true
  | _ => false

/-- The bus clock since which capture input i is at level y, if y is its level on this bus clock (R458). -/
def State.levelSince (s : State) (i : Nat) (y : Bool) : Nat := if (s.capture i).y = y then (s.capture i).yAt else s.now

/-- An instance without its fault view (R322), which detections update in an isolated block too (R418, R419). -/
def Inst.noView (x : Inst) : Inst := { x with fv0 := 0, fv1 := 0, fvLast := 0, fview := none }

/-- The form the block's stores keep: the hold's bytes are in canonical form (R112), the numbered units of each kind stand
once each, and every fault source's SEV lies between the source's FLOOR and Lockdown (R413, R414). -/
structure State.Canon (s : State) : Prop where
  hold   : Memory.wf s.hold
  insts  : tabWf s.insts
  queues : tabWf s.queues
  chans  : tabWf s.chans
  engs   : tabWf s.engs
  ports  : tabWf s.ports
  fabs   : tabWf s.fabs
  mbs    : tabWf s.mbs
  cnt    : tabWf s.tmr.cnt
  cap    : tabWf s.tmr.cap
  sev    : ∀ k, srcFloor k ≤ (s.src k).sev ∧ (s.src k).sev ≤ 5

end Sys2Proof.Machine
end

