-- ==== Sys2Proof/Certificates/Slice0/Obligations.lean ====
section
/-! DEFINITION. The statements for the provers. -/

open Sys2Proof Sys2Proof.Machine

/-! ### The step and the whole machine -/

/-- The front command of the queue is what a step runs: exec of it on the state with the rest of the queue; a command that
no port can carry is refused; on an empty queue one bus clock passes (the model's choices: log entries 3 and 9). -/
def Obligations.StepRunsTheFrontCommand : Prop :=
  ∀ (s : State) (c : Instr) (rest : List Instr),
    (s.pending = c :: rest → c.wf = true → step s = exec c { s with pending := rest }) ∧
    (s.pending = c :: rest → c.wf = false → step s = .refused .illFormed) ∧
    (s.pending = [] → step s = .next (tick s))

/-- Every command goes on in every state: none faults and none is refused. An event whose condition does not hold changes
nothing (log entry 7). -/
def Obligations.EveryCommandGoesOn : Prop := ∀ (c : Instr) (s : State), ∃ t, exec c s = .next t

/-- The state after reset has its stores in canonical form. -/
def Obligations.ResetIsCanonical : Prop := State.reset.Canon

/-- Every step keeps the stores in their form: the hold's bytes canonical, the units of each kind once each and in order of
their numbers, every fault source's SEV between its FLOOR and Lockdown. -/
def Obligations.StepKeepsCanonicalForm : Prop := ∀ s t : State, s.Canon → step s = .next t → t.Canon

/-- Lockdown ends only with the power: no command but a fall of TT_PGOOD clears it, neither reset does, and no bus clock. -/
def Obligations.OnlyPowerEndsLockdown : Prop :=
  ∀ (s t : State), s.pwr.lockdown = true →
    (step s = .next t → (∀ rest, s.pending ≠ .pgoodFall :: rest) → t.pwr.lockdown = true) ∧
    (exec .pgoodFall s = .next t → t.pwr.lockdown = false)

/-- Fatal ends only with a reset or the power: every other command and every bus clock leaves it set; either reset ends it
and sets the record and every register of the collector to its reset value. -/
def Obligations.OnlyResetEndsFatal : Prop :=
  ∀ (s t : State), s.pwr.fatal = true →
    (step s = .next t →
      (∀ rest, s.pending ≠ .pgoodFall :: rest ∧ s.pending ≠ .powerOnReset :: rest ∧ s.pending ≠ .blockReset :: rest) →
      t.pwr.fatal = true) ∧
    (∀ c, c = .blockReset ∨ c = .powerOnReset → s.pwr.lockdown = false → s.pwr.bound = .present → exec c s = .next t →
      t.pwr.fatal = false ∧ t.flt = State.reset.flt)

/-- GLB_CTL.LOCK stays set until a reset: no register write, command or bus clock clears it, and a block reset does. A write of
GLB_CTL with its bit 0 has no effect. -/
def Obligations.LockHoldsUntilReset : Prop :=
  ∀ s : State,
    (∀ t, s.glb.lock = true → step s = .next t →
      (∀ rest, s.pending ≠ .pgoodFall :: rest ∧ s.pending ≠ .powerOnReset :: rest ∧ s.pending ≠ .blockReset :: rest) →
      t.glb.lock = true) ∧
    (s.glb.lock = true → s.pwr.lockdown = false → s.pwr.bound = .present → ∃ t, exec .blockReset s = .next t ∧ t.glb.lock = false) ∧
    (∀ v : Word, s.taking = true → bit v 0 = false → exec (.registerWrite 2 v) s = .next s.answered)

/-- In Fatal or Lockdown every queue, channel, instance and engine register keeps its value: no command but a reset or the
power, and no bus clock, changes one. Apart from that stand the fault view of R322, which R418 and R419 keep going, the shares of
a plan accepted before, which takes effect at its bell (R445), the zero that a repaired context word leaves (R443), and the
engines at the end of a wake (R478). (The model's readings in it: log entries 17 and 31.) -/
def Obligations.IsolationKeepsTheUnits : Prop :=
  ∀ (s t : State), s.isolated = true → step s = .next t →
    (∀ rest, s.pending ≠ .pgoodFall :: rest ∧ s.pending ≠ .powerOnReset :: rest ∧ s.pending ≠ .blockReset :: rest) →
    t.frags = s.frags ∧
      (∀ i, (t.inst i).noView = { (s.inst i).noView with led := (t.inst i).led }) ∧
      (s.led.plan = none → ∀ i, (t.inst i).led = (s.inst i).led) ∧
      ((∀ d ∈ s.flt.waiting, d.source ≠ 37) →
        (∀ found rest, s.pending = .faultDetection found :: rest → ∀ d ∈ found, d.source ≠ 37) →
        t.queues = s.queues ∧ t.chans = s.chans) ∧
      (s.pwr.phase ≠ .waking → t.engs = s.engs)

/-! ### Boundary, resets and start-up -/

/-- The power lost and the two resets: every register stands at its reset value and every table is empty; only the clocks, the pins
of the power, the supply, the reference and the links, and what is still outstanding stay. TT_HALT and the capture inputs count as
low from then on whatever the pins show, which is the model's choice (log entry 47). A fall of TT_PGOOD does so in every state and leaves the block Off; the resets do so
of a block that is Present or in reset, and a power-on reset of one that is fused absent too; in Off and in Lockdown, which
ends only with the power, the pin falls and nothing else happens. Responses to what was outstanding are still awaited, and every
tag that was in use on a fabric port is retired; an access of that bus clock is completed on the next. (Values that the spec does not give at reset: log entries 2, 4, 5 and 6.) -/
def Obligations.ResetsClearTheBlock : Prop :=
  ∀ s : State,
    (∀ (c : Instr) (p : Power),
      (c = .pgoodFall ∧
        p = { bound := .off, pgood := false, porstN := s.pwr.porstN, rstN := s.pwr.rstN, absent := s.pwr.absent } ∨
       c = .powerOnReset ∧ s.pwr.lockdown = false ∧ s.pwr.bound ≠ .off ∧
        p = { bound := .inReset, pgood := true, porstN := false, rstN := s.pwr.rstN, absent := s.pwr.absent } ∨
       c = .blockReset ∧ s.pwr.lockdown = false ∧ (s.pwr.bound = .present ∨ s.pwr.bound = .inReset) ∧
        p = { bound := .inReset, pgood := true, porstN := s.pwr.porstN, rstN := false, absent := s.pwr.absent }) →
      ∃ t, exec c s = .next t ∧ t.pwr = p ∧
        t = { State.reset with
          pending := s.pending, now := s.now, age := s.age, pwr := p, ports := t.ports, fabs := t.fabs
          clk := { owed := s.glb.rpDone || s.clk.owed }
          droop := { State.reset.droop with rail := s.droop.rail, vref := s.droop.vref } } ∧
        (∀ c, t.port c = {
          oldRd := (s.port c).oldRd ++ (s.port c).rd.map (·.slot), oldWr := (s.port c).oldWr ++ (s.port c).wr.map (·.slot) }) ∧
        (∀ f, t.fab f = { linkup := (s.fab f).linkup, seen := (s.fab f).linkup, epochs := (t.fab f).epochs }) ∧
        (∀ f, ∀ l ∈ (s.fab f).slots, (t.fab f).epoch l.idx = ((s.fab f).epoch l.idx + 1) % 256)) ∧
    (s.pwr.lockdown = true ∨ s.pwr.bound = .off →
      exec .powerOnReset s = .next { s with pwr := { s.pwr with porstN := false } } ∧
      exec .blockReset s = .next { s with pwr := { s.pwr with rstN := false } }) ∧
    (s.pwr.bound = .fusedAbsent → exec .blockReset s = .next { s with pwr := { s.pwr with rstN := false } })

/-- Power and the release of the resets: a rise of TT_PGOOD on an Off block leaves it in reset with TT_PORST_N low; the release of
a block in reset starts it at step FUSE, with the self-test of MEMINIT after a power-on reset, unless TT_ABSENT, sampled at the
release of TT_PORST_N, is high; the release of an Off, a fused-absent or a Present block only moves the pins. -/
def Obligations.ReleaseStartsTheBlock : Prop :=
  ∀ s : State,
    (s.pwr.bound = .off →
      exec .pgoodRise s = .next { s with pwr := { s.pwr with pgood := true, porstN := false, bound := .inReset } }) ∧
    (s.pwr.bound ≠ .off → exec .pgoodRise s = .next s) ∧
    (∀ absent, s.pwr.bound = .inReset →
      ∃ t, exec (.resetRelease absent) s = .next t ∧
        t = { s with pwr := { s.pwr with
          porstN := true, rstN := true, step := 1, selfTest := !s.pwr.porstN, absent := t.pwr.absent, bound := t.pwr.bound
          leftAt := t.pwr.leftAt } } ∧
        t.pwr.absent = (if s.pwr.porstN then s.pwr.absent else absent) ∧
        t.pwr.bound = (if t.pwr.absent then .fusedAbsent else .present) ∧
        (t.pwr.absent = false → t.pwr.leftAt = some s.now)) ∧
    (∀ absent, s.pwr.bound = .off ∨ s.pwr.bound = .present →
      exec (.resetRelease absent) s = .next { s with pwr := { s.pwr with porstN := true, rstN := true } }) ∧
    (∀ absent, s.pwr.bound = .fusedAbsent →
      exec (.resetRelease absent) s = .next { s with pwr := { s.pwr with rstN := true } })

/-- Step FUSE: equal copies with good checks load the factory values, masked to the bits that hold fields, and begin step MEMINIT;
anything else keeps the primary copy readable and takes the block to Lockdown through FUSE_ERR, the step staying FUSE. Past the
step, or in a block that is not Present or is isolated, nothing happens. -/
def Obligations.FuseLoadsOrLocksDown : Prop :=
  ∀ (s : State) (f g : Fuses) (ok : Bool),
    (s.up = true → s.pwr.step = 1 → f = g → ok = true →
      ∃ t, exec (.fuse f g ok) s = .next t ∧ t.pwr = { s.pwr with step := 2 } ∧
        t.droop = { s.droop with
          fuse := [f.cal0 &&& calMask 0, f.cal1 &&& calMask 1, f.cal2 &&& calMask 2, f.cal3 &&& calMask 3]
          sec := f.sec &&& (mask 15 8 ||| mask 1 0), key0 := f.key0, key1 := f.key1, loaded := true } ∧
        t = { s with pwr := t.pwr, droop := t.droop, flt := t.flt }) ∧
    (s.up = true → s.pwr.step = 1 → ¬(f = g ∧ ok = true) →
      ∃ t, exec (.fuse f g ok) s = .next t ∧ t.pwr.lockdown = true ∧ t.pwr.step = 1 ∧ t.pur.state = 5 ∧
        t.droop = { s.droop with
          fuse := [f.cal0 &&& calMask 0, f.cal1 &&& calMask 1, f.cal2 &&& calMask 2, f.cal3 &&& calMask 3]
          sec := f.sec &&& (mask 15 8 ||| mask 1 0), key0 := f.key0, key1 := f.key1, loaded := true } ∧
        (t.src 76).count = satAdd 16 (s.src 76).count 1 ∧ (t.src 76).latched = true ∧ (t.src 76).last = 5) ∧
    (s.up = false ∨ s.pwr.step ≠ 1 → exec (.fuse f g ok) s = .next s)

/-- The later steps of start-up. MEMINIT starts the bell, and the counts of glass 0, and waits for the image; a failed self-test, which only follows a power-on
reset, fails the start-up and names its structure. START_CTL.LOAD begins the image reads with the one that holds the header. A
sound image, read whole, is kept with its signature block; one that was not read whole, a bad header or a signature that does not
verify fails the start-up with the code of what failed. The firmware's end makes the block READY with instance 0 alone, or fails
the start-up; PUR_VER then shows the header's values, but of a HALTED Purser. FAILED shows in START_STAT and in the Purser's
STATE, unless the Purser is HALTED. A step that the block's own clocks or the firmware make waits for RUN, and the firmware's for the
end of a freeze as well. (The model's readings in it: log entries 1, 27 and 45.) -/
def Obligations.StartupReachesReadyOrFails : Prop :=
  (∀ s : State, s.up = true →
    (s.pwr.step = 2 → s.pwr.clocked = true → exec (.meminit 0) s =
      .next { s with
        pwr := { s.pwr with step := 3 }, bell := { s.bell with running := true, glass := 0, pos := 0 }
        gls := { s.gls with acc := [], fab := [], cutOff := false, ready := [], stepNow := s.droop.step } }) ∧
    (s.pwr.step = 3 → s.answersAbsent = false → s.pwr.phase = .run →
      ∃ t, exec .startCtlLoad s = .next t ∧ t.pwr = { s.pwr with step := 4 } ∧
        t.pur.state = (if s.pur.state = 5 then 5 else 1) ∧ t.glb = { s.glb with rpDone := true } ∧
        (s.purWaits = false → ∃ r, (t.port 0).ctl = (s.port 0).ctl ++ [r] ∧ r.owner = .pur ∧ r.write = false ∧
          r.addr = s.pur.img.toNat ∧ r.bytes = 256 ∧ r.inst = 0 ∧ r.gen = 0) ∧
        (∀ c, c ≠ 0 → t.port c = s.port c) ∧ t = { s with pwr := t.pwr, pur := t.pur, glb := t.glb, ports := t.ports }) ∧
    (∀ a : PurAcc, s.pwr.step = 4 → s.pur.acc = some a → a.isOver = true → a.fail = none → imageBad a.data = none →
      ∃ t, exec .load s = .next t ∧ t.pwr = { s.pwr with step := 5 } ∧ t.pur.state = (if s.pur.state = 5 then 5 else 2) ∧
        t.pur.acc = none ∧ t.pur.image = a.data.take (64 + codeLen a.data) ∧
        t.pur.sig = (a.data.drop (64 + codeLen a.data)).take 256 ∧ t.insts = s.insts ∧ t.hold = s.hold) ∧
    (s.pwr.step = 5 → s.pwr.clocked = true → verifyFails s.droop s.pur.image s.pur.sig = none →
      exec .verify s = .next { s with pwr := { s.pwr with step := 6 } }) ∧
    (s.pwr.step = 6 → s.pwr.clocked = true → s.frozen = false → ∃ t, exec (.fwinit true) s = .next t ∧ t.pwr = { s.pwr with step := 7, fpPresent := true } ∧
      t.pur.state = (if s.pur.state = 5 then 5 else 3) ∧ (t.inst 0).state = .active ∧ (t.inst 0).led = firstShare s.bell.p ∧
      (∀ i, i ≠ 0 → t.exists_ i = false) ∧
      t.pur.ver = (if s.pur.state = 5 then s.pur.ver else verOf s.pur.image) ∧
      t = { s with pwr := t.pwr, pur := t.pur, insts := t.insts, droop := { s.droop with recheck := 0 } })) ∧
  (∀ s : State, s.up = true → ∀ (c : Instr) (code : Nat),
    ((∃ n : Fin 8, c = .meminit n ∧ n ≠ 0 ∧ s.pwr.step = 2 ∧ s.pwr.clocked = true ∧ s.pwr.selfTest = true ∧ code = 1) ∨
     (∃ a, c = .load ∧ s.pwr.step = 4 ∧ s.pur.acc = some a ∧
        (a.fail.isSome = true ∨ a.isOver = false ∧ a.at_ + 5000000 ≤ s.now) ∧ code = 2) ∨
     (∃ a, c = .load ∧ s.pwr.step = 4 ∧ s.pur.acc = some a ∧ a.isOver = true ∧ a.fail = none ∧ imageBad a.data = some code) ∨
     (c = .verify ∧ s.pwr.step = 5 ∧ s.pwr.clocked = true ∧ verifyFails s.droop s.pur.image s.pur.sig = some code) ∨
     (c = .fwinit false ∧ s.pwr.step = 6 ∧ s.pwr.clocked = true ∧ s.frozen = false ∧ code = 9)) →
    ∃ t, exec c s = .next t ∧ t.pwr.step = 8 ∧ t.pur.fail = code ∧ t.pur.state = (if s.pur.state = 5 then 5 else 4) ∧
      (∀ n, c = .meminit n → t.pwr.unit = n.val) ∧ t.insts = s.insts ∧ t.queues = s.queues ∧ t.hold = s.hold)

/-! ### The register port -/

/-- While the block is absent, and on the bus clock on which it leaves reset, the responder answers the port: a read or a write
completes with data 0 and has no other effect. Lockdown ignores every register write, and Fatal every write but those of the
collector's registers: nothing changes but the port's completion and, asleep, the wake that any write is. Where the block
answers, an access does what a read or a write at its offset does (log entry 70). -/
def Obligations.AbsentAndIsolatedBlocksIgnoreWrites : Prop :=
  (∀ (s : State) (c : Instr), s.isPresent = false ∨ s.pwr.leftAt = some s.now →
    (isWrite c = true ∨ (∃ i, c = .capValRead i) ∨ ∃ w off v, c = .absenceResponder w off v) →
    exec c s = .next { s with glb := { s.glb with rpRdata := 0, rpDone := true } }) ∧
  (∀ (s : State) (c : Instr), s.isPresent = true → s.pwr.leftAt ≠ some s.now → isWrite c = true →
    (s.pwr.lockdown = true ∨
      s.pwr.fatal = true ∧ (∀ n, c ≠ .frecClose n) ∧
        (∀ off v, c = .registerWrite off v → ∀ r, regAt (8 * off.toNat) = some r → fatalReg r = false)) →
    exec c s = .next (s.wakeBy .register).answered) ∧
  (∀ (s : State) (off : BitVec 24) (v : Word), s.isPresent = true → s.pwr.leftAt ≠ some s.now →
    exec (.absenceResponder true off v) s = exec (.registerWrite off v) s ∧
    ((∀ i, regAt (8 * off.toNat) ≠ some (.capVal i)) → exec (.absenceResponder false off v) s =
      .next { s with glb := { s.glb with rpRdata := s.regRead (8 * off.toNat), rpDone := true } }))

/-- A register write is a wake event: in DOZE and SLEEP a write of TARGET (which selects nothing then), of the lock, the
record, a counter or FREEZE, or one that meets no register, wakes the block for cause Register unless a lower cause of the same
bus clock stands before it; on the next bus clock the block is in WAKING with that cause in WAKE. -/
def Obligations.WriteWakesTheBlock : Prop :=
  (∀ (s : State) (c : Instr), s.isPresent = true → s.answersAbsent = false → (s.pwr.phase = .doze ∨ s.pwr.phase = .sleep) →
    (c = .pwrTargetDoze ∨ c = .pwrTargetSleep ∨ c = .pwrTargetRun ∨ c = .glbCtlLock ∨ (∃ n, c = .frecClose n) ∨
      (∃ n v, c = .tmrCntWrite n v) ∨ (∃ f, c = .dbgCtlFreeze f) ∨
      ∃ off v, c = .registerWrite off v ∧ regAt (8 * off.toNat) = none) →
    ∃ t, exec c s = .next t ∧ t.pwr = { s.pwr with woke := t.pwr.woke } ∧ t.glb.rpDone = true ∧
      t.pwr.woke = some (match s.pwr.woke with | some .pin => .pin | some .fabric => .fabric | _ => .register)) ∧
  (∀ (s : State) (c : WakeCause), s.pwr.woke = some c →
    s.nextClock.pwr.phase = .waking ∧ s.nextClock.pwr.woke = none ∧
    s.nextClock.pwr.wake = (match c with | .pin => 1 | .fabric => 2 | .register => 3 | .fault => 4))

/-- What a register write leaves: the register at the offset takes it, an offset that names none changes nothing; LOCK is
set by GLB_CTL_LOCK and stays; a timed-out access answers 0 and drops the write, and raises RP_TMO with its offset unless the offset
is reserved space; asleep, a timed-out write wakes the block as any write does. -/
def Obligations.RegisterWritesLand : Prop :=
  ∀ (s : State), s.taking = true →
    (∀ off v r, regAt (8 * BitVec.toNat off) = some r → exec (.registerWrite off v) s = .next (s.writeReg r v).answered) ∧
    (∀ off v, regAt (8 * BitVec.toNat off) = none → exec (.registerWrite off v) s = .next s.answered) ∧
    (∀ (j : Fin 128) (v : Word), ∃ t, exec (.registerWrite (BitVec.ofNat 24 (0x80 + j.val)) v) s = .next t ∧
      t.readReg (.irqRoute j.val) = v &&& 0xBFBFBFBFBFBFBFBF ∧
      (∀ k, k ≠ j.val → t.readReg (.irqRoute k) = s.readReg (.irqRoute k)) ∧ t = { s with glb := t.glb }) ∧
    (∀ (n : Fin 32) (v : Word), ∃ t, exec (.registerWrite (BitVec.ofNat 24 (0x402 + 4 * n.val)) v) s = .next t ∧
      (t.counter n.val).cmp = v.toNat % 2 ^ 32 ∧ (∀ k, k ≠ n.val → t.counter k = s.counter k)) ∧
    exec .glbCtlLock s = .next { s with glb := { s.glb with lock := true, rpDone := true } } ∧
    (∀ w off, ∃ t, exec (.rpTmo w off) s = .next t ∧ t = { s with glb := t.glb, flt := t.flt } ∧
      t.glb = { s.glb with rpRdata := 0, rpDone := true } ∧
      t.flt = { s.flt with waiting := s.flt.waiting ++ (if regAt (8 * BitVec.toNat off) = none then [] else
        [{ source := 67, attr := { kind := 0, unit := 0, inst := none }, detail := BitVec.ofNat 64 (8 * BitVec.toNat off),
           xcause := none, present := true }]) }) ∧
    (∀ (u : State) (w : Bool) (off : BitVec 24), u.up = true → u.answersAbsent = false → (u.pwr.phase = .doze ∨ u.pwr.phase = .sleep) →
      u.pwr.woke = none → ∃ t, exec (.rpTmo w off) u = .next t ∧ t = { u with glb := t.glb, flt := t.flt, pwr := t.pwr } ∧
        t.pwr = { u.pwr with woke := if w then some .register else none } ∧ t.glb = { u.glb with rpRdata := 0, rpDone := true })

/-! ### Bell and timers -/

/-- A bell: POS returns to 0, the glass number rises by one modulo 2^64, the step at the bell is sampled, the lowest step of the
glass that ends waits to be published on the next bus clock, and TT_BELL_OUT pulses. It rings in free mode at PERIOD, at an edge
of TT_BELL_IN within the tolerance of a locked bell, and at PERIOD + TOL without one. A locked bell that has rung there without an edge
still takes one of that bus clock as acted and rings no second time; where none comes by its end the edge is missed, which is
counted. An early edge of a locked bell rings nothing, is counted and raises BELL_EARLY; one while the bell acquires, in the first
half of the period, only aligns POS and locks.
(The model's readings in it: log entries 20, 24 and 67.) -/
def Obligations.TheBellRings : Prop :=
  (∀ (s : State) (c : Instr), s.bellRuns = true →
    ((c = .bell ∧ (s.bell.locked = false ∧ s.bell.period ≤ s.bell.pos ∨
         s.bell.slaved = true ∧ s.bell.locked = true ∧ s.bell.period + s.bell.tol ≤ s.bell.pos)) ∨
     (c = .bellInEdge ∧ s.bell.slaved = true ∧ s.bell.locked = true ∧ s.bell.period ≤ s.bell.pos + s.bell.tol ∧
       s.bell.pos ≤ s.bell.period + s.bell.tol ∧ s.clk.awaits = false) ∨
     (c = .bellMiss ∧ s.bell.slaved = true ∧ s.bell.locked = true ∧ s.bell.period + s.bell.tol ≤ s.bell.pos) ∨
     (c = .bellAcquire ∧ s.bell.slaved = true ∧ s.bell.locked = false ∧ s.bell.period / 2 ≤ s.bell.pos)) →
    ∃ t n, exec c s = .next t ∧ t.bell.pos = 0 ∧ t.bell.glass = (s.bell.glass + 1) % 2 ^ 64 ∧ t.bell.out = true ∧
      t.gls.snap = some n ∧ n.min = s.gls.stepNow ∧ t.gls.stepMin = s.gls.stepMin ∧ t.nextClock.gls.stepMin = n.min ∧
      t.gls.stepBell = s.droop.step ∧ t.gls.stepNow = s.droop.step ∧
      (c = .bellMiss → t.bell.misses = satAdd 16 s.bell.misses 1 ∧ t.bell.miss = true) ∧
      (c ≠ .bellMiss → t.bell.misses = s.bell.misses) ∧
      (c = .bell → s.bell.locked = true → t.clk.awaits = true)) ∧
  (∀ s : State, s.bellRuns = true → s.clk.awaits = true → s.bell.atEdge = false →
    (∃ t, exec .bellMiss s = .next t ∧ t.bell.misses = satAdd 16 s.bell.misses 1 ∧ t.bell.miss = true ∧
      t.bell.pos = s.bell.pos ∧ t.bell.glass = s.bell.glass ∧ t.clk.awaits = false ∧
      t = { s with bell := t.bell, clk := t.clk, flt := t.flt }) ∧
    (s.bell.slaved = true → s.bell.locked = true → s.bell.pos ≤ s.bell.period + s.bell.tol →
      exec .bellInEdge s = .next { s with bell := { s.bell with missRun := 0 }, clk := { s.clk with awaits := false } })) ∧
  (∀ s : State, s.bellRuns = true → s.bell.slaved = true →
    (s.bell.locked = true → s.bell.pos + s.bell.tol < s.bell.period → s.clk.awaits = false →
      ∃ t, exec .bellInEdge s = .next t ∧ t.bell = { s.bell with early := true, earlies := satAdd 16 s.bell.earlies 1 } ∧
        t = { s with bell := t.bell, flt := t.flt, clk := t.clk } ∧ t.flt.waiting.length = s.flt.waiting.length + 1) ∧
    (s.bell.locked = false → s.bell.pos < s.bell.period / 2 →
      exec .bellAcquire s = .next { s with bell := { s.bell with locked := true, missRun := 0, pos := 0 } }))

/-- A bus clock of a pair of counters that do not act on each other, neither of which a write of the bus clock has met: the even
one, and an odd one that is not chained, ticks if it runs and its prescaler expires; a chained odd one ticks if it runs and the
even one ticks to 0. A tick takes the next value, sets MATCH if that is CMP and OVF if it is 0; every other counter stays. A
write of CNT sets it and clears PHASE; no other counter changes, and the tick of its bus clock leaves CNT as written. A read of
TMR_CNT returns the counter below its partner. -/
def Obligations.CountersTickAndAreWritten : Prop :=
  (∀ (s : State) (k : Fin 16), s.timersRun = true → s.clk.cnt = [] → s.clk.wrote = [] →
    (s.counter (2 * k.val)).linkEv = 0 → (s.counter (2 * k.val + 1)).linkEv = 0 → (s.counter (2 * k.val)).chain = false →
    ∃ t, exec (.timerTick (Fin.ofNat 32 (2 * k.val))) s = .next t ∧ t = { s with tmr := t.tmr, clk := t.clk } ∧
      (∀ n, n ≠ 2 * k.val → n ≠ 2 * k.val + 1 → t.counter n = s.counter n) ∧
      (∀ n ticks, (n = 2 * k.val ∧ ticks = (s.counter n).expires ∨
          n = 2 * k.val + 1 ∧ (s.counter n).chain = false ∧ ticks = (s.counter n).expires ∨
          n = 2 * k.val + 1 ∧ (s.counter n).chain = true ∧
            ticks = ((s.counter n).run && (s.counter (2 * k.val)).expires && (s.counter (2 * k.val)).nextCnt == 0)) →
        (ticks = true →
          (t.counter n).cnt = (s.counter n).nextCnt ∧ ((s.counter n).chain = false → (t.counter n).phase = 0) ∧
          (t.counter n).hit = ((s.counter n).hit || (s.counter n).nextCnt == (s.counter n).cmp) ∧
          (t.counter n).ovf = ((s.counter n).ovf || (s.counter n).nextCnt == 0)) ∧
        (ticks = false →
          (t.counter n).cnt = (s.counter n).cnt ∧ (t.counter n).hit = (s.counter n).hit ∧
          (t.counter n).ovf = (s.counter n).ovf))) ∧
  (∀ (s : State) (n : Fin 32) (v : Word), s.taking = true →
    ∃ t, exec (.tmrCntWrite n v) s = .next t ∧ t = { s with tmr := t.tmr, glb := t.glb, clk := t.clk } ∧
      (t.counter n.val) = { s.counter n.val with cnt := v.toNat % 2 ^ 32, phase := 0 } ∧
      (∀ k, k ≠ n.val → t.counter k = s.counter k) ∧ t.tmr.cap = s.tmr.cap ∧ t.glb = { s.glb with rpDone := true } ∧
      (∃ u, exec (.timerTick n) t = .next u ∧ (u.counter n.val).cnt = v.toNat % 2 ^ 32)) ∧
  (∀ (s : State) (k : Fin 16), s.clk.cnt = [] → (s.counter (2 * k.val)).cnt < 2 ^ 32 → (s.counter (2 * k.val + 1)).cnt < 2 ^ 32 →
    (s.readReg (.tmrCnt (2 * k.val))).toNat = (s.counter (2 * k.val + 1)).cnt * 2 ^ 32 + (s.counter (2 * k.val)).cnt ∧
    (s.readReg (.tmrCnt (2 * k.val + 1))).toNat = (s.counter (2 * k.val)).cnt * 2 ^ 32 + (s.counter (2 * k.val + 1)).cnt)

/-- Capture inputs, on a bus clock that has brought them nothing before: an input that this bus clock completes the F bus clocks of its
filter for, with an edge that qualifies, captures the counter past the divisor, sets PENDING and, where PENDING was set, OVR with
CAP_OVR; within the divisor it only counts; before F bus clocks, without EN and for an edge that does not qualify CAPTURE_EDGE changes
nothing but the sampled level; an edge that does not qualify moves LEVEL, and so does any level of a disabled input. A read of
CAP_VAL returns VAL and clears PENDING, but with a capture of the same bus clock PENDING stays and there is no overrun, nor CAP_OVR. EN
rising clears DIVCNT and PENDING and sets LEVEL to the input. -/
def Obligations.CapturesAndTheirReads : Prop :=
  ∀ (s : State) (i : Fin 8) (y : Bool), s.clk.cnt = [] → s.clk.cap = [] → s.clk.took = [] →
    (s.capsRun = true → (s.capture i.val).en = true → (s.capture i.val).level ≠ y → (s.capture i.val).qualifies y = true →
      (s.capture i.val).filter ≤ s.now + 1 - s.levelSince i.val y → (s.capture i.val).div ≤ (s.capture i.val).divcnt →
      ∃ t u, exec (.captureEdge i y) s = .next t ∧ t = { s with tmr := t.tmr, clk := t.clk, flt := t.flt } ∧
        t.capture i.val = { s.capture i.val with
          y := y, yAt := s.levelSince i.val y, level := y, divcnt := 0, val := s.capture64 (s.capture i.val).cntr, pending := true
          ovr := (s.capture i.val).ovr || (s.capture i.val).pending } ∧
        ((s.capture i.val).pending = false → t.flt = s.flt) ∧
        ((s.capture i.val).pending = true → t.flt.waiting.length = s.flt.waiting.length + 1 ∧ ∃ d ∈ t.flt.waiting, d.source = 77) ∧
        (∀ j, j ≠ i.val → t.capture j = s.capture j) ∧ t.tmr.cnt = s.tmr.cnt ∧
        (s.answersAbsent = false → exec (.capValRead i) t = .next u ∧ u.glb.rpRdata = (s.capture i.val).val ∧
          u.capture i.val = { t.capture i.val with ovr := (s.capture i.val).ovr } ∧
          ((∀ d ∈ s.flt.waiting, d.source ≠ 77) → u.flt = s.flt))) ∧
    (s.capsRun = true → (s.capture i.val).en = true → (s.capture i.val).level ≠ y → (s.capture i.val).qualifies y = true →
      (s.capture i.val).filter ≤ s.now + 1 - s.levelSince i.val y → (s.capture i.val).divcnt < (s.capture i.val).div →
      ∃ t, exec (.captureEdge i y) s = .next t ∧ t = { s with tmr := t.tmr, clk := t.clk } ∧
        t.capture i.val = { s.capture i.val with
          y := y, yAt := s.levelSince i.val y, level := y, divcnt := (s.capture i.val).divcnt + 1 } ∧
        (∀ j, j ≠ i.val → t.capture j = s.capture j) ∧ t.tmr.cnt = s.tmr.cnt) ∧
    (s.capsRun = false ∨ (s.capture i.val).en = false ∨ (s.capture i.val).level = y ∨ (s.capture i.val).qualifies y = false ∨
        s.now + 1 - s.levelSince i.val y < (s.capture i.val).filter →
      ∃ t, exec (.captureEdge i y) s = .next t ∧ t = { s with tmr := t.tmr } ∧
        t.capture i.val = { s.capture i.val with y := y, yAt := s.levelSince i.val y } ∧
        (∀ j, j ≠ i.val → t.capture j = s.capture j) ∧ t.tmr.cnt = s.tmr.cnt) ∧
    (s.capsRun = true → (s.capture i.val).en = false ∨
        (s.capture i.val).qualifies y = false ∧ (s.capture i.val).filter ≤ s.now + 1 - s.levelSince i.val y →
      ∃ t, exec (.filteredEdge i y) s = .next t ∧ t = { s with tmr := t.tmr, clk := t.clk } ∧
        t.capture i.val = { s.capture i.val with y := y, yAt := s.levelSince i.val y, level := y } ∧
        (∀ j, j ≠ i.val → t.capture j = s.capture j) ∧ t.tmr.cnt = s.tmr.cnt) ∧
    (s.answersAbsent = false → ∃ t, exec (.capValRead i) s = .next t ∧ t.glb.rpRdata = (s.capture i.val).val ∧
      t.glb.rpDone = true ∧ t.capture i.val = { s.capture i.val with pending := false } ∧
      t = { s with tmr := t.tmr, glb := t.glb, clk := t.clk } ∧ ∀ j, j ≠ i.val → t.capture j = s.capture j) ∧
    (s.taking = true → (s.capture i.val).en = false → ∃ t, exec (.capEnable i y) s = .next t ∧
      (t.capture i.val).en = true ∧ (t.capture i.val).level = y ∧ (t.capture i.val).divcnt = 0 ∧
      (t.capture i.val).pending = false ∧ (t.capture i.val).val = (s.capture i.val).val ∧
      t = { s with tmr := t.tmr, glb := t.glb, clk := t.clk } ∧ ∀ j, j ≠ i.val → t.capture j = s.capture j)

/-! ### Power, droop and calibration -/

/-- Writes of TARGET: in RUN 1 and 2 begin the entry into DOZE and SLEEP, which gives up the polls not issued and flushes the
logs, and 0 does nothing; before the quiescence point they choose the state entered, and 0 returns to RUN; past it, in DOZE and
SLEEP, and in WAKING, TARGET and phase stay. -/
def Obligations.PowerTargets : Prop :=
  ∀ s : State, s.up = true → s.answersAbsent = false →
    (s.pwr.phase = .run →
      (∀ c k, c = .pwrTargetDoze ∧ k = 1 ∨ c = .pwrTargetSleep ∧ k = 2 →
        ∃ t, exec c s = .next t ∧ t.pwr = { s.pwr with phase := .entering, target := k, quiesced := false, held := none } ∧
          t = { s with pwr := t.pwr, logc := t.logc, glb := t.glb, queues := t.queues } ∧
          (∀ g, t.queue? g = (s.queue? g).map (fun q => { q with waiting := false }))) ∧
      exec .pwrTargetRun s = .next s.answered) ∧
    (s.pwr.phase = .entering → s.pwr.quiesced = false →
      exec .pwrTargetDoze s = .next { s with pwr := { s.pwr with target := 1 } }.answered ∧
      exec .pwrTargetSleep s = .next { s with pwr := { s.pwr with target := 2 } }.answered ∧
      exec .pwrTargetRun s = .next { s with pwr := { s.pwr with phase := .run, target := 0 } }.answered) ∧
    (s.pwr.phase = .entering ∧ s.pwr.quiesced = true ∨ s.pwr.phase = .doze ∨ s.pwr.phase = .sleep ∨ s.pwr.phase = .waking →
      ∀ c, c = .pwrTargetDoze ∨ c = .pwrTargetSleep ∨ c = .pwrTargetRun →
        ∃ t, exec c s = .next t ∧ t.pwr.target = s.pwr.target ∧ t.pwr.phase = s.pwr.phase)

/-- From the quiescence point to low power and back: the point is reached only with nothing left to do; the entry edge, or
32,000 bus clocks without one, holds the counters and enters the TARGET, and an edge that comes later in the stay is counted; a wake
event of the pin, a flit on a port whose LINKUP is high, a register write or a fault wakes the block, of two on one bus clock with the
lower cause; the wake's end returns to RUN with TARGET 0, the holds of a stay in SLEEP zero and every halted engine IDLE.
(The model's readings in it: log entries 25, 48, 50 and, for the count of edges, 68.) -/
def Obligations.LowPowerAndBack : Prop :=
  ∀ s : State, s.up = true →
    (s.pwr.phase = .entering → s.pwr.quiesced = false → s.quiescent = true →
      exec .quiescencePoint s = .next { s with pwr := { s.pwr with quiesced := true, waitFrom := s.now, held := none } }) ∧
    (s.quiescent = false → exec .quiescencePoint s = .next s) ∧
    (∀ edge, s.pwr.phase = .entering → s.pwr.quiesced = true → s.pwr.exitWait = false →
      (edge = true ∨ s.pwr.waitFrom + 32000 ≤ s.now) →
      exec (.entryEdge edge) s = .next { s with pwr := { s.pwr with
        phase := if s.pwr.target = 2 then .sleep else .doze, timeHeld := true, noedge := !edge, lowAt := s.now, edges := 0
        ran := s.counting } }) ∧
    (s.pwr.phase ≠ .entering → s.pwr.timeHeld = true → s.pwr.exitWait = false →
      exec (.entryEdge true) s = .next { s with pwr := { s.pwr with edges := s.pwr.edges + 1 } }) ∧
    (∀ c port, s.pwr.phase = .doze ∨ s.pwr.phase = .sleep → (c = .fabric → (s.fab port.val).linkup = true) →
      s.pwr.woke = none ∨ s.pwr.woke = some c →
      exec (.wakeEvent c port) s = .next { s with pwr := { s.pwr with woke := some c } }) ∧
    (∀ c d port, s.pwr.phase = .doze ∨ s.pwr.phase = .sleep → (c = .fabric → (s.fab port.val).linkup = true) → s.pwr.woke = some d →
      exec (.wakeEvent c port) s =
        .next { s with pwr := { s.pwr with woke := some (if wakeCode d ≤ wakeCode c then d else c) } }) ∧
    (s.pwr.phase = .waking → s.pwr.later = [] → ∃ t, exec (.wakeComplete []) s = .next t ∧ t.pwr.phase = .run ∧
      t.pwr.target = 0 ∧ t.pwr.exitWait = true ∧ t.pwr.exitFrom = s.now ∧ t.bell.noAdmit = true ∧
      t = { s with pwr := t.pwr, bell := t.bell, hold := t.hold, engs := t.engs } ∧
      (s.pwr.target = 2 → t.hold = [] ∧ ∀ e, (t.eng e).halted = false ∧ (t.eng e).clearing = false) ∧
      (s.pwr.target ≠ 2 → t.hold = s.hold ∧
        ∀ e, (t.eng e).halted = (s.eng e).halted ∧ (t.eng e).clearing = (s.eng e).clearing))

/-- Dead reckoning at the exit edge: DR_STAT takes the slow edges, saturated, and the remainder, DR_MADE the bus clocks that
were made up, SAT and NOEDGE as the stay gives them, and the bell goes on by as many bus clocks. The slow edges are those that
came since the entry edge, with the exit edge itself. A stay with no slow edge makes up none and raises SCLK_FAIL.
(The model's readings in it: log entry 68.) -/
def Obligations.DeadReckoningMakesUpTheTime : Prop :=
  ∀ (s : State) (edges : Nat) (edge : Bool) (caps : BitVec 8) (n e : Nat), s.isPresent = true → s.pwr.exitWait = true →
    (edge = true ∨ s.pwr.exitFrom + 32000 ≤ s.now) → n = s.pwr.edges + edges + (if edge then 1 else 0) →
    e = (min n (2 ^ 40 - 1) * 1953125 + s.tmr.frac) / 128 →
    ∃ t, exec (.deadReckoning edges edge caps) s = .next t ∧
      t.tmr.slow = min n (2 ^ 40 - 1) ∧ t.tmr.frac = (min n (2 ^ 40 - 1) * 1953125 + s.tmr.frac) % 128 ∧
      t.tmr.made = BitVec.ofNat 64 e ∧ t.tmr.sat = decide (2 ^ 40 - 1 < n) ∧
      t.tmr.noedge = (s.pwr.noedge || !(edge && decide (s.now ≤ s.pwr.exitFrom + 32000))) ∧
      t.pwr = { s.pwr with timeHeld := false, exitWait := false, edges := 0, ran := [] } ∧
      (s.bell.running = true → t.bell.pos = (s.bell.pos + e) % s.bell.period ∧
        t.bell.glass = (s.bell.glass + (s.bell.pos + e) / s.bell.period) % 2 ^ 64 ∧ t.bell.locked = false) ∧
      (n = 0 → (s.tmr.frac < 128 → t.tmr.made = 0) ∧ ∃ d ∈ t.flt.waiting, d.source = 7) ∧ (n ≠ 0 → t.flt = s.flt) ∧
      t.insts = s.insts ∧ t.chans = s.chans ∧ t.hold = s.hold

/-- The clock step: a trip to a deeper level takes the step at once and restarts GOOD, the lowest step of the glass follows, and the
level sources passed begin; each of the three levels that is newly tripped is counted, saturating, unless software writes the counts
on the same bus clock; the step rises by one after 500 good bus clocks, and the source of the level left ends. Nothing else changes.
(The model's readings in it: log entry 49.) -/
def Obligations.DroopMovesTheStep : Prop :=
  ∀ s : State, s.droopRuns = true →
    (∀ (rail vref : Nat) (d : Droop), d = { s.droop with rail, vref } →
      ∃ t, exec (.droopTrip rail vref) s = .next t ∧
        t.droop = { d with
          level := d.deepest, on := [1, 2, 3].filter d.tripped, step := max s.droop.step d.deepest
          good := if s.droop.step < d.deepest then 0 else s.droop.good
          trip1 := t.droop.trip1, trip2 := t.droop.trip2, trip3 := t.droop.trip3 } ∧
        (∀ k before after,
          (k = 1 ∧ before = s.droop.trip1 ∧ after = t.droop.trip1 ∨ k = 2 ∧ before = s.droop.trip2 ∧ after = t.droop.trip2 ∨
            k = 3 ∧ before = s.droop.trip3 ∧ after = t.droop.trip3) →
          (s.written 0x8028 = none → d.tripped k = true → k ∉ s.droop.on → after = satAdd 16 before 1) ∧
          (s.written 0x8028 = none → d.tripped k = false ∨ k ∈ s.droop.on → after = satAdd 16 before 0) ∧
          (∀ v, s.written 0x8028 = some v → after = before)) ∧
        t.gls = { s.gls with stepNow :=
          if s.droop.step < d.deepest then (if s.bell.running then max s.gls.stepNow d.deepest else d.deepest)
          else s.gls.stepNow } ∧
        (∀ k, s.droop.step < k → k ≤ d.deepest → ∃ f ∈ t.flt.waiting, f.source = 67 + k ∧ f.present = true) ∧
        (d.deepest ≤ s.droop.step → t.flt = s.flt) ∧
        t = { s with droop := t.droop, gls := t.gls, flt := t.flt }) ∧
    (s.droop.step ≠ 0 → s.droop.step ≤ 3 → s.droop.railGood = true → 499 ≤ s.droop.good →
      ∃ t, exec .stepRise s = .next t ∧ t.droop = { s.droop with step := s.droop.step - 1, good := 0 } ∧
        t.gls = { s.gls with stepNow :=
          if s.bell.running then max s.gls.stepNow (s.droop.step - 1) else s.droop.step - 1 } ∧
        (∃ f, t.flt = { s.flt with waiting := s.flt.waiting ++ [f] } ∧ f.source = 67 + s.droop.step ∧ f.present = false) ∧
        t = { s with droop := t.droop, gls := t.gls, flt := t.flt }) ∧
    (s.droop.step = 0 ∨ s.droop.railGood = false ∨ s.droop.good < 499 → exec .stepRise s = .next s)

/-- Trims, offsets, temperature and the recheck of the code: a self-trim moves the one comparator whose turn it is by its
correction within −2 and 2, but not in a freeze; a write of CAL_OFS0 or CAL_OFS1 is held; TEMP is the sample and CRIT is raised as it passes
125 °C; a code recheck that differs raises PUR_IMG.
(The model's readings in it: log entry 44.) -/
def Obligations.TrimsAndSamples : Prop :=
  ∀ s : State, s.droopRuns = true →
    (∀ c : Int, s.frozen = false → 4096 ≤ s.droop.bells → s.droop.turn < 6 →
      ∃ t, exec (.droopSelfTrim c) s = .next t ∧ t.droop.bells = 0 ∧ t.droop.turn = (s.droop.turn + 1) % 6 ∧
        (∀ j, j < 6 → t.droop.trims.getD j 0 = s.droop.trims.getD j 0 + if j = s.droop.turn then clamp (-2) 2 c else 0) ∧
        (2 < c.natAbs → t.flt.waiting.length = s.flt.waiting.length + 1) ∧ (c.natAbs ≤ 2 → t.flt = s.flt) ∧
        t = { s with droop := t.droop, flt := t.flt }) ∧
    (∀ (k : Fin 4) (v : Word), s.taking = true → k.val < 2 ∨ s.pwr.step = 3 →
      ∃ t, exec (.calOfsWrite k v) s = .next t ∧ wordAt t.droop.ofs k.val = v &&& calMask k.val ∧
        (∀ j, j < 4 → j ≠ k.val → wordAt t.droop.ofs j = wordAt s.droop.ofs j) ∧ t.droop.fuses = s.droop.fuses ∧
        t = { s with droop := t.droop, flt := t.flt, glb := t.glb } ∧ (s.droop.loaded = false → t.flt = s.flt)) ∧
    (∀ (k : Fin 4) (v : Word), s.taking = true → 2 ≤ k.val → s.pwr.step ≠ 3 → exec (.calOfsWrite k v) s = .next s.answered) ∧
    (∀ x : BitVec 8, ∃ t, exec (.tempSample x) s = .next t ∧ t.pwr = { s.pwr with temp := x } ∧
      t = { s with pwr := t.pwr, flt := t.flt } ∧
      (125 < x.toInt → ¬ 125 < s.pwr.temp.toInt → ∃ d ∈ t.flt.waiting, d.source = 74 ∧ d.present = true)) ∧
    (∀ same, s.pwr.step = 7 → s.pwr.clocked = true → 65536 ≤ s.droop.recheck →
      ∃ t, exec (.codeRecheck same) s = .next t ∧ t.droop = { s.droop with recheck := 0 } ∧
        t = { s with droop := t.droop, flt := t.flt } ∧ (same = true → t.flt = s.flt) ∧
        (same = false → ∃ d ∈ t.flt.waiting, d.source = 48))

/-! ### Debug halt -/

/-- Debug: the pin sets and clears HALT of a Present block, DBG_CTL.FREEZE is written unless LOCK is set. A freeze is HALT and FREEZE
together; where a change ends one, a slaved bell goes back to acquiring, and otherwise the bell stays as it is. The bus clock keeps the
values it was held at, and nothing else changes. -/
def Obligations.DebugHaltAndFreeze : Prop :=
  ∀ s : State,
    (s.isPresent = true →
      exec .debugHaltAssert s = .next { s with
        glb := { s.glb with halt := true }, clk := { s.clk with dbg := some s.heldDbg } } ∧
      exec .debugHaltRelease s = .next { s with
        glb := { s.glb with halt := false }, clk := { s.clk with dbg := some s.heldDbg }
        bell := if s.frozen then { s.bell with locked := false } else s.bell }) ∧
    (s.isPresent = false → exec .debugHaltAssert s = .next s ∧ exec .debugHaltRelease s = .next s) ∧
    (∀ f, s.taking = true → s.glb.lock = false →
      exec (.dbgCtlFreeze f) s = .next { s with
        glb := { s.glb with freeze := f, rpDone := true }, clk := { s.clk with dbg := some s.heldDbg }
        bell := if s.frozen = true ∧ f = false then { s.bell with locked := false } else s.bell }) ∧
    (∀ f, s.taking = true → s.glb.lock = true → exec (.dbgCtlFreeze f) s = .next s.answered)

/-! ### Fragments: assignment, admission, requests -/

/-- The dispatcher assigns its choice: the fragment takes the hold space that is its place, and nothing is charged or asked
of a port; with no choice, or while no new work begins, nothing happens.
(The model's readings in it: log entries 12 and 58.) -/
def Obligations.DispatcherAssigns : Prop :=
  ∀ (s : State) (c : Fin 8),
    (∀ f, s.newWork = true → s.dispatchChoice c.val = some f →
      ∃ t g, exec (.dispatchAssign c) s = .next t ∧ t.frags = s.frags ++ [g] ∧ g.id = s.nextId ∧ g.phase = .assigned ∧
        g.ctx = f.ctx ∧ g.pos = f.pos ∧ g.len = f.len ∧ g.src = f.src ∧ g.dst = f.dst ∧ g.charge = f.charge ∧
        s.place f.cluster f.len = some (g.eng, g.bank, g.slot) ∧
        t.insts = s.insts ∧ t.fabs = s.fabs ∧ t.gls = s.gls ∧ t.cc = s.cc ∧ t.glb = s.glb ∧
        (∀ k, (t.port k).rd = (s.port k).rd ∧ (t.port k).wr = (s.port k).wr ∧ ∀ r ∈ (t.port k).ctl, r ∈ (s.port k).ctl) ∧
        (∀ a, a < g.at_ ∨ g.at_ + f.len ≤ a → Memory.read t.hold a = Memory.read s.hold a) ∧
        (f.src ≠ none → t.hold = s.hold)) ∧
    (s.newWork = false ∨ s.dispatchChoice c.val = none → exec (.dispatchAssign c) s = .next s)

/-- Admission, of the state in which every request that waits for a log cache entry has been counted: a page that does not translate
ends the fragment with DATA_XLATE, a node no port leads to with FP_NOLINK; a budget that lacks gives its hold space back with that of
the later ones of its context; else its first read is granted on its arbiter's turn, and the budget pays for it.
(The model's readings in it: log entry 53.) -/
def Obligations.AdmissionDecides : Prop :=
  ∀ (s u : State) (id : Nat) (f : Frag), s.issues = true → u = s.countAllWaits → u.frag? id = some f → f.phase = .assigned →
    (∀ dst c, u.admitCheck f = .xfail dst c → ∃ t, exec (.admission id) s = .next t ∧ t.frag? id = none ∧
      t.hold = s.hold ∧ t.gls = s.gls ∧ ∃ d ∈ t.flt.waiting, d.source = 14 ∧ d.attr = f.attr ∧ d.xcause = some c) ∧
    (∀ dst, u.admitCheck f = .noLink dst → ∃ t, exec (.admission id) s = .next t ∧ t.frag? id = none ∧
      t.hold = s.hold ∧ t.gls = s.gls ∧ ∃ d ∈ t.flt.waiting, d.source = 49 ∧ d.attr = f.attr) ∧
    (u.admitCheck f = .giveBack → ∃ t, exec (.admission id) s = .next t ∧
      t.frags = u.frags.filter (fun x => !(x.ctx == f.ctx && !x.prior f && x.phase == .assigned)) ∧
      t.hold = s.hold ∧ t.gls = s.gls ∧ t.ports = u.ports ∧ t.fabs = s.fabs ∧
      (f.ctx.isQueue = true → t.insts = s.insts ∧ t.flt = u.flt ∧ t.chans = s.chans)) ∧
    (u.admitCheck f = .wait → exec (.admission id) s = .next u) ∧
    (∀ k q rest p o, u.admitCheck f = .go k → f.src ≠ none → u.sideReqs f false = q :: rest → u.ownTurn f = some (p, o) →
      ∃ t g, exec (.admission id) s = .next t ∧ t.frag? id = some g ∧ g.phase = .reading ∧ g.rdReqs = rest ∧
        g.rdOut = f.rdOut + 1 ∧ g.charge = k ∧ g.admGlass = s.bell.glass ∧ t.hold = s.hold ∧ t.flt = u.flt ∧
        (k = .firm → nth (t.inst f.inst).leftF f.cluster = nth (s.inst f.inst).leftF f.cluster - f.len ∧
          (t.inst f.inst).leftS = (s.inst f.inst).leftS) ∧
        (∀ n, k = .soft n → nth (t.inst f.inst).leftS f.cluster = nth (s.inst f.inst).leftS f.cluster - f.len ∧
          (t.inst f.inst).leftF = (s.inst f.inst).leftF) ∧
        (∀ i, i ≠ f.inst → t.inst i = s.inst i))

/-- The first write request of a staged fragment is granted on its arbiter's turn: one write more is outstanding, the hold
keeps its bytes; a fragment that reads nothing is admitted as any other. -/
def Obligations.WritesBegin : Prop :=
  ∀ (s u : State) (id : Nat) (f : Frag) (par : List (Nat × OutPar)), s.issues = true → u = s.countAllWaits → u.frag? id = some f →
    (∀ q rest p o, f.phase = .staged → f.wrReqs = q :: rest → u.ownTurn f = some (p, o) →
      ∃ t g, exec (.fragmentWriteStart id par) s = .next t ∧ t.frag? id = some g ∧ g.wrReqs = rest ∧ g.wrOut = f.wrOut + 1 ∧
        g.writes = true ∧ t.hold = s.hold ∧ t.engs = s.engs ∧ t.cc = s.cc ∧
        (f.wport = none → (t.port f.cluster).wr.length = (u.port f.cluster).wr.length + 1 ∧ t.fabs = s.fabs)) ∧
    (f.phase = .assigned → f.src = none → exec (.fragmentWriteStart id []) s = exec (.admission id) s) ∧
    (f.phase = .staged → u.ownTurn f = none → exec (.fragmentWriteStart id par) s = .next u)

/-- The arbiter of a memory port grants an offer of the best class, and in that class the requester that comes first behind
the one it last granted; a granted control read goes out under a free slot with its address and size. The arbiter of a fabric
port sends the message it grants, counted by its bytes, and no message while LINKUP is low. Requests that wait for a log cache entry
have been counted before either grants. -/
def Obligations.ArbitersGrantInOrder : Prop :=
  (∀ (s : State) (c : Fin 8) (par : List (Nat × OutPar)), s.issues = true →
    let u := s.countAllWaits
    (u.arbChoice (.mem c) = none → exec (.arbiterGrant (.mem c) par) s = .next u) ∧
    (∀ o, u.arbChoice (.mem c) = some o →
      (∀ x ∈ u.memOffers c.val, o.rank ≤ x.rank ∧ (x.rank = o.rank →
        cycDist 18 (tabGet 0 (u.port c.val).rr o.rank) o.who ≤ cycDist 18 (tabGet 0 (u.port c.val).rr o.rank) x.who)) ∧
      (∀ r, o.what = .ctl c.val r → r.write = false → u.ctlDest r = .mem → loggedOwner r.owner = false → r.owner ≠ .pur →
        ∃ t x, exec (.arbiterGrant (.mem c) par) s = .next t ∧ (t.port c.val).rd = (u.port c.val).rd ++ [x] ∧
          x.owner = r.owner ∧ x.due = r.bytes ∧ x.slot = u.freeSlot c.val false ∧
          (t.port c.val).lastReq = some (portReq false false r.addr r.width r.bytes r.inst r.gen x.slot) ∧
          (t.port c.val).ctl = dropFirst (fun y => y == r) (u.port c.val).ctl ∧
          tabGet 0 (t.port c.val).rr o.rank = o.who + 1 ∧ (∀ k, k ≠ c.val → t.port k = u.port k) ∧
          t.fabs = s.fabs ∧ t.hold = s.hold))) ∧
  (∀ (s : State) (f : Fin 4) (par : List (Nat × OutPar)), s.issues = true →
    let u := s.countAllWaits
    (∀ o m, u.arbChoice (.fab f) = some o → o.what = .tx m →
      ∃ t, exec (.arbiterGrant (.fab f) par) s = .next t ∧ (t.fab f.val).lastMsg = some m.msg ∧
        (t.fab f.val).tx = dropFirst (fun x => x == m) (s.fab f.val).tx ∧ (t.fab f.val).slots = (s.fab f.val).slots ∧
        (tabGet {} t.gls.fab f.val).outAll = (tabGet {} s.gls.fab f.val).outAll + m.msg.bytes ∧
        (∀ k, k ≠ f.val → t.fab k = s.fab k) ∧ t.ports = u.ports ∧ t.hold = s.hold) ∧
    ((s.fab f.val).linkup = false → exec (.arbiterGrant (.fab f) par) s = .next u))

/-! ### Memory-port data -/

/-- Read beats of a fragment: a good beat puts each of its bytes where the swap places it in the fragment's hold space and
nowhere else; a status of ERR or DECODE fails the fragment with RD_ERR and stores nothing; a beat of no outstanding request raises
MP_STRAY and changes nothing but the counts that every beat of the port joins.
(The model's readings in it: log entries 12 and 41.) -/
def Obligations.BeatsReachTheHold : Prop :=
  ∀ (s : State) (p : Fin 8) (b : RBeat), s.up = true → b.tag.slot.toNat ∉ (s.port p.val).oldRd →
    ((∀ r ∈ (s.port p.val).rd, r.slot ≠ b.tag.slot.toNat) →
      ∃ t, exec (.readBeat p b) s = .next t ∧ t = { s with gls := t.gls, ports := t.ports, flt := t.flt } ∧
        t.flt = { s.flt with waiting := s.flt.waiting ++ [{
          source := 16, attr := { kind := 6, unit := p.val, inst := none }, detail := Tag.word b.tag, xcause := none, present := true }] } ∧
        (tabGet {} t.gls.acc p.val).allRd = (tabGet {} s.gls.acc p.val).allRd + 1 ∧
        (t.port p.val).rd = (s.port p.val).rd ∧ (t.port p.val).wr = (s.port p.val).wr ∧ (t.port p.val).ctl = (s.port p.val).ctl ∧
        (s.written (cluErrOff p.val) = none →
          (t.port p.val).rdPar = (if b.bad = [] then (s.port p.val).rdPar else satAdd 16 (s.port p.val).rdPar 1)) ∧
        (∀ k, k ≠ p.val → t.port k = s.port k)) ∧
    (∀ r id f, (s.port p.val).rd.find? (fun r => r.slot == b.tag.slot.toNat) = some r → b.data.length = 2 ^ r.width →
      (r.first = true → ∀ x ∈ (s.port p.val).rd, x.first = true) → b.tag.gen.toNat = (s.inst b.tag.inst.toNat).gen →
      r.owner = .frag id → s.frag? id = some f → f.dead = false → f.halted = false → f.srcErr = none →
      s.inReset f.inst = false → s.isContained f.inst = false →
      ∃ t, exec (.readBeat p b) s = .next t ∧
        (r.due ≤ b.data.length → ∀ x ∈ (t.port p.val).rd, x.slot ≠ b.tag.slot.toNat) ∧
        (b.stat = 0 →
          (∀ a, (∀ k, k < b.data.length → a ≠ f.at_ + swapOff f.swap (f.pos - f.base) (r.off + k)) →
            Memory.read t.hold a = Memory.read s.hold a) ∧
          (∀ k, k < b.data.length →
            (∀ j, j < b.data.length → swapOff f.swap (f.pos - f.base) (r.off + j) = swapOff f.swap (f.pos - f.base) (r.off + k) →
              j = k) →
            Memory.read t.hold (f.at_ + swapOff f.swap (f.pos - f.base) (r.off + k)) = byteAt b.data k)) ∧
        (b.stat = 1 ∨ b.stat = 2 → t.hold = s.hold ∧ ∃ d ∈ t.flt.waiting, d.source = 8 ∧ d.attr = f.attr))

/-- Write data and acknowledgements of a fragment: the first waiting beat leaves with the bytes that stand in the hold, marked
poisoned where a check at write-out fails; an acknowledgement frees its slot, and one with an error is counted, where software
writes the counter on no bus clock of it, and raises WR_ERR. -/
def Obligations.WritesLeaveAndEnd : Prop :=
  ∀ (s : State) (p : Fin 8) (id : Nat) (f : Frag), s.up = true → s.frag? id = some f →
    (∀ w rest par, (s.port p.val).wq = w :: rest → w.owner = .frag id → f.cluster = p.val → s.written (cluErrOff p.val) = none →
      ∃ t x, exec (.writeDataAccept p par) s = .next t ∧ (t.port p.val).wq = rest ∧ (t.port p.val).lastBeat = some x ∧
        x.data = Memory.reads s.hold (f.at_ + w.off) w.bytes ∧ x.slot = w.slot ∧ t.hold = s.hold ∧
        (par ≠ .good → x.poison = true ∧ (t.port p.val).outPar = satAdd 16 (s.port p.val).outPar 1 ∧
          ∃ d ∈ t.flt.waiting, d.source = (if par = .holdPar then 12 else 13) ∧ d.attr = f.attr) ∧
        (par = .good → (t.port p.val).outPar = (s.port p.val).outPar)) ∧
    (∀ tag stat w, tag.slot.toNat ∉ (s.port p.val).oldWr →
      (s.port p.val).wr.find? (fun w => w.slot == tag.slot.toNat) = some w →
      (∀ x ∈ (s.port p.val).wq, x.slot ≠ tag.slot.toNat) → tag.gen.toNat = (s.inst tag.inst.toNat).gen → w.owner = .frag id →
      s.written (cluErrOff p.val) = none →
      ∃ t, exec (.writeAck p tag stat) s = .next t ∧
        (t.port p.val).wr = (s.port p.val).wr.filter (fun x => x.slot != tag.slot.toNat) ∧ t.hold = s.hold ∧
        (stat = 0 → (t.port p.val).wrErr = (s.port p.val).wrErr) ∧
        (stat ≠ 0 → (t.port p.val).wrErr = satAdd 16 (s.port p.val).wrErr 1 ∧
          ∃ d ∈ t.flt.waiting, d.source = 9 ∧ d.attr = f.attr) ∧
        (1 < f.wrOut → ∃ g, t.frag? id = some g ∧ g.wrOut = f.wrOut - 1))

/-! ### Accesses that no engine carries -/

/-- A manifest record read begins while the budget that R89 finds can take its 16 B: once its page translates it waits on the
control path of the queue's port with the record's address, in the class of that budget, and nothing is charged yet. The budget
pays when the arbiter issues the read, as for every access of the control path that a budget pays for.
(The model's readings in it: log entry 21.) -/
def Obligations.ManifestRecordsAreRead : Prop :=
  (∀ (s : State) (g : Fin 16384) (dst : Bool) (q : Queue) (e : Entry) (k : Charge) (pa : Nat), s.newWork = true →
    s.queue? g.val = some q → q.next = some e → q.susp = false → s.active q.inst = true → s.admits (.queue g.val) = true →
    opcode e.raw = 5 → e.stop = none →
    (∃ a b, manNext e.raw e.pos e.mSrc e.mDst = .needs a b ∧ (if dst then b else a) = true) →
    (∀ x ∈ q.entries, (x.side dst).reading = none) → q.entry? e.seq = some e →
    s.canCharge q.inst q.cluster q.firm q.prio 16 [] = some k → s.busy (.man g.val e.seq dst) = false →
    s.xlate (.man g dst) q.inst (recAddr e.raw dst (e.side dst).recs) false = .ok pa →
    ∃ t r, exec (.manifestRecordRead g dst) s = .next t ∧ (t.port q.cluster).ctl = (s.port q.cluster).ctl ++ [r] ∧
      r.owner = .man g.val e.seq dst ∧ r.write = false ∧ r.addr = pa ∧ r.bytes = 16 ∧ r.inst = q.inst ∧ r.cls = k.cls ∧
      t.insts = s.insts ∧ t.gls = s.gls ∧ t.frags = s.frags ∧ t.hold = s.hold ∧ t.flt = s.flt ∧
      (∀ j, j ≠ g.val → t.queue? j = s.queue? j) ∧ (∀ j, j ≠ q.cluster → t.port j = s.port j)) ∧
  (∀ (s : State) (c : Fin 8) (par : List (Nat × OutPar)) (o : Offer) (r : CtlReq) (k : Charge), s.issues = true →
    let u := s.countAllWaits
    u.arbChoice (.mem c) = some o → o.what = .ctl c.val r → r.write = false → r.owner ≠ .pur → u.ctlDest r = .mem →
    u.ctlCost r = .costs k →
    ∃ t, exec (.arbiterGrant (.mem c) par) s = .next t ∧
      t.insts = (u.charge r.inst c.val k r.bytes (u.ctlSpan r)).insts ∧
      (t.port c.val).rd.length = (s.port c.val).rd.length + 1)

/-- A chart read of an access that misses begins its walk: the walk and its read of 8 B are the only things new; while that
read is outstanding no second one is made. -/
def Obligations.ChartReadsBegin : Prop :=
  ∀ (s : State) (x : XCtx) (i va c : Nat) (k : ArbClass), s.issues = true → s.missOf x = some (i, va, c, k) →
    s.inReset i = false → (isNewCtx x = true → s.newWork = true) →
    (s.walks.find? (fun w => w.ctx == x && w.va == va) = none →
      ∃ t r, exec (.chartRead x) s = .next t ∧ (t.port c).ctl = (s.port c).ctl ++ [r] ∧ r.owner = .chart x va ∧
        r.write = false ∧ r.bytes = 8 ∧ r.cls = k ∧ r.inst = i ∧
        r.addr = s.walkAddr { ctx := x, inst := i, va, port := c, cls := k } ∧
        t = { s with walks := t.walks, ports := t.ports } ∧
        t.walks.length = s.walks.length + 1 ∧ (∃ w ∈ t.walks, w.ctx = x ∧ w.va = va ∧ w.busy = true)) ∧
    (∀ w, s.walks.find? (fun w => w.ctx == x && w.va == va) = some w → w.busy = true →
      exec (.chartRead x) s = .next s)

/-- A poll that falls due moves the due time on by its interval and waits unless R217, the end of RUN, a suspension or a
stopped Purser drops it; before its due time and in a state that does not poll nothing happens. The waiting poll with the
earliest deadline is issued, its read of the slot at HEAD joins the control path, and the next issue is two bus clocks on; one
past its deadline raises Q_POLL_LATE, and one that R217 now drops only stops waiting. A poll that had fallen due before a freeze is
issued in it, for R503 says only that none falls due (the model's reading: log entry 38). -/
def Obligations.PollsFallDueAndIssue : Prop :=
  ∀ (s : State) (g : Fin 16384) (q : Queue), s.queue? g.val = some q →
    (s.pollsRun = true → q.state = .polling → q.due ≤ s.age →
      exec (.pollDue g) s = .next (s.updQueue g.val (fun q => { q with
        due := q.due + 32 * 2 ^ q.n
        waiting := q.waiting || (s.newWork && !q.susp && !q.poll && decide (q.entries.length < q.depth) && s.active q.inst &&
          !(g.val == 0 && s.adminStays)) }))) ∧
    (s.pollsRun = false ∨ s.age < q.due ∨ q.state ≠ .polling → exec (.pollDue g) s = .next s) ∧
    (∀ ok, ok = decide (q.state = .polling ∧ q.susp = false ∧ q.poll = false ∧ q.entries.length < q.depth ∧
        s.active q.inst = true) → s.polls = true → s.pollAt ≤ s.age → s.pollChoice = some (g.val, q) →
      (ok = false → exec .pollIssue s = .next (s.updQueue g.val (fun q => { q with waiting := false }))) ∧
      (∀ pa, ok = true → s.busy (.poll g.val) = false → s.xlate (.poll g) q.inst (q.slotAddr q.head) false = .ok pa →
        ∃ t r, exec .pollIssue s = .next t ∧ t.pollAt = s.age + 2 ∧
          t.queue? g.val = some { q with waiting := false, poll := true } ∧
          (t.port q.cluster).ctl = (s.port q.cluster).ctl ++ [r] ∧ r.owner = .poll g.val ∧ r.write = false ∧ r.addr = pa ∧
          r.va = q.slotAddr q.head ∧ r.bytes = 64 ∧ r.cls = .top ∧
          (s.age ≤ q.due → t.flt = s.flt) ∧ (q.due < s.age → ∃ d ∈ t.flt.waiting, d.source = 23 ∧ d.attr.unit = g.val) ∧
          (∀ j, j ≠ g.val → t.queue? j = s.queue? j) ∧ t.insts = s.insts ∧ t.frags = s.frags ∧ t.hold = s.hold)) ∧
    (s.polls = false ∨ s.age < s.pollAt ∨ s.pollChoice = none → exec .pollIssue s = .next s)

/-- What the 64 B of a poll bring: an entry with VALID 1 and LAP as the queue's, well formed, is taken and HEAD moves on;
VALID 0 or another LAP takes nothing; a malformed one halts a strict queue at its place, and is taken by another with
Q_MALFORMED. -/
def Obligations.PollResponsesTakeEntries : Prop :=
  ∀ (s : State) (p : Fin 8) (b : RBeat) (r : RdOut) (g : Nat) (q : Queue), s.up = true →
    b.tag.slot.toNat ∉ (s.port p.val).oldRd → (s.port p.val).rd.find? (fun r => r.slot == b.tag.slot.toNat) = some r →
    r.owner = .poll g → b.data.length = 2 ^ r.width → (r.first = true → ∀ x ∈ (s.port p.val).rd, x.first = true) →
    b.tag.gen.toNat = (s.inst b.tag.inst.toNat).gen → b.stat = 0 → b.bad = [] → s.queue? g = some q → q.drop = false →
    (g == 0 && s.adminStays) = false →
    (hbit b.data 0 = true → hbit b.data 1 = q.lap → malformed (g == 0) s.node b.data = 0 →
      ∃ t x e, exec (.pollResponse p b) s = .next t ∧ t.queue? g = some x ∧ x.entries = q.entries ++ [e] ∧ x.poll = false ∧
        x.head = (q.head + 1) % 2 ^ q.k ∧ (x.lap = q.lap ↔ q.head + 1 ≠ 2 ^ q.k) ∧ x.taken = (q.taken + 1) % 2 ^ 32 ∧
        e.raw = b.data ∧ e.slot = q.head ∧ e.lap = q.lap ∧ e.seq = q.nextSeq ∧ e.gen = (s.inst q.inst).gen ∧ e.bad = 0 ∧
        e.started = false ∧ x.state = q.state ∧ t.insts = s.insts ∧ t.frags = s.frags ∧ t.hold = s.hold ∧
        ∀ j, j ≠ g → t.queue? j = s.queue? j) ∧
    (hbit b.data 0 = false ∨ hbit b.data 1 ≠ q.lap →
      ∃ t, exec (.pollResponse p b) s = .next t ∧ t.queue? g = some { q with poll := false } ∧ t.insts = s.insts ∧
        t.frags = s.frags ∧ t.hold = s.hold ∧ ∀ j, j ≠ g → t.queue? j = s.queue? j) ∧
    (hbit b.data 0 = true → hbit b.data 1 = q.lap → malformed (g == 0) s.node b.data ≠ 0 →
      ∃ t x, exec (.pollResponse p b) s = .next t ∧ t.queue? g = some x ∧ x.poll = false ∧ t.hold = s.hold ∧
        (q.strict = true → x.head = q.head ∧ x.entries = q.entries ∧ x.err.valid = true ∧ x.err.index = q.head ∧
          x.err.status = malformed (g == 0) s.node b.data ∧ x.err.cause = 0 ∧ x.haltRaw = b.data ∧
          (x.state = if q.entries.isEmpty then .halted else .halting) ∧ ∃ d ∈ t.flt.waiting, d.source = 25 ∧ d.attr.unit = g) ∧
        (q.strict = false → x.head = (q.head + 1) % 2 ^ q.k ∧ x.entries.length = q.entries.length + 1 ∧
          (∀ e, e ∈ x.entries.drop q.entries.length → e.bad = malformed (g == 0) s.node b.data) ∧
          ∃ d ∈ t.flt.waiting, d.source = 24 ∧ d.attr.unit = g))

/-- Writes of QCTL: ENABLE 1 makes an OFF or DRAINING queue poll at once, and changes only the bit of one in any other state but
FENCED; ENABLE 0 stops polling and leaves it OFF as soon as nothing is open or outstanding, DRAINING before; RETRY goes on at
HEAD; SKIP goes past the slot, taking the malformed entry a queue halted on. A queue in no such state keeps everything. While
the clusters hold no clock the bit is set at once, and what it steers waits for RUN. -/
def Obligations.QueueControlWrites : Prop :=
  ∀ (s : State) (i l : Fin 1024) (g : Nat) (q : Queue), s.taking = true → s.exists_ i.val = true → s.inReset i.val = false →
    s.localQueue i.val l.val = some (g, q) → s.queue? g = some q →
    (s.pwr.clocked = false → q.dying = false → q.state ≠ .fenced →
      exec (.qctlEnableSet i l) s = .next ({ s.updQueue g (fun q => { q with enable := true }) with
        pwr := { s.pwr with later := s.pwr.later ++ [.enable i.val l.val true] } } : State).answered) ∧
    (s.pwr.clocked = true → q.dying = false → q.state = .off ∨ q.state = .draining →
      exec (.qctlEnableSet i l) s = .next (s.updQueue g (fun q => { q with
        enable := true, state := .polling, due := s.age, waiting := false })).answered) ∧
    (s.pwr.clocked = true → q.dying = false → q.state ≠ .off → q.state ≠ .draining → q.state ≠ .fenced →
      exec (.qctlEnableSet i l) s = .next (s.updQueue g (fun q => { q with enable := true })).answered) ∧
    (s.pwr.clocked = true → q.dying = false → q.state = .polling →
      ∃ t x, exec (.qctlEnableClear i l) s = .next t ∧ t.queue? g = some x ∧ x.enable = false ∧
        (x.state = if q.entries = [] ∧ q.poll = false then .off else .draining) ∧ x.entries = q.entries ∧ x.head = q.head ∧
        (q.poll = true → x.drop = true) ∧ t.chans = s.chans ∧ t.frags = s.frags ∧ t.hold = s.hold ∧
        ∀ j, j ≠ g → t.queue? j = s.queue? j) ∧
    (s.pwr.clocked = true → q.state = .halted →
      exec (.qctlRetry i l) s = .next (s.updQueue g (fun q => { q with
        err := { q.err with valid := false }, state := if q.enable then .polling else .off
        due := if q.enable then s.age else q.due, waiting := if q.enable then false else q.waiting })).answered) ∧
    (s.pwr.clocked = true → q.state = .halted →
      ∃ t x, exec (.qctlSkip i l) s = .next t ∧ t.queue? g = some x ∧ x.head = (q.head + 1) % 2 ^ q.k ∧
        x.err.valid = false ∧ (x.state = if q.enable then .polling else if q.err.cause = 0 then .draining else .off) ∧
        (q.err.cause ≠ 0 → x.entries = q.entries) ∧
        (q.err.cause = 0 → ∃ e, x.entries = q.entries ++ [e] ∧ e.raw = q.haltRaw ∧ e.slot = q.head ∧ e.bad = q.err.status) ∧
        t = { s with queues := t.queues, glb := t.glb } ∧ ∀ j, j ≠ g → t.queue? j = s.queue? j) ∧
    (s.pwr.clocked = true → q.state ≠ .halted → exec (.qctlRetry i l) s = .next s.answered ∧ exec (.qctlSkip i l) s = .next s.answered)

/-- Completion overwrites, event records and MSI writes: each one due joins the control path of its port with its size, once
its page translates, and nothing of the hold, the engines or another instance changes; a record is issued from the bus clock after the
answer to the one before. -/
def Obligations.OwnWritesJoinTheirPort : Prop :=
  ∀ s : State, s.issues = true →
    (∀ (g : Fin 16384) q e pa, s.queue? g.val = some q → q.entries.find? (fun e => s.ovrReady g.val q e) = some e →
      q.entry? e.seq = some e → s.busy (.ovr g.val e.seq) = false →
      s.xlate (.ovr g e.slot) q.inst (q.slotAddr e.slot) true = .ok pa →
      ∃ t r, exec (.completionOverwrite g) s = .next t ∧ (t.port q.cluster).ctl = (s.port q.cluster).ctl ++ [r] ∧
        r.owner = .ovr g.val e.seq ∧ r.write = true ∧ r.va = q.slotAddr e.slot ∧ r.addr = pa ∧ r.bytes = 64 ∧ r.cls = .top ∧
        (∃ x, t.queue? g.val = some x ∧ x.entry? e.seq = some { e with ovr := .waiting, ovrAt := s.now } ∧ x.head = q.head) ∧
        t = { s with queues := t.queues, cc := t.cc, walked := t.walked, ports := t.ports }) ∧
    (∀ (i : Fin 1024) r rest pa, (s.inst i.val).evWait = r :: rest → (s.inst i.val).evOut = none →
      (s.inst i.val).evtEn = true → (s.inst i.val).ackAt ≠ some s.now → s.inReset i.val = false → s.busy (.evt i.val) = false →
      s.xlate (.evt i) i.val (s.inst i.val).recAddr true = .ok pa →
      ∃ t x, exec (.eventRecordWrite i) s = .next t ∧ (t.port r.port).ctl = (s.port r.port).ctl ++ [x] ∧
        x.owner = .evt i.val ∧ x.write = true ∧ x.va = (s.inst i.val).recAddr ∧ x.addr = pa ∧ x.bytes = 32 ∧
        x.data = (s.inst i.val).recBytes r ∧ (t.inst i.val) = { s.inst i.val with evOut := some r, evWait := rest } ∧
        (∀ j, j ≠ i.val → t.inst j = s.inst j) ∧
        t = { s with insts := t.insts, cc := t.cc, walked := t.walked, ports := t.ports }) ∧
    (∀ (i : Fin 1024) port q pa, (s.inst i.val).msiTrig = some (port, q) → (s.inst i.val).msiOut = false →
      s.inReset i.val = false → s.busy (.msi i.val) = false →
      (nodeOf (s.inst i.val).msiAddr.toNat = s.node ∨ (s.route (nodeOf (s.inst i.val).msiAddr.toNat)).isSome = true) →
      s.xlate (.msi i) i.val (s.inst i.val).msiAddr.toNat true = .ok pa →
      ∃ t x, exec (.msiWrite i) s = .next t ∧ (t.port port).ctl = (s.port port).ctl ++ [x] ∧ x.owner = .msi i.val ∧
        x.write = true ∧ x.addr = pa ∧ x.bytes = 4 ∧ x.data = leBytes 4 (s.inst i.val).msiData.toNat ∧
        (t.inst i.val) = { s.inst i.val with msiTrig := none, msiOut := true, msiQ := q, msiPort := port } ∧
        (∀ j, j ≠ i.val → t.inst j = s.inst j) ∧
        t = { s with insts := t.insts, cc := t.cc, walked := t.walked, ports := t.ports })

/-- The event ring's registers: ENABLE rises only on a ring of a legal size, in the block's node and aligned, and HEAD and
TAIL are then 0; a HEAD within the records written takes effect and any other raises EVT_HEAD_BAD; a LOST record takes the
count of what was lost. A cleared ENABLE leaves the records that wait and the one outstanding, and HEAD and TAIL stay under a new
SIZE_M until the ring is enabled, which are the model's choices (log entries 59 and 83). -/
def Obligations.EventRingRegisters : Prop :=
  ∀ (s : State) (i : Fin 1024),
    (∀ v, s.taking = true → s.exists_ i.val = true → (s.inst i.val).evtEn = false → bit v 0 = true →
      exec (.evtCtlWrite i v) s = .next (s.updInst i.val (fun x =>
        if 7 ≤ fld v 8 4 ∧ fld v 8 4 ≤ 16 ∧ nodeOf x.evtBase.toNat = s.node ∧ x.evtBase.toNat % (32 * 2 ^ fld v 8 4) = 0 then
          { x with sizeM := fld v 8 4, evtEn := true, head := 0, tail := 0 }
        else { x with sizeM := fld v 8 4 })).answered) ∧
    (∀ v, s.taking = true → s.exists_ i.val = true → bit v 0 = false →
      exec (.evtCtlWrite i v) s = .next (s.updInst i.val (fun x =>
        { x with sizeM := if x.evtEn then x.sizeM else fld v 8 4, evtEn := false })).answered) ∧
    (∀ v, s.taking = true → s.exists_ i.val = true →
      ∃ t, exec (.evtHeadWrite i v) s = .next t ∧ t = { s with insts := t.insts, flt := t.flt, glb := t.glb } ∧
        (t.inst i.val).tail = (s.inst i.val).tail ∧ (∀ j, j ≠ i.val → t.inst j = s.inst j) ∧
        (if fld v 16 0 < 2 ^ ((s.inst i.val).sizeM + 1) ∧
            (fld v 16 0 + (2 ^ ((s.inst i.val).sizeM + 1) - (s.inst i.val).head % 2 ^ ((s.inst i.val).sizeM + 1))) %
              2 ^ ((s.inst i.val).sizeM + 1) ≤
              (s.inst i.val).unread then (t.inst i.val).head = fld v 16 0 ∧ t.flt = s.flt
          else t.inst i.val = s.inst i.val ∧ ∃ d ∈ t.flt.waiting, d.source = 28 ∧ d.attr.inst = some i.val)) ∧
    (s.lostDue i.val = true →
      ∃ t r, exec (.lostRecord i) s = .next t ∧ (t.inst i.val).evWait = (s.inst i.val).evWait ++ [r] ∧ r.code = 1 ∧
        r.load.take 4 = leBytes 4 (s.inst i.val).lost ∧ r.glass = s.bell.glass ∧ (t.inst i.val).lost = 0 ∧
        t = { s with insts := t.insts } ∧ ∀ j, j ≠ i.val → t.inst j = s.inst j)

/-! ### Channels and engines -/

/-- START, LOAD and DROP. A START of an IDLE or ERROR channel with a sound transfer makes it active, or armed if PACE is
set; an unsound one leads to ERROR with BAD_DESC; START of a running channel changes nothing. LOAD makes the
shadow valid, and in LINKWAIT begins the transfer it holds, but for a register that software has written on this bus clock; a link
fetch that began on the same bus clock gives way to it, and one that began earlier makes it do nothing. DROP makes the shadow invalid
while the channel stands. A START of an unbound channel acts through the manager's copy, and so do LOAD and DROP.
(The model's readings in it: log entries 13 and 28, and 73 where a LOAD outside LINKWAIT only makes the shadow valid.) -/
def Obligations.ChannelsStartAndLoad : Prop :=
  ∀ (s : State) (via : Path) (n : Fin 512), s.taking = true → s.pwr.clocked = true →
    ((via = .manager ∧ (s.chan n.val).owner = 0) ∨ (∃ i, via = .page i ∧ s.shown i.val (n.val % 64) = some n.val)) →
    s.inReset (s.chan n.val).owner = false →
    (∀ x, x = s.chan n.val → x.state = .idle ∨ x.state = .error → s.isContained x.owner = false → x.remain ≠ 0 →
      badTransfer x.src x.dst x.remain x.cfg x.next = false → x.holding = false →
      ∃ t, exec (.chStart via n) s = .next t ∧ t = { s with chans := t.chans, glb := t.glb } ∧
        (t.chan n.val).state = (if bit x.ctl 0 then .armed else .active) ∧ (t.chan n.val).err = 0 ∧
        (t.chan n.val).endc = 0 ∧ (t.chan n.val).count = 0 ∧ (t.chan n.val).len0 = x.remain ∧
        (t.chan n.val).src0 = x.src ∧ (t.chan n.val).dst0 = x.dst ∧ (t.chan n.val).asgd = 0 ∧
        (∀ m, m ≠ n.val → t.chan m = s.chan m)) ∧
    (∀ x, x = s.chan n.val → x.state = .idle ∨ x.state = .error → s.isContained x.owner = false → x.remain ≠ 0 →
      badTransfer x.src x.dst x.remain x.cfg x.next = true →
      ∃ t, exec (.chStart via n) s = .next t ∧ (t.chan n.val).state = .error ∧ (t.chan n.val).err = 1 ∧
        (t.chan n.val).remain = x.remain ∧ (∃ d ∈ t.flt.waiting, d.source = 34 ∧ d.attr.unit = n.val) ∧
        t.frags = s.frags ∧ t.hold = s.hold ∧ (∀ m, m ≠ n.val → t.chan m = s.chan m)) ∧
    ((s.chan n.val).state ≠ .idle → (s.chan n.val).state ≠ .error → exec (.chStart via n) s = .next s.answered) ∧
    (∀ x y, x = s.chan n.val → y = x.promoted (s.chKept n.val) → x.state = .linkwait → x.shValid = false → x.fetch = false →
      x.holding = false → badTransfer y.src y.dst y.remain y.cfg y.next = false →
      ∃ t, exec (.chLoad via n) s = .next t ∧ t = { s with chans := t.chans, glb := t.glb } ∧
        (t.chan n.val).state = x.running ∧ (t.chan n.val).src = (if s.chKept n.val 0x40 then x.src else x.shSrc) ∧
        (t.chan n.val).dst = (if s.chKept n.val 0x48 then x.dst else x.shDst) ∧
        (t.chan n.val).remain = (if s.chKept n.val 0x50 then x.remain else x.shLen) ∧
        (t.chan n.val).len0 = (t.chan n.val).remain ∧ (t.chan n.val).shValid = false ∧
        (∀ m, m ≠ n.val → t.chan m = s.chan m)) ∧
    ((s.chan n.val).shValid = false → (s.chan n.val).fetch = false → (s.chan n.val).state ≠ .linkwait →
      exec (.chLoad via n) s = .next (s.updChan n.val (fun x => { x with shValid := true })).answered) ∧
    (((s.chan n.val).shValid = true ∧ (s.chan n.val).fetch = false) ∨
        ((s.chan n.val).fetch = true ∧ (s.chan n.val).rose ≠ some s.now) → exec (.chLoad via n) s = .next s.answered) ∧
    ((s.chan n.val).shValid = false → (s.chan n.val).fetch = true → (s.chan n.val).rose = some s.now →
      (s.chan n.val).state ≠ .linkwait →
      ∃ t, exec (.chLoad via n) s = .next t ∧ t.chan n.val = { s.chan n.val with fetch := false, shValid := true } ∧
        (∀ r ∈ (t.port (n.val / 64)).ctl, r.owner ≠ .link n.val) ∧ (∀ m, m ≠ n.val → t.chan m = s.chan m) ∧
        t.insts = s.insts ∧ t.frags = s.frags ∧ t.hold = s.hold ∧ t.flt = s.flt) ∧
    ((s.chan n.val).state = .idle ∨ (s.chan n.val).state = .paused ∨ (s.chan n.val).state = .error →
      exec (.chDrop via n) s = .next (s.updChan n.val (fun x => { x with shValid := false })).answered)

/-- STOP, and PAUSE set and cleared. STOP acts through the manager's copy of a bound channel too: a standing channel goes
IDLE with END STOPPED, a running one at once if none of its bursts is in flight and STOPPING while one writes. PAUSE holds
a running channel, PAUSED once its bursts are over; cleared, the transfer goes on.
(The model's readings in it: log entries 13 and 33.) -/
def Obligations.ChannelsStopAndPause : Prop :=
  ∀ (s : State) (via : Path) (n : Fin 512) (x : Chan), s.taking = true → s.pwr.clocked = true → x = s.chan n.val →
    s.inReset x.owner = false →
    (via = .manager ∨ (∃ i, via = .page i ∧ s.shown i.val (n.val % 64) = some n.val) →
      (x.state = .idle → exec (.chStop via n) s = .next s.answered) ∧
      (x.state = .paused ∨ x.state = .error → ∃ t, exec (.chStop via n) s = .next t ∧ (t.chan n.val).state = .idle ∧
        (t.chan n.val).endc = 3 ∧ (t.chan n.val).err = 0 ∧ (t.chan n.val).shValid = false ∧ (t.chan n.val).fetch = false ∧
        (∀ m, m ≠ n.val → t.chan m = s.chan m) ∧ t.frags = s.frags ∧ t.hold = s.hold) ∧
      (x.state = .armed ∨ x.state = .active ∨ x.state = .linkwait ∨ x.state = .pausing →
        ∃ t, exec (.chStop via n) s = .next t ∧ (t.chan n.val).shValid = false ∧ (t.chan n.val).fetch = false ∧
          ((∀ f ∈ s.frags, f.ctx ≠ .chan n.val) → (t.chan n.val).state = .idle ∧ (t.chan n.val).endc = 3) ∧
          ((∃ f ∈ s.frags, f.ctx = .chan n.val ∧ f.writes = true) →
            (t.chan n.val).state = .stopping ∧ (t.chan n.val).wish = .stop) ∧
          (∀ m, m ≠ n.val → t.chan m = s.chan m) ∧ t.hold = s.hold ∧ t.queues = s.queues)) ∧
    ((via = .manager ∧ x.owner = 0) ∨ (∃ i, via = .page i ∧ s.shown i.val (n.val % 64) = some n.val) →
      (bit x.ctl 15 = false → x.state = .armed ∨ x.state = .active ∨ x.state = .linkwait →
        ∃ t, exec (.chPauseSet via n) s = .next t ∧ bit (t.chan n.val).ctl 15 = true ∧
          ((t.chan n.val).state = if s.infl n.val = 0 then .paused else .pausing) ∧ (t.chan n.val).src = x.src ∧
          (t.chan n.val).remain = x.remain ∧ t = { s with chans := t.chans, glb := t.glb } ∧
          (∀ m, m ≠ n.val → t.chan m = s.chan m)) ∧
      (bit x.ctl 15 = true → x.susp = false → x.state = .paused → x.remain ≠ 0 →
        badTransfer x.src x.dst x.remain x.cfg x.next = false →
        ∃ t, exec (.chPauseClear via n) s = .next t ∧ bit (t.chan n.val).ctl 15 = false ∧
          (t.chan n.val).state = x.running ∧ (t.chan n.val).len0 = x.remain ∧ (t.chan n.val).src0 = x.src ∧
          t = { s with chans := t.chans, glb := t.glb } ∧ (∀ m, m ≠ n.val → t.chan m = s.chan m)))

/-- Levels and link fetches. A sampled level opens or closes the gate of a paced channel, and ARMED goes to ACTIVE with it; a
link fetch that its budget can take joins the control path in the class of that budget, which pays its 32 B at the issue; one past
its timeout raises CH_LINK_TMO and is given up.
(The model's readings in it: log entry 21.) -/
def Obligations.LevelsAndLinkFetches : Prop :=
  ∀ (s : State) (n : Fin 512) (x : Chan), x = s.chan n.val →
    (∀ l : BitVec 12, s.up = true → s.pwr.phase = .run ∨ s.pwr.phase = .entering →
      ∃ t, exec (.levelCrossing n l) s = .next t ∧ (t.chan n.val).cur = l.toNat ∧
        ((t.chan n.val).gate = if bit x.ctl 0 then x.gateAt l.toNat else x.gate) ∧
        (x.state = .armed → bit x.ctl 0 = true → (t.chan n.val).state = if x.gateAt l.toNat then .active else .armed) ∧
        (x.state = .active → bit x.ctl 0 = true → s.infl n.val = 0 →
          (t.chan n.val).state = if x.gateAt l.toNat then .active else .armed) ∧
        t = { s with chans := t.chans } ∧ (∀ m, m ≠ n.val → t.chan m = s.chan m)) ∧
    (∀ k pa, s.newWork = true → s.mayFetch x.owner = true → s.admits (.chan n.val) = true → x.wantsFetch = true →
      s.canCharge x.owner (n.val / 64) (bit x.ctl 11) (fld x.ctl 14 12) 32 (s.linkSpan n.val) = some k →
      s.busy (.link n.val) = false → (nodeOf x.next.toNat = s.node ∨ (s.route (nodeOf x.next.toNat)).isSome = true) →
      s.xlate (.link n) x.owner x.next.toNat false = .ok pa →
      ∃ t r, exec (.linkFetch n) s = .next t ∧ (t.chan n.val) = { x with fetch := true, fetchAt := s.age, rose := some s.now } ∧
        (t.port (n.val / 64)).ctl = (s.port (n.val / 64)).ctl ++ [r] ∧ r.owner = .link n.val ∧ r.write = false ∧
        r.addr = pa ∧ r.bytes = 32 ∧ r.cls = k.cls ∧
        t.insts = s.insts ∧ t.frags = s.frags ∧ t.flt = s.flt ∧ (∀ m, m ≠ n.val → t.chan m = s.chan m)) ∧
    (s.up = true → x.fetch = true → fld s.glb.chgLinkTmo 19 0 ≠ 0 → x.fetchAt + fld s.glb.chgLinkTmo 19 0 ≤ s.age →
      x.awaits = false →
      ∃ t, exec (.chLinkTmo n) s = .next t ∧ (t.chan n.val) = { x with fetch := false, fetchBad := some (4, 0) } ∧
        (∃ d ∈ t.flt.waiting, d.source = 33 ∧ d.attr.unit = n.val) ∧ (∀ m, m ≠ n.val → t.chan m = s.chan m) ∧
        t.frags = s.frags ∧ t.hold = s.hold)

/-- Engines: RELEASE of a halted engine begins its clear and does nothing else; of one that is in service, or off, it does
nothing; 512 bus clocks on, both its banks are zero, every other byte of the hold stays, and the engine is IDLE. -/
def Obligations.EnginesAreReleased : Prop :=
  ∀ (s : State) (e : Fin 128),
    (s.taking = true → s.pwr.holdsOff = false → s.engHalted e.val = true → (s.eng e.val).clearing = false →
      exec (.engCtlRelease e) s =
        .next (s.updEng e.val (fun x => { x with halted := true, clearing := true, clearAt := s.now })).answered) ∧
    (s.taking = true → s.pwr.holdsOff = true → exec (.engCtlRelease e) s = .next s.answered) ∧
    (s.taking = true → s.clk.sets = [] → s.engHalted e.val = false → (s.eng e.val).clearing = false →
      exec (.engCtlRelease e) s = .next s.answered) ∧
    (s.up = true → s.pwr.clocked = true → s.clk.wrote = [] → (s.eng e.val).clearing = true →
      (s.eng e.val).clearAt + 512 ≤ s.now →
      ∃ t, exec (.engineClearDone e) s = .next t ∧ (t.eng e.val).halted = false ∧ (t.eng e.val).clearing = false ∧
        (∀ a, e.val * 131072 ≤ a → a < (e.val + 1) * 131072 → Memory.read t.hold a = 0) ∧
        (∀ a, a < e.val * 131072 ∨ (e.val + 1) * 131072 ≤ a → Memory.read t.hold a = Memory.read s.hold a) ∧
        (∀ k, k ≠ e.val → t.eng k = s.eng k) ∧ t = { s with hold := t.hold, engs := t.engs, clk := t.clk })

/-! ### The Purser and its commands -/

/-- Mailboxes and the start of commands: GO submits the request of a mailbox that is not BUSY while the Purser is READY; the
lowest mailbox goes before the admin queue, whose entries start in order, a fenced one only where its fence is met; an opcode
that is not assigned completes at once with status 0x40. None starts while another executes, nor on the acceptance bus clock of
another. -/
def Obligations.CommandsStart : Prop :=
  ∀ s : State,
    (∀ (m : Fin 8) en, s.taking = true → s.pur.state = 3 → (s.mb m.val).busy = false →
      exec (.mbCtlGo m en) s = .next (s.updMb m.val (fun b => { b with
        irqEn := en, busy := true, done := false
        sub := some ((List.range 8).flatMap (fun w => leBytes 8 (tabGet 0 b.req w).toNat)) })).answered) ∧
    (∀ (m : Fin 8) en, s.taking = true → s.pur.state ≠ 3 ∨ (s.mb m.val).busy = true →
      exec (.mbCtlGo m en) s = .next (s.updMb m.val (fun b => { b with irqEn := en })).answered) ∧
    (∀ m raw, s.purRuns = true → s.pur.cur = none → s.pur.accAt ≠ some s.now → s.pwr.phase = .run → s.nextMb = some (m, raw) →
      (∀ k, k < m → (s.mb k).sub = none) ∧
      ∃ t, exec .commandStart s = .next t ∧ (t.mb m).sub = none ∧ (∀ k, k ≠ m → t.mb k = s.mb k) ∧
        t = { s with mbs := t.mbs, pur := t.pur, clk := t.clk } ∧
        (opcode raw ∈ cmdOpcodes → t.pur = { s.pur with cur := some { src := .mailbox m, raw, start := s.age } } ∧
          (t.mb m).busy = (s.mb m).busy) ∧
        (opcode raw ∉ cmdOpcodes → t.pur = s.pur ∧ (t.mb m).busy = false ∧ (t.mb m).done = true ∧
          (t.mb m).rsp = s.cmdHeader (.mailbox m) raw 0x40 ++ zeros 56)) ∧
    (∀ e q, s.purRuns = true → s.pur.cur = none → s.pur.accAt ≠ some s.now → s.pwr.phase = .run → s.nextMb = none → s.queue? 0 = some q →
      q.entries.find? (fun e => !e.started) = some e → e.bad = 0 → e.ended = 0 → q.fenceMet e = true →
      exec .commandStart s = .next { s.updEntry 0 e.seq (fun e => { e with started := true }) with
        pur := { s.pur with cur := some { src := .queue e.seq, raw := e.raw, start := s.age } } }) ∧
    (∀ e q, s.nextMb = none → s.queue? 0 = some q → q.entries.find? (fun e => !e.started) = some e → q.fenceMet e = false →
      exec .commandStart s = .next s) ∧
    (s.purRuns = false ∨ s.pur.cur ≠ none ∨ s.pur.accAt = some s.now ∨ s.pwr.phase ≠ .run → exec .commandStart s = .next s)

/-- How a command completes with DONE: the Purser takes the next one, CMDS counts it on its acceptance bus clock, and 64 B with the status, RESULT 0,
EFFECT, the glass and RET go to the mailbox, which shows DONE and is BUSY no more, or to the entry of queue 0. -/
def Obligations.CompletionsReachTheirSource : Prop :=
  ∀ (s : State) (c : Cmd) (effect : Nat) (ret : List Byte) (t : State), t = s.done c effect ret → ret.length ≤ 32 →
    t.pur = { s.pur with cur := none, cmds := (s.pur.cmds + 1) % 2 ^ 32, accAt := some s.now } ∧
    t = { s with pur := t.pur, mbs := t.mbs, queues := t.queues, clk := t.clk } ∧
    (∀ bytes, bytes = s.doneBytes c.src c.raw 0 0 0 effect ret → bytes.length = 64 ∧ at_ bytes 2 1 = 0 ∧
      at_ bytes 1 1 = opcode c.raw ∧ at_ bytes 8 2 = 0 ∧ at_ bytes 16 8 = effect % 2 ^ 64 ∧ 
      at_ bytes 24 8 = s.bell.glass % 2 ^ 64 ∧ (bytes.drop 32).take ret.length = ret ∧
      (∀ m, c.src = .mailbox m → t.mb m = { s.mb m with rsp := bytes, busy := false, done := true } ∧
        t.queues = s.queues ∧ ∀ k, k ≠ m → t.mb k = s.mb k) ∧
      (∀ seq, c.src = .queue seq → t.mbs = s.mbs ∧
        t.queues = (s.updEntry 0 seq (fun e => { e with rsp := some bytes })).queues))

/-- QUERY: OP 0 returns the versions and the TLT's identity; an OP above 2 is refused; OP 1 and OP 2, once accepted, write the
record of an instance and of the pool at ADDR, as writes of instance 0 through its chart on port 0, and complete when that
write is acknowledged: a failed one ends them with MEM_ERR under PUR_MEM_ERR.
(The model's readings in it: log entries 36 and 45.) -/
def Obligations.QueriesAnswer : Prop :=
  ∀ (s : State) (c : Cmd), s.purRuns = true → s.pur.cur = some c → opcode c.raw = 0x80 →
    (cOp c.raw = 0 → exec .queryVersions s = .next (s.done c 0 (leBytes 8 s.pur.ver.toNat ++ leBytes 8 tltId.toNat))) ∧
    (2 < cOp c.raw → exec .queryVersions s = .next (s.refuse c { code := 1, place := .at_ 6 12 })) ∧
    (∀ x bytes, x = Instr.queryInstance ∧ cOp c.raw = 1 ∧ cInst c.raw < 1024 ∧ s.exists_ (cInst c.raw) = true ∧
          bytes = s.instRecord (cInst c.raw) ∨ x = Instr.queryPool ∧ cOp c.raw = 2 ∧ bytes = s.poolRecord →
      nodeOf (cAddr c.raw) = s.node → localOf (cAddr c.raw) % 64 = 0 →
      (s.pur.acc = none → ∃ t a, exec x s = .next t ∧
        t.pur = { s.pur with cmds := (s.pur.cmds + 1) % 2 ^ 32, acc := some a, accAt := some s.now } ∧
        a.write = true ∧ a.image = false ∧ a.addr = cAddr c.raw ∧ a.data = bytes ∧
        (∀ pa, s.purWaits = false → s.xlate .pur 0 (cAddr c.raw) true = .ok pa →
          ∃ r, (t.port 0).ctl = (s.port 0).ctl ++ [r] ∧ r.owner = .pur ∧ r.write = true ∧ r.inst = 0 ∧ r.addr = pa ∧
            r.cls = .soft 7) ∧
        t = { s with pur := t.pur, ports := t.ports, cc := t.cc, walked := t.walked }) ∧
      (∀ a, s.pur.acc = some a → a.isOver = true → a.fail = none →
        exec x s = .next (s.accEnds.curEnds.answer c.src (s.doneBytes c.src c.raw 0 0 0 0 []))) ∧
      (∀ a st, s.pur.acc = some a → a.isOver = true → a.fail = some st → s.memErrHalts = false →
        ∃ t, exec x s = .next t ∧ t.pur = { s.pur with acc := none, cur := none } ∧ ∃ d ∈ t.flt.waiting, d.source = 47) ∧
      (∀ a, s.pur.acc = some a → a.isOver = false → exec x s = .next s))

/-- INST_CREATE and SHARE_SET read their record at ADDR; with a sound record whose share fits the pool the instance is ACTIVE
with the next generation, its root and its share; SHARE_SET replaces the share of one that exists; EFFECT is the next
glass. The row that begins the read, as instance 0 through its chart on port 0, is the one that completes once it is over.
(The model's readings in it: log entry 36.) -/
def Obligations.SharesAreSet : Prop :=
  ∀ (s : State) (c : Cmd) (i : Nat) (x : Instr), s.purRuns = true → s.pur.cur = some c → i = cInst c.raw → i < 1024 →
    nodeOf (cAddr c.raw) = s.node → localOf (cAddr c.raw) % 8 = 0 →
    (x = .instCreate ∧ opcode c.raw = 0x81 ∧ 1 ≤ i ∧ s.exists_ i = false ∧ nodeOf (cAddr2 c.raw) = s.node ∧
        localOf (cAddr2 c.raw) % 4096 = 0 ∨
      x = .shareSet ∧ opcode c.raw = 0x85 ∧ s.exists_ i = true ∧ s.pur.defer.all (fun d => d.inst != i) = true) →
    (s.pur.acc = none → ∃ t a, exec x s = .next t ∧ t.pur = { s.pur with acc := some a } ∧
      a.write = false ∧ a.image = false ∧ a.addr = cAddr c.raw ∧ a.data.length = 128 ∧
      (∀ pa, s.purWaits = false → s.xlate .pur 0 (cAddr c.raw) false = .ok pa →
        ∃ r, (t.port 0).ctl = (s.port 0).ctl ++ [r] ∧ r.owner = .pur ∧ r.write = false ∧ r.inst = 0 ∧ r.addr = pa ∧
          r.cls = .soft 7) ∧
      t = { s with pur := t.pur, ports := t.ports, cc := t.cc, walked := t.walked }) ∧
    (∀ a r, s.pur.acc = some a → a.isOver = true → a.fail = none → a.data = r → shareOk r i = [] → s.led.plan = none →
      (s.books.setShare i (shareOf r i)).checks i 0x11 = [] →
      ∃ t u : State, exec x s = .next t ∧ u = { s.accEnds with insts := u.insts } ∧ (u.inst i).led = shareOf r i ∧
        (∀ j, j ≠ i → u.inst j = s.inst j) ∧
        (x = .instCreate → (u.inst i).state = .active ∧ (u.inst i).gen = (tabGet 0 s.led.lastGen i + 1) % 65536 ∧
          (u.inst i).root = localOf (cAddr2 c.raw) ∧
          t = u.done c (s.bell.glass + 1) (leBytes 2 ((tabGet 0 s.led.lastGen i + 1) % 65536))) ∧
        (x = .shareSet → (u.inst i).state = (s.inst i).state ∧ (u.inst i).gen = (s.inst i).gen ∧
          t = u.done c (s.bell.glass + 1) [])) ∧
    (∀ a, s.pur.acc = some a → a.isOver = false → exec x s = .next s)

/-- INST_RESET, INST_REMOVE, INST_SUSPEND and INST_RESUME. The first two begin the reset sequence: no fragment of the instance
that has not begun to write is left, and every entry whose overwrite is still to come is aborted. A suspension holds every
queue and channel of the instance until it is resumed.
(The model's readings in it: log entries 14, 32 and 33.) -/
def Obligations.InstancesEndAndRest : Prop :=
  ∀ (s : State) (c : Cmd) (i : Nat), s.Canon → s.purRuns = true → s.pur.cur = some c → i = cInst c.raw → 1 ≤ i → i < 1024 →
    s.exists_ i = true → s.pur.defer.all (fun d => d.inst != i) = true →
    (∀ x, x = Instr.instReset ∧ opcode c.raw = 0x83 ∨ x = Instr.instRemove ∧ opcode c.raw = 0x82 →
      ∃ t, exec x s = .next t ∧ (t.inst i).state = (if x = Instr.instReset then .resetting else .removing) ∧
        t.pur = (s.deferCmd c i).pur ∧ (∀ f ∈ t.frags, f.inst = i → f.writes = true) ∧
        (∀ g q, t.queue? g = some q → q.inst = i → q.waiting = false ∧
          ∀ e ∈ q.entries, e.issued = false → e.ended = 0x29) ∧
        (∀ j, j ≠ i → (t.inst j).state = (s.inst j).state) ∧ t.hold = s.hold) ∧
    (opcode c.raw = 0x84 → (cOp c.raw).testBit 0 = false → (s.inst i).state = .active →
      ∃ t, exec .instSuspend s = .next t ∧ (t.inst i).state = .suspending ∧ t.pur = (s.deferCmd c i).pur ∧
        (∀ g q, t.queue? g = some q → q.inst = i → q.susp = true) ∧
        (∀ n, (s.chan n).owner = i → (n, s.chan n) ∈ s.chans → (t.chan n).susp = true) ∧ t.frags = s.frags ∧ t.hold = s.hold) ∧
    (opcode c.raw = 0x84 → (cOp c.raw).testBit 0 = true →
      (s.inst i).state = .suspending ∨ (s.inst i).state = .suspended →
      ∃ t, exec .instResume s = .next t ∧ (t.inst i).state = .active ∧ t.pur = (s.done c 0 []).pur ∧
        t.mbs = (s.done c 0 []).mbs ∧ (∀ g q, t.queue? g = some q → q.inst = i → q.susp = false) ∧
        (∀ n, (s.chan n).owner = i → (n, s.chan n) ∈ s.chans → (t.chan n).susp = false) ∧ t.frags = s.frags ∧ t.hold = s.hold)

/-- The queue commands: Q_CREATE takes the lowest free number and ADMIN_INIT number 0, each as its operands and QF say, and the new
queue of an instance that is suspended or being suspended is held with it, which is the model's reading (log entry 33);
Q_RESIZE changes the interval, or the ring of an idle queue; Q_STRICT sets or clears the mode of an OFF queue; Q_READ_CTX
returns the snapshot; Q_DESTROY takes an OFF queue out of service and waits. -/
def Obligations.QueuesAreManaged : Prop :=
  ∀ (s : State) (c : Cmd), s.purRuns = true → s.pur.cur = some c →
    (opcode c.raw = 0xF0 → c.byQueue = false → ringOk c.raw false = [] → newQueueOk c.raw = [] → s.ringBaseOk c.raw = [] →
      nodeOf (cAddr2 c.raw) = s.node → localOf (cAddr2 c.raw) % 4096 = 0 → s.queue? 0 = none →
      ∀ q, q = newQueue c.raw 0 0 true false 7 0 true →
        ({ s.books with queues := s.books.queues ++ [(0, q)] } : Books).checks 0 0x13 = [] →
        ∃ t, exec .adminInit s = .next t ∧ t.queue? 0 = some q ∧ (t.inst 0).root = localOf (cAddr2 c.raw) ∧
          t.pur = (s.done c 0 []).pur ∧ (∀ g, g ≠ 0 → t.queue? g = s.queue? g) ∧ ∀ j, j ≠ 0 → t.inst j = s.inst j) ∧
    (∀ i l, i = cInst c.raw → l = cObj c.raw → i < 1024 → l < 1024 → ¬(i = 0 ∧ l = 0) → s.exists_ i = true →
      s.pur.defer.all (fun d => d.inst != i) = true →
      (opcode c.raw = 0x88 → s.localQueue i l = none → s.isContained i = false → s.inReset i = false →
        ringOk c.raw ((cQf c.raw).testBit 5) = [] → newQueueOk c.raw = [] → s.ringBaseOk c.raw = [] → s.freeQueue < 16384 →
        ∀ q, q = { newQueue c.raw i l ((cQf c.raw).testBit 4) ((cQf c.raw).testBit 0) (cQf c.raw / 2 % 8)
            (if (cQf c.raw).testBit 5 then cRhead c.raw else 0) (if (cQf c.raw).testBit 5 then (cQf c.raw).testBit 6 else true) with
              susp := s.suspends i } →
          ({ s.books with queues := s.books.queues ++ [(s.freeQueue, q)] } : Books).checks i 0x13 = [] →
          ∃ t, exec .qCreate s = .next t ∧ t.queue? s.freeQueue = some q ∧ t.pur = (s.done c 0 []).pur ∧
            (∀ g, g ≠ s.freeQueue → g ≠ 0 → t.queue? g = s.queue? g) ∧ t.insts = s.insts ∧ t.chans = s.chans) ∧
      (∀ g q, s.localQueue i l = some (g, q) → s.queue? g = some q → g ≠ 0 →
        (∀ x, opcode c.raw = 0x89 →
          ((cOp c.raw).testBit 0 = true ∧ cN c.raw ≤ 24 ∧ q.state ≠ .fenced ∧ x = { q with n := cN c.raw } ∨
            (cOp c.raw).testBit 0 = false ∧ ringOk c.raw true = [] ∧ s.ringBaseOk c.raw = [] ∧ q.state = .off ∧
              s.qIdle g q = true ∧ x = { q with
                base := BitVec.ofNat 64 (cAddr c.raw), k := cK c.raw, n := cN c.raw, head := cRhead c.raw
                lap := (cQf c.raw).testBit 6 }) →
          ({ s.books with queues := tabSet s.books.queues g x } : Books).checks q.inst 0x13 = [] →
          ∃ t, exec .qResize s = .next t ∧ t.queue? g = some x ∧ t.pur = (s.done c 0 []).pur ∧
            (∀ j, j ≠ g → j ≠ 0 → t.queue? j = s.queue? j) ∧ t.insts = s.insts) ∧
        (opcode c.raw = 0x8B → exec .qReadCtx s = .next (s.done c 0 (s.queueContext g q))) ∧
        (opcode c.raw = 0x8C → (cOp c.raw).testBit 0 = true → q.state = .off → q.strict = false →
          (s.queues.filter (fun q => q.2.strict)).length < 256 →
          exec .qStrictGrant s = .next ((s.updQueue g (fun q => { q with strict := true })).done c 0 [])) ∧
        (opcode c.raw = 0x8C → (cOp c.raw).testBit 0 = false → q.state = .off → q.strict = true →
          exec .qStrictRevoke s = .next ((s.updQueue g (fun q => { q with strict := false })).done c 0 [])) ∧
        (opcode c.raw = 0x8A → q.state = .off →
          exec .qDestroy s = .next ((s.deferCmd c i).updQueue g (fun q => { q with dying := true })))))

/-- CH_BIND gives a free IDLE channel to an instance within its quota, CH_UNBIND takes a bound IDLE one back; each leaves every
register of the channel at its reset value, but the level as sampled, and SUSP, which goes with the new owner: a channel given to an
instance that is suspended or being suspended is held with it, which is the model's reading (log entry 33). -/
def Obligations.ChannelsAreBound : Prop :=
  ∀ (s : State) (c : Cmd) (n : Nat), s.purRuns = true → s.pur.cur = some c → n = cObj c.raw → n < 512 →
    (s.chan n).state = .idle →
    (opcode c.raw = 0x90 → (s.chan n).owner = 0 → 1 ≤ cInst c.raw → cInst c.raw < 1024 → s.exists_ (cInst c.raw) = true →
      s.pur.defer.all (fun d => d.inst != cInst c.raw) = true → s.isContained (cInst c.raw) = false →
      s.inReset (cInst c.raw) = false → s.bound (cInst c.raw) + 1 ≤ (s.inst (cInst c.raw)).led.cmax →
      ∃ u : State, exec .chBind s = .next (u.done c 0 []) ∧ u = { s with chans := u.chans } ∧
        u.chan n = { owner := cInst c.raw, cur := (s.chan n).cur, susp := s.suspends (cInst c.raw) } ∧ ∀ m, m ≠ n → u.chan m = s.chan m) ∧
    (opcode c.raw = 0x91 → (s.chan n).owner ≠ 0 →
      ∃ u : State, exec .chUnbind s = .next (u.done c 0 []) ∧ u = { s with chans := u.chans } ∧
        u.chan n = { owner := 0, cur := (s.chan n).cur, susp := s.suspends 0 } ∧ ∀ m, m ≠ n → u.chan m = s.chan m)

/-- LOG_CTL and PLAN_LOAD: ON, OFF and FLUSH are accepted where logging stands as they need, and wait for their bell or their
flushes; PLAN_LOAD reads its plan at ADDR, a sound one that fits the pools waits for its glass, and CANCEL takes it back where
the pools then hold. The row that begins the read is the one that completes once it is over.
(The model's readings in it: log entries 34 and 36.) -/
def Obligations.LogsAndPlans : Prop :=
  ∀ (s : State) (c : Cmd) (i : Nat), s.purRuns = true → s.pur.cur = some c → i = cInst c.raw →
    (opcode c.raw = 0x98 → i < 1024 → s.exists_ i = true → s.pur.defer.all (fun d => d.inst != i) = true →
      s.swapping i = false →
      (cOp c.raw = 1 → (s.inst i).log = false → cLen c.raw % 4096 = 0 → 4096 ≤ cLen c.raw → cLen c.raw ≤ 16777216 →
        nodeOf (cAddr c.raw) = s.node → localOf (cAddr c.raw) % 4096 = 0 →
        exec .logCtlOn s = .next ((s.deferCmd c i).updInst i (fun x => { x with
          logNext := some (.on (localOf (cAddr c.raw)) (cLen c.raw)) }))) ∧
      (cOp c.raw = 0 → (s.inst i).log = true →
        exec .logCtlOff s = .next ((s.deferCmd c i).updInst i (fun x => { x with logNext := some .off }))) ∧
      (cOp c.raw = 2 → (s.inst i).log = true →
        exec .logCtlFlush s = .next ((s.deferCmd c i (s.flushesDue i)).queueLines (fun l => l.inst == i)))) ∧
    (opcode c.raw = 0xA0 →
      ((cOp c.raw).testBit 0 = false → cLen c.raw ≤ 49216 → nodeOf (cAddr c.raw) = s.node →
        localOf (cAddr c.raw) % 64 = 0 → s.led.plan = none →
        (s.pur.acc = none → ∃ t a, exec .planLoad s = .next t ∧ t.pur = { s.pur with acc := some a } ∧ a.write = false ∧
          a.image = false ∧ a.addr = cAddr c.raw ∧ a.data.length = cLen c.raw ∧
          t = { s with pur := t.pur, ports := t.ports, cc := t.cc, walked := t.walked }) ∧
        (∀ a r, s.pur.acc = some a → a.isOver = true → a.fail = none → a.data = r → s.planOk r (cLen c.raw) = [] →
          (s.booksNow.after (planOf r s.bell.glass)).pools = [] →
          exec .planLoad s = .next ({ s.accEnds with led := { s.led with plan := some (planOf r s.bell.glass) } }.done c
            (planOf r s.bell.glass).glass []))) ∧
      ((cOp c.raw).testBit 0 = true → s.led.plan ≠ none → s.booksNow.pools = [] →
        exec .planCancel s = .next ({ s with led := { s.led with plan := none } }.done c 0 [])))

/-- Deferred commands complete once their condition holds: a suspension when its instance is quiet or has become SUSPENDED, LOG_CTL ON when logging
is on, Q_DESTROY when its queue is idle; the queue is gone with it. The Purser's two supervisions only raise their faults.
(The model's readings in it: log entry 35.) -/
def Obligations.DeferredCommandsComplete : Prop :=
  ∀ s : State,
    (∀ d rest, s.purRuns = true → s.pur.defer = d :: rest → (∀ x ∈ s.pur.defer, opcode x.raw ≠ 0x82) →
      (opcode d.raw = 0x84 → (s.inst d.inst).state = .suspending ∧ s.quiet d.inst = true ∨ (s.inst d.inst).state = .suspended →
        ∃ t, exec .commandCompletion s = .next t ∧ (t.inst d.inst).state = .suspended ∧ t.pur.defer = rest ∧
          (∀ m, d.src = .mailbox m → (t.mb m).done = true ∧ (t.mb m).busy = false) ∧
          (∀ j, j ≠ d.inst → t.inst j = s.inst j) ∧ t.chans = s.chans ∧ t.hold = s.hold) ∧
      (opcode d.raw = 0x98 → cOp d.raw = 1 → (s.inst d.inst).log = true → (s.inst d.inst).logNext = none →
        ∃ t, exec .commandCompletion s = .next t ∧ t.insts = s.insts ∧ t.pur.defer = rest ∧
          (∀ m, d.src = .mailbox m → (t.mb m).done = true ∧ (t.mb m).busy = false)) ∧
      (∀ g q, opcode d.raw = 0x8A → s.localQueue d.inst (cObj d.raw) = some (g, q) → s.qIdle g q = true → g ≠ 0 →
        ∃ t, exec .commandCompletion s = .next t ∧ t.queue? g = none ∧ t.pur.defer = rest ∧
          (∀ j, j ≠ g → j ≠ 0 → t.queue? j = s.queue? j) ∧ t.insts = s.insts)) ∧
    (∀ c, s.pur.cur = some c → s.up = true → s.pur.state = 3 → c.late = false → c.start + 500 * execBound c.raw < s.age →
      ∃ t, exec .purCmdTmo s = .next t ∧ t = { s with pur := { s.pur with cur := some { c with late := true } }, flt := t.flt } ∧
        ∃ d ∈ t.flt.waiting, d.source = 46 ∧ d.attr.kind = 4) ∧
    (s.purRuns = true → ∃ t, exec .purWdog s = .next t ∧ t = { s with flt := t.flt } ∧
      ∃ d ∈ t.flt.waiting, d.source = 44 ∧ d.attr.kind = 4)

/-! ### Settling, invalidations, the logbook -/

/-- The end of a settle: the instance has a new generation, no entry of the chart cache, an event ring that is off, queues
OFF with nothing open, and channels IDLE with END STOPPED; a reset one is ACTIVE, and a contained one CONTAINED. A write that
the settle gives up keeps its slot and raises SETTLE_TMO.
(The model's readings in it: log entry 16.) -/
def Obligations.SettlesEnd : Prop :=
  ∀ (s : State) (i : Fin 1024), s.up = true →
    (s.pwr.clocked = true → s.frozen = false → s.inReset i.val = true → s.settled i.val = true →
      ∃ t, exec (.settleEnd i) s = .next t ∧ (t.inst i.val).gen = ((s.inst i.val).gen + 1) % 65536 ∧
        (t.inst i.val).state = (if (s.inst i.val).state = .resetting ∧ s.pur.state = 3 then .active else (s.inst i.val).state) ∧
        (t.inst i.val).evtEn = false ∧ (t.inst i.val).led = (s.inst i.val).led ∧
        t.cc = s.cc.filter (fun e => e.inst != i.val) ∧
        (∀ g q, t.queue? g = some q → q.inst = i.val → q.state = .off ∧ q.entries = [] ∧ q.enable = false) ∧
        (∀ n, (n, s.chan n) ∈ s.chans → (s.chan n).owner = i.val →
          (t.chan n).state = .idle ∧ (t.chan n).endc = 3 ∧ (t.chan n).owner = i.val) ∧
        (∀ j, j ≠ i.val → t.inst j = s.inst j) ∧ t.hold = s.hold ∧ t.pur = s.pur) ∧
    (s.pwr.clocked = true → (s.inst i.val).state = .containing → s.settled i.val = true →
      exec (.contained i) s = .next (s.updInst i.val (fun x => { x with state := .contained, settling := false }))) ∧
    (s.settled i.val = false → exec (.settleEnd i) s = .next s ∧ exec (.contained i) s = .next s) ∧
    (∀ (p : Fin 8) (slot : BitVec 14) w, (s.port p.val).wr.find? (fun w => w.slot == slot.toNat) = some w →
      (s.inst w.inst).settling = true → w.stuck = false → s.waitsFor w.inst w.owner w.at_ = true →
      fld s.glb.settleTmo 19 0 ≠ 0 → (s.inst w.inst).settle + 500 * fld s.glb.settleTmo 19 0 ≤ s.age →
      ∃ t, exec (.settleTmo p slot) s = .next t ∧ (∀ x ∈ (t.port p.val).wr, x.slot = slot.toNat → x.stuck = true) ∧
        (∃ d ∈ t.flt.waiting, d.source = 35 ∧ d.attr.inst = some w.inst) ∧ t.hold = s.hold)

/-- CC_INV: GO takes the range, removes the instance's entries that meet it, and ends once no access of before uses it; in low
power the range is taken and the rest waits for RUN; GO written on the bus clock of the end starts it again.
(The model's readings in it: log entry 43.) -/
def Obligations.InvalidationsRun : Prop :=
  ∀ s : State,
    (∀ v, s.taking = true → s.glb.ccGo = false →
      ∃ t i a n, exec (.ccInvGo v) s = .next t ∧ t.glb.ccGo = true ∧
        t.glb.ccInv = v &&& (mask 59 58 ||| mask 57 48 ||| mask 38 12) ∧ invRange t.glb.ccInv = (i, a, n) ∧
        (s.pwr.clocked = true →
          t.cc = s.cc.filter (fun e => !(e.inst == i && regionsMeet a n e.leaf.va e.leaf.log2)) ∧
          t = { s with glb := t.glb, cc := t.cc, ports := t.ports, walks := t.walks, walked := t.walked, clk := t.clk }) ∧
        (s.pwr.clocked = false →
          t = { s with glb := t.glb, clk := t.clk, pwr := { s.pwr with later := s.pwr.later ++ [.invalidate] } })) ∧
    (∀ v, s.taking = true → s.glb.ccGo = true →
      exec (.ccInvGo v) s = .next (s.noteWrite 0x808 (v ||| mask 63 63)).answered) ∧
    (s.up = true → s.pwr.clocked = true → s.glb.ccGo = true → (∀ p ∈ s.ports, p.2.rd = [] ∧ p.2.wr = []) →
      (∀ p ∈ s.fabs, p.2.slots = []) → (∀ f ∈ s.frags, f.id ∉ s.glb.ccFrags) →
      ∀ t, t = { s with glb := { s.glb with ccGo := false, ccAt := 0, ccFrags := [] } } →
        exec .ccInvDone s = .next (if s.goAgain 0x808 = none then t else t.ccStart)) ∧
    ((∃ f ∈ s.frags, f.id ∈ s.glb.ccFrags) → exec .ccInvDone s = .next s)

/-- The logbook: a flush takes the bits of the entry it chooses and reads its line as background work; LOG_SWAP.GO is taken
for an instance that is logged and has no LOG_CTL outstanding, refused else; the swap ends when the old bitmap is whole.
(The model's readings in it: log entry 15.) -/
def Obligations.LogbookRuns : Prop :=
  ∀ s : State,
    (∀ l, s.issues = true → s.flushChoice = some l →
      ∃ t r, exec .logFlush s = .next t ∧
        (∃ x ∈ t.logc, x.inst = l.inst ∧ x.line = l.line ∧ x.base = l.base ∧ x.flush = .reading ∧ x.bits = [] ∧
          x.taken = l.bits) ∧
        (t.port (logPort l.addr)).ctl = (s.port (logPort l.addr)).ctl ++ [r] ∧ r.write = false ∧ r.addr = l.addr ∧
        r.bytes = 64 ∧ r.inst = 0 ∧ r.cls = .background ∧ t = { s with logc := t.logc, ports := t.ports }) ∧
    (s.flushChoice = none → exec .logFlush s = .next s) ∧
    (∀ v, s.taking = true → s.glb.swapGo = false →
      ∃ t, exec (.logSwapGo v) s = .next t ∧ t = { s with glb := t.glb, clk := t.clk } ∧
        t.glb.logSwap = v &&& (mask 53 12 ||| mask 9 0) ∧
        (if s.exists_ (fld v 9 0) = true ∧ (s.inst (fld v 9 0)).log = true ∧ s.logPending (fld v 9 0) = false then
            t.glb.swapGo = true ∧ t.glb.swapAt = some (s.bell.glass + 1) ∧ t.glb.logRefused = s.glb.logRefused
          else t.glb.swapGo = false ∧ t.glb.logRefused = true)) ∧
    (∀ v, s.taking = true → s.glb.swapGo = true → exec (.logSwapGo v) s = .next (s.noteWrite 0xC40 (v ||| mask 63 63)).answered) ∧
    (∀ i base, s.up = true → s.pwr.clocked = true → s.glb.swapGo = true → s.glb.swapOld = some (i, base) →
      (∀ p ∈ s.writesOut i, p ∉ s.glb.swapOuts) → s.logBusy i base = false → s.goAgain 0xC40 = none →
      exec .logSwapDone s = .next { s with glb := { s.glb with swapGo := false, swapAt := none, swapOld := none, swapOuts := [] } }) ∧
    ((∃ i base p, s.glb.swapOld = some (i, base) ∧ p ∈ s.writesOut i ∧ p ∈ s.glb.swapOuts) → exec .logSwapDone s = .next s)

/-! ### The span -/

/-- Inbound requests: one that passes every check of R368 waits for the memory port of its address, firm where INB still
covers it; any other is answered with the status of the first check it fails, and raises FP_IN_DENIED unless that is BUSY; one whose
header fails parity only raises FP_RX_PAR. A served request is answered once all of it has ended: it leaves the inbound
path, its response joins the port it came by, with the data of a read that failed nowhere; before that nothing happens.
(The model's readings in it: log entry 42.) -/
def Obligations.InboundRequestsAreServed : Prop :=
  (∀ (s : State) (m : InMsg) (write : Bool) (c : Instr), s.receives = true → c = (if write then .wrReq m else .rdReq m) →
    hType m.hdr = (if write then 2 else 1) →
    (m.hdrOk = false → exec c s = .next ((s.countFab m.port.val false false (64 * (1 + m.flits.length))).raise 52 5 m.port.val none
      (fportDetail m.src.val m.hdr))) ∧
    (m.hdrOk = true → s.inCheck m write = 0 →
      ∃ t b, exec c s = .next t ∧ t.inbs = s.inbs ++ [b] ∧ b.id = s.nextInb ∧ b.write = write ∧ b.hdr = m.hdr ∧
        b.src = m.src.val ∧ b.port = m.port.val ∧ b.cluster = localOf (hAddr m.hdr) / 4096 % 8 ∧
        b.firm = decide (hLen m.hdr ≤ nth s.gls.inbLeft b.cluster) ∧
        nth t.gls.inbLeft b.cluster = nth s.gls.inbLeft b.cluster - (if b.firm then hLen m.hdr else 0) ∧
        (write = true → b.data = (payload m).take (hLen m.hdr)) ∧ t.ports = s.ports ∧ t.fabs = s.fabs ∧ t.hold = s.hold) ∧
    (∀ st, m.hdrOk = true → s.inCheck m write = st → st ≠ 0 →
      ∃ t x, exec c s = .next t ∧ (t.fab m.port.val).tx = (s.fab m.port.val).tx ++ [x] ∧ x.resp = true ∧
        x.msg.node = m.src.val ∧ at_ x.msg.hdr 0 1 = (if write then 0x82 else 0x81) ∧ at_ x.msg.hdr 1 1 = st ∧
        at_ x.msg.hdr 16 8 = hTag m.hdr ∧ x.msg.flits = [] ∧ t.inbs = s.inbs ∧ t.ports = s.ports ∧ t.hold = s.hold ∧
        (st ≠ 7 → ∃ d ∈ t.flt.waiting, d.source = 51 ∧ d.attr.unit = m.port.val))) ∧
  (∀ (s : State) (id : Nat) (b : Inb), s.up = true → s.inbs.find? (fun b => b.id == id) = some b →
    (b.reqs = [] → b.out = 0 →
      ∃ t x, exec (.inboundResponse id) s = .next t ∧ t.inbs = s.inbs.filter (fun x => x.id != id) ∧
        (t.fab b.port).tx = (s.fab b.port).tx ++ [x] ∧ x.resp = true ∧ x.firm = b.firm ∧ x.msg.node = b.src ∧
        (b.bad = none → at_ x.msg.hdr 1 1 = 0) ∧
        (b.bad = none → b.write = false → at_ x.msg.hdr 0 1 = 0x81 ∧ x.msg.flits.length = ceilDiv (hLen b.hdr) 64) ∧
        (b.bad ≠ none → x.msg.flits = []) ∧ (∀ k, k ≠ b.port → t.fab k = s.fab k) ∧
        t = { s with inbs := t.inbs, fabs := t.fabs }) ∧
    (b.reqs ≠ [] ∨ b.out ≠ 0 → exec (.inboundResponse id) s = .next s))

/-- Responses to a fragment's remote requests: OK frees the slot and puts a read's data where the swap places them; BUSY keeps
the slot for a request sent again 500 bus clocks on; ABSENT and the errors free it, are counted, and raise their sources; a
response that matches no slot is FP_STRAY's; one of an old generation only frees its slot.
(The model's readings in it: log entries 41, 43 and 64.) -/
def Obligations.RemoteResponsesEnd : Prop :=
  ∀ (s : State) (m : InMsg) (write : Bool) (c : Instr) (st : Nat), s.receives = true → m.hdrOk = true →
    c = (if write then .wrRsp m else .rdRsp m) → hType m.hdr = rspType write → st = hStatus m.hdr →
    s.written (spanStatOff m.port.val) = none →
    (s.matchSlot m = none ∨ m.flits.length ≠ rspFlits write st (hLen m.hdr) →
      exec c s = .next ((s.received m false).raise 50 5 m.port.val none (fportDetail m.src.val m.hdr))) ∧
    (∀ l, s.matchSlot m = some l → m.flits.length = rspFlits write st (hLen m.hdr) →
      hTag m.hdr / 2 ^ 14 % 65536 ≠ (s.inst l.inst).gen →
      exec c s = .next ((s.received m (l.cls == .top && !l.owner.isMsi)).freeSpan m.port.val l.idx)) ∧
    (∀ l id f, s.matchSlot m = some l → m.flits.length = rspFlits write st (hLen m.hdr) →
      hTag m.hdr / 2 ^ 14 % 65536 = (s.inst l.inst).gen → l.owner = .frag id → l.write = write → s.frag? id = some f →
      ∃ t, exec c s = .next t ∧ (st ≠ 7 → ∀ x ∈ (t.fab m.port.val).slots, x.idx ≠ l.idx) ∧
        (∀ k, k ≠ m.port.val → t.fab k = s.fab k) ∧ (st ≠ 0 ∨ write = true → t.hold = s.hold) ∧
        (st = 0 → write = false → f.dead = false → f.srcErr = none → ∀ a,
          (∀ k, k < ((payload m).take l.bytes).length → a ≠ f.at_ + swapOff f.swap (f.pos - f.base) (l.off + k)) →
          Memory.read t.hold a = Memory.read s.hold a) ∧
        (st = 0 → write = false → f.dead = false → f.srcErr = none → ∀ k, k < ((payload m).take l.bytes).length →
          (∀ j, j < ((payload m).take l.bytes).length →
            swapOff f.swap (f.pos - f.base) (l.off + j) = swapOff f.swap (f.pos - f.base) (l.off + k) → j = k) →
          Memory.read t.hold (f.at_ + swapOff f.swap (f.pos - f.base) (l.off + k)) = byteAt ((payload m).take l.bytes) k) ∧
        (st = 7 → (t.fab m.port.val).busy = satAdd 8 (s.fab m.port.val).busy 1 ∧
          (∀ x ∈ (t.fab m.port.val).slots, x.idx = l.idx → x.busyAt = some (s.age + 500)) ∧
          ∃ d ∈ t.flt.waiting, d.source = 56) ∧
        (st = 5 → (t.fab m.port.val).absent = satAdd 16 (s.fab m.port.val).absent 1 ∧ ∃ d ∈ t.flt.waiting, d.source = 54) ∧
        (st ≠ 0 → st ≠ 5 → st ≠ 7 → (t.fab m.port.val).err = satAdd 8 (s.fab m.port.val).err 1 ∧
          ∃ d ∈ t.flt.waiting, d.source = 53))

/-- Requests sent again and timed out, links and strays: a BUSY request joins its port again under its old tag; a request past
its timeout frees its slot, whose EPOCH rises, and is counted; a change of LINKUP is seen, and reported once the link has
been up; a message of no listed type is FP_STRAY's. The class in which a request is sent again is the one it had, which is the model's
reading (log entry 65). -/
def Obligations.SpanTimersAndLinks : Prop :=
  ∀ s : State,
    (∀ (f : Fin 4) (idx : Fin 512) l t0, s.up = true → s.frozen = false →
      (s.fab f.val).slots.find? (fun l => l.idx == idx.val) = some l → l.busyAt = some t0 →
      (t0 ≤ s.age → ∃ t x, exec (.busyReissue f idx) s = .next t ∧ (t.fab f.val).tx = (s.fab f.val).tx ++ [x] ∧
        x.msg = l.msg ∧ x.resp = false ∧ x.cls = l.cls ∧
        (t.fab f.val).slots = (s.fab f.val).slots.map (fun y => if y.idx = idx.val then { y with busyAt := none } else y) ∧
        (t.fab f.val).epochs = (s.fab f.val).epochs ∧ (∀ k, k ≠ f.val → t.fab k = s.fab k) ∧ t = { s with fabs := t.fabs }) ∧
      (s.age < t0 → exec (.busyReissue f idx) s = .next s)) ∧
    (∀ f l, s.up = true → s.frozen = false → s.written (spanStatOff f) = none →
      (List.range 4).flatMap (fun f => ((s.fab f).slots.filter (fun l => decide (l.sent + 500 * l.tmo ≤ s.age))).map
        (fun l => (f, l))) = [(f, l)] →
      ∃ t, exec .remoteTimeout s = .next t ∧ (t.fab f).slots = (s.fab f).slots.filter (fun x => x.idx != l.idx) ∧
        (t.fab f).epoch l.idx = (l.epoch + 1) % 256 ∧ (t.fab f).tmo = satAdd 16 (s.fab f).tmo 1 ∧ t.hold = s.hold ∧
        (∀ k, k ≠ f → t.fab k = s.fab k) ∧
        (∀ id x, l.owner = .frag id → s.frag? id = some x → ∃ d ∈ t.flt.waiting, d.source = 55 ∧ d.attr = x.attr)) ∧
    (∀ (f : Fin 4) up, s.isPresent = true →
      ∃ t, exec (.linkupChange f up) s = .next t ∧ (t.fab f.val).linkup = up ∧
        (t.fab f.val).seen = ((s.fab f.val).seen || up) ∧ (∀ k, k ≠ f.val → (t.fab k).linkup = (s.fab k).linkup) ∧
        (up = true ∨ (∀ p ∈ s.ports, p.2.ctl = []) → t = { s with fabs := t.fabs, flt := t.flt } ∧
          t.fab f.val = { s.fab f.val with linkup := up, seen := (s.fab f.val).seen || up } ∧
          (∀ k, k ≠ f.val → t.fab k = s.fab k) ∧ ((s.fab f.val).linkup = up → t.flt = s.flt)) ∧
        ((s.fab f.val).linkup ≠ up → (s.fab f.val).seen = true → ∃ d ∈ t.flt.waiting, d.source = 60 + f.val ∧
          d.present = !up)) ∧
    (∀ (f : Fin 4) up, s.isPresent = false →
      exec (.linkupChange f up) s = .next (s.updFab f.val (fun p => { p with linkup := up, seen := up }))) ∧
    (∀ m : InMsg, s.receives = true → m.hdrOk = true →
      (hType m.hdr ∉ [0x01, 0x02, 0x81, 0x82] →
        exec (.strayMessage m) s = .next ((s.received m false).raise 50 5 m.port.val none (fportDetail m.src.val m.hdr))) ∧
      (hType m.hdr ∈ [0x01, 0x02, 0x81, 0x82] → exec (.strayMessage m) s = .next s)) ∧
    (∀ m : InMsg, s.receives = true → m.hdrOk = false →
      exec (.strayMessage m) s = .next ((s.countFab m.port.val false false (64 * (1 + m.flits.length))).raise 52 5 m.port.val none
        (fportDetail m.src.val m.hdr)))

/-! ### Faults -/

/-- One detection of an event source on a bus clock of its own: its source counts and latches it with its effective class; it
opens a closed record or merges into an open one if MINCLASS lets it, and reaches no record below it; Fatal and Lockdown are
taken, and the alarm is held from its class on. -/
def Obligations.DetectionsAreReported : Prop :=
  ∀ (s : State) (d : Detection) (cls : Nat), s.collects = true → s.flt.waiting = [] → d.source < 80 →
    srcLevel d.source = false → d.present = true → s.injEvent = none → s.injHeld = none → s.written 0x4830 = none →
    cls = s.effClass d false →
    ∃ t, exec (.faultDetection [d]) s = .next t ∧ (t.src d.source).count = satAdd 16 (s.src d.source).count 1 ∧
      (t.src d.source).last = cls ∧ (t.src d.source).latched = true ∧
      (t.src d.source).live = true ∧ (t.src d.source).injd = false ∧
      (∀ k, k < 80 → srcLevel k = false → k ≠ d.source → t.src k = s.src k) ∧
      (s.flt.open_ = false → s.flt.minclass ≤ cls → t.flt.open_ = true ∧ t.flt.source = d.source ∧ t.flt.cls = cls ∧
        t.flt.fcls = cls ∧ t.flt.detail = d.detail ∧ t.flt.attr = s.attrWord d.attr ∧ t.flt.glass = s.bell.glass % 65536 ∧
        t.flt.inj = false ∧ t.flt.real = true ∧ t.flt.minj = false ∧ t.flt.sec0 = 0 ∧ t.flt.sec1 = 0 ∧ t.flt.merged = 0 ∧
        t.flt.records = satAdd 32 s.flt.records 1) ∧
      (s.flt.open_ = true → s.flt.minclass ≤ cls → t.flt.open_ = true ∧ t.flt.source = s.flt.source ∧
        t.flt.cls = max s.flt.cls cls ∧ t.flt.merged = satAdd 16 s.flt.merged 1 ∧ t.flt.detail = s.flt.detail ∧
        t.flt.attr = s.flt.attr ∧ t.flt.fcls = s.flt.fcls ∧ t.flt.glass = s.flt.glass ∧ t.flt.records = s.flt.records ∧
        bit (if d.source < 64 then t.flt.sec0 else t.flt.sec1) (d.source % 64) = true) ∧
      (cls < s.flt.minclass → t.flt.stat = s.flt.stat ∧ t.flt.attr = s.flt.attr ∧ t.flt.detail = s.flt.detail ∧
        t.flt.sec0 = s.flt.sec0 ∧ t.flt.sec1 = s.flt.sec1 ∧ t.flt.records = s.flt.records) ∧
      (s.flt.alarmMinclass ≤ cls → t.flt.min = 128 ∧ t.flt.held = true) ∧
      (cls < s.flt.alarmMinclass → t.flt.min = s.flt.min ∧ t.flt.held = s.flt.held) ∧
      (cls = 5 → t.pwr.lockdown = true) ∧ (cls = 4 → s.isolated = false → t.pwr.fatal = true) ∧
      (cls < 4 → t.pwr.fatal = s.pwr.fatal ∧ t.pwr.lockdown = s.pwr.lockdown) ∧ t.hold = s.hold

/-- The record's close, the alarm's minimum, injection, and the stalls of the ports: CLOSE closes the record only where SEEN
is MERGED; GO injects an event source and HOLD a level source while LOCK is 0; a stall is a condition that waits for its
detection, and in a freeze none begins. -/
def Obligations.FaultControls : Prop :=
  ∀ s : State,
    (∀ seen : BitVec 16, s.answersAbsent = false → s.pwr.lockdown = false → s.pwr.phase = .run →
      exec (.frecClose seen) s = .next { s with
        flt := { s.flt with seen := seen.toNat, open_ := s.flt.open_ && s.flt.merged != seen.toNat }
        glb := { s.glb with rpDone := true } }) ∧
    (s.flt.min = 1 → exec .alarmMinExpiry s = .next { s with flt := { s.flt with min := 0 } }) ∧
    (s.flt.min ≠ 1 → exec .alarmMinExpiry s = .next s) ∧
    (∀ k : BitVec 7, s.taking = true → s.glb.lock = false → bit s.glb.injCtl 1 = false →
      ∃ t, exec (.injGo k) s = .next t ∧ t = { s with glb := t.glb, clk := t.clk } ∧ fld t.glb.injCtl 14 8 = k.toNat ∧
        t.glb.injGo = (s.glb.injGo || (decide (k.toNat < 80) && !srcLevel k.toNat))) ∧
    (∀ (k : BitVec 7) (h : Bool), s.taking = true → s.glb.lock = false →
      ∃ t, exec (.injHold k h) s = .next t ∧ t = { s with glb := t.glb, clk := t.clk } ∧ bit t.glb.injCtl 1 = h ∧
        fld t.glb.injCtl 14 8 = (if bit s.glb.injCtl 1 then fld s.glb.injCtl 14 8 else k.toNat)) ∧
    (∀ (k : BitVec 7) (h : Bool), s.taking = true → s.glb.lock = true →
      exec (.injGo k) s = .next s.answered ∧ exec (.injHold k h) s = .next s.answered) ∧
    (∀ (c : Fin 8) (f : Fin 4), s.isPresent = false ∨ s.frozen = true →
      exec (.mpStall c true) s = .next s ∧ exec (.fpTxStall f true) s = .next s) ∧
    (∀ (c : Fin 8) (f : Fin 4) (p : Bool), s.isPresent = true → p = false ∨ s.frozen = false →
      ∃ t u, exec (.mpStall c p) s = .next t ∧ t = { s with flt := t.flt } ∧ t.flt.waiting = s.flt.waiting ++
          [{ source := 19, attr := { kind := 6, unit := c.val, inst := none }, detail := 0, xcause := none, present := p }] ∧
        exec (.fpTxStall f p) s = .next u ∧ u = { s with flt := u.flt } ∧ u.flt.waiting = s.flt.waiting ++
          [{ source := 58, attr := { kind := 5, unit := f.val, inst := none }, detail := 0, xcause := none, present := p }])

/-- Scrubbing: after a bell one word of each structure is read and the next ones are the following; what is found is raised
under the structure's source, and counted if it can be repaired. A scrub of an EMPTY bank leaves its 64 KiB zero and every
other byte of the hold as it was.
(The model's readings in it: log entries 17 and 54.) -/
def Obligations.ScrubbersRun : Prop :=
  ∀ s : State, s.isPresent = true → s.pwr.clocked = true → s.frozen = false →
    (s.flt.due = true → exec (.scrubStep []) s = .next { s with flt := { s.flt with due := false, words := nextWords s.flt.words } }) ∧
    (∀ f : ScrubFind, s.flt.due = true →
      ∃ t d, exec (.scrubStep [f]) s = .next t ∧ t = { s with flt := t.flt } ∧ t.flt.due = false ∧
        t.flt.words = nextWords s.flt.words ∧ t.flt.waiting = s.flt.waiting ++ [d] ∧
        d.source = 36 + 2 * sramNo f.sram + (if f.single then 0 else 1) ∧ d.present = true ∧
        t.flt.fixes = (if f.single ∨ f.sram = .context ∨ f.sram = .chartCache then satAdd 16 s.flt.fixes 1 else s.flt.fixes)) ∧
    (∀ found, s.flt.due = false → exec (.scrubStep found) s = .next s) ∧
    (∀ bad, s.flt.scrubOn = true → s.bankMode (s.flt.bank / 2) (s.flt.bank % 2) = 0 →
      ∃ t, exec (.holdScrub bad) s = .next t ∧ t = { s with hold := t.hold, flt := t.flt } ∧ t.flt.scrubOn = false ∧
        t.flt.bankDone = true ∧
        (∀ a, s.flt.bank * 65536 ≤ a → a < (s.flt.bank + 1) * 65536 → Memory.read t.hold a = 0) ∧
        (∀ a, a < s.flt.bank * 65536 ∨ (s.flt.bank + 1) * 65536 ≤ a → Memory.read t.hold a = Memory.read s.hold a) ∧
        (bad = true → t.flt.fixes = satAdd 16 s.flt.fixes 1 ∧ ∃ d ∈ t.flt.waiting, d.source = 15) ∧
        (bad = false → t.flt.waiting = s.flt.waiting)) ∧
    (∀ bad, s.flt.scrubOn = true → s.bankMode (s.flt.bank / 2) (s.flt.bank % 2) ≠ 0 →
      exec (.holdScrub bad) s = .next { s with flt := { s.flt with scrubOn := false, bankDone := true } })

/-- The factory values of the calibration, the security word and the key digests change only at step FUSE and in a reset: no
register write, command or bus clock reaches them. -/
def Obligations.FactoryValuesStay : Prop :=
  ∀ (s t : State), step s = .next t →
    (∀ rest, s.pending ≠ .pgoodFall :: rest ∧ s.pending ≠ .powerOnReset :: rest ∧ s.pending ≠ .blockReset :: rest ∧
      ∀ a b ok, s.pending ≠ .fuse a b ok :: rest) →
    t.droop.fuses = s.droop.fuses
end

