-- ==== Sys2Proof/Laws/Frame.lean ====
section
/-! SUPPORT. Frames: which parts of State a change may touch. One lemma per shared operation says it once, in Frame1 and
Frame2. -/

namespace Sys2Proof.Machine

open Sys2Proof

/-- The parts of State. -/
inductive Part where
  | pending
  | now
  | age
  | clk
  | pwr
  | glb
  | bell
  | gls
  | tmr
  | flt
  | droop
  | mbs
  | pur
  | led
  | insts
  | queues
  | chans
  | engs
  | frags
  | nextId
  | hold
  | ports
  | fabs
  | inbs
  | nextInb
  | pollAt
  | cc
  | walks
  | walked
  | logc
  deriving DecidableEq, Repr

/-- A part is the same in two states. -/
def Part.same : Part → State → State → Prop
  | .pending, s, t => t.pending = s.pending
  | .now, s, t => t.now = s.now
  | .age, s, t => t.age = s.age
  | .clk, s, t => t.clk = s.clk
  | .pwr, s, t => t.pwr = s.pwr
  | .glb, s, t => t.glb = s.glb
  | .bell, s, t => t.bell = s.bell
  | .gls, s, t => t.gls = s.gls
  | .tmr, s, t => t.tmr = s.tmr
  | .flt, s, t => t.flt = s.flt
  | .droop, s, t => t.droop = s.droop
  | .mbs, s, t => t.mbs = s.mbs
  | .pur, s, t => t.pur = s.pur
  | .led, s, t => t.led = s.led
  | .insts, s, t => t.insts = s.insts
  | .queues, s, t => t.queues = s.queues
  | .chans, s, t => t.chans = s.chans
  | .engs, s, t => t.engs = s.engs
  | .frags, s, t => t.frags = s.frags
  | .nextId, s, t => t.nextId = s.nextId
  | .hold, s, t => t.hold = s.hold
  | .ports, s, t => t.ports = s.ports
  | .fabs, s, t => t.fabs = s.fabs
  | .inbs, s, t => t.inbs = s.inbs
  | .nextInb, s, t => t.nextInb = s.nextInb
  | .pollAt, s, t => t.pollAt = s.pollAt
  | .cc, s, t => t.cc = s.cc
  | .walks, s, t => t.walks = s.walks
  | .walked, s, t => t.walked = s.walked
  | .logc, s, t => t.logc = s.logc

/-- At most the parts listed differ. -/
def Frame (ps : List Part) (s t : State) : Prop := ∀ p, p ∉ ps → p.same s t

theorem Part.same_refl (p : Part) (s : State) : p.same s s := by cases p <;> rfl

theorem Part.same_trans (p : Part) {s t u : State} (h : p.same s t) (g : p.same t u) : p.same s u := by
  cases p <;> exact Eq.trans g h

theorem Frame.refl {ps : List Part} {s : State} : Frame ps s s := fun p _ => p.same_refl s

/-- A part outside the list is the same. -/
theorem Frame.get {ps : List Part} {s t : State} (h : Frame ps s t) (p : Part) (m : ps.contains p = false) : p.same s t :=
  h p fun k => by simp_all

theorem Frame.intro {ps : List Part} {s t : State} (h : ∀ p, p ∉ ps → p.same s t) : Frame ps s t := h

theorem Frame.trans {ps : List Part} {s t u : State} (h : Frame ps s t) (g : Frame ps t u) : Frame ps s u :=
  fun p n => p.same_trans (h p n) (g p n)

/-- The last change comes after the others. -/
theorem Frame.via {ps : List Part} {s t u : State} (g : Frame ps t u) (h : Frame ps s t) : Frame ps s u := h.trans g

theorem Frame.grow {ps qs : List Part} {s t : State} (h : Frame ps s t) (hs : ps.all qs.contains = true) : Frame qs s t :=
  fun p n => h p fun m => n (by simpa using List.all_eq_true.mp hs p m)

theorem Frame.foldl {ps : List Part} {s t : State} {α : Type} {f : State → α → State} {l : List α}
    (hf : ∀ u x, Frame ps u (f u x)) (h : Frame ps s t) : Frame ps s (l.foldl f t) := by
  induction l generalizing t with
  | nil => exact h
  | cons x xs ih => exact ih (h.trans (hf t x))

/-- A record update: the base is the state whose queue of commands it keeps. -/
theorem Frame.flds {ps : List Part} {a s : State} {x1 x2 x3 x4 x5 x6 x7 x8 x9 x10 x11 x12 x13 x14 x15 x16 x17 x18 x19 x20 x21 x22 x23 x24 x25 x26 x27 x28 x29}
    (g : Frame ps s (State.mk s.pending x1 x2 x3 x4 x5 x6 x7 x8 x9 x10 x11 x12 x13 x14 x15 x16 x17 x18 x19 x20 x21 x22 x23 x24 x25 x26 x27 x28 x29)) (h : Frame ps a s) :
    Frame ps a (State.mk s.pending x1 x2 x3 x4 x5 x6 x7 x8 x9 x10 x11 x12 x13 x14 x15 x16 x17 x18 x19 x20 x21 x22 x23 x24 x25 x26 x27 x28 x29) := h.trans g

theorem State.updInst_frame (s : State) (i : Nat) (f : Inst → Inst) : Frame [.insts] s (s.updInst i f) := fun p hp => by cases p <;> first | rfl | exact absurd (List.mem_singleton.mpr rfl) hp

theorem State.updChan_frame (s : State) (i : Nat) (f : Chan → Chan) : Frame [.chans] s (s.updChan i f) := fun p hp => by cases p <;> first | rfl | exact absurd (List.mem_singleton.mpr rfl) hp

theorem State.updQueue_frame (s : State) (i : Nat) (f : Queue → Queue) : Frame [.queues] s (s.updQueue i f) := by
  unfold State.updQueue
  intro p hp
  split
  · cases p <;> first | rfl | exact absurd (List.mem_singleton.mpr rfl) hp
  · exact p.same_refl s

theorem State.updEntry_frame (s : State) (i j : Nat) (f : Entry → Entry) : Frame [.queues] s (s.updEntry i j f) := State.updQueue_frame s i _

theorem State.updEng_frame (s : State) (i : Nat) (f : Eng → Eng) : Frame [.engs] s (s.updEng i f) := fun p hp => by cases p <;> first | rfl | exact absurd (List.mem_singleton.mpr rfl) hp

theorem State.updPort_frame (s : State) (i : Nat) (f : MPort → MPort) : Frame [.ports] s (s.updPort i f) := fun p hp => by cases p <;> first | rfl | exact absurd (List.mem_singleton.mpr rfl) hp

theorem State.updFab_frame (s : State) (i : Nat) (f : FPort → FPort) : Frame [.fabs] s (s.updFab i f) := fun p hp => by cases p <;> first | rfl | exact absurd (List.mem_singleton.mpr rfl) hp

theorem State.updMb_frame (s : State) (i : Nat) (f : Mbox → Mbox) : Frame [.mbs] s (s.updMb i f) := fun p hp => by cases p <;> first | rfl | exact absurd (List.mem_singleton.mpr rfl) hp

theorem State.updCounter_frame (s : State) (i : Nat) (f : Tmr → Tmr) : Frame [.tmr] s (s.updCounter i f) := fun p hp => by cases p <;> first | rfl | exact absurd (List.mem_singleton.mpr rfl) hp

theorem State.updCapture_frame (s : State) (i : Nat) (f : Cap → Cap) : Frame [.tmr] s (s.updCapture i f) := fun p hp => by cases p <;> first | rfl | exact absurd (List.mem_singleton.mpr rfl) hp

theorem State.updAcc_frame (s : State) (i : Nat) (f : PortAcc → PortAcc) : Frame [.gls] s (s.updAcc i f) := fun p hp => by cases p <;> first | rfl | exact absurd (List.mem_singleton.mpr rfl) hp

theorem State.updFabAcc_frame (s : State) (i : Nat) (f : FabAcc → FabAcc) : Frame [.gls] s (s.updFabAcc i f) := fun p hp => by cases p <;> first | rfl | exact absurd (List.mem_singleton.mpr rfl) hp

theorem State.updFrag_frame (s : State) (i : Nat) (f : Frag → Frag) : Frame [.frags] s (s.updFrag i f) := fun p hp => by cases p <;> first | rfl | exact absurd (List.mem_singleton.mpr rfl) hp

theorem State.dropFrag_frame (s : State) (i : Nat) : Frame [.frags] s (s.dropFrag i) := fun p hp => by cases p <;> first | rfl | exact absurd (List.mem_singleton.mpr rfl) hp

theorem State.updSrc_frame (s : State) (i : Nat) (f : Src → Src) : Frame [.flt] s (s.updSrc i f) := fun p hp => by cases p <;> first | rfl | exact absurd (List.mem_singleton.mpr rfl) hp

theorem State.raise_frame (s : State) (k kind unit : Nat) (inst : Option Nat) (d : Word) (x : Option Nat) : Frame [.flt] s (s.raise k kind unit inst d x) := fun p hp => by cases p <;> first | rfl | exact absurd (List.mem_singleton.mpr rfl) hp

theorem State.raiseAt_frame (s : State) (k : Nat) (a : Attr) (d : Word) (x : Option Nat) : Frame [.flt] s (s.raiseAt k a d x) := fun p hp => by cases p <;> first | rfl | exact absurd (List.mem_singleton.mpr rfl) hp

theorem State.level_frame (s : State) (k kind unit : Nat) (p : Bool) : Frame [.flt] s (s.level k kind unit p) := fun p hp => by cases p <;> first | rfl | exact absurd (List.mem_singleton.mpr rfl) hp

/-- A counter's event, unless a write of this bus clock has overruled it. -/
theorem State.unlessWritten_frame {ps : List Part} {a s : State} {off : Nat} {f : State → State} (h0 : Frame ps a s)
    (h : Frame ps a (f s)) : Frame ps a (s.unlessWritten off f) := by
  unfold State.unlessWritten
  split
  · exact h0
  · exact h

/-- The effect of a write, at once or kept for RUN. -/
theorem State.steer_frame {ps : List Part} {a s : State} {l : Later} {f : State → State} (h0 : Frame ps a s)
    (h : Frame ps a (f s)) (hp : ps.contains .pwr = true) : Frame ps a (s.steer l f) := by
  unfold State.steer
  split
  · exact h
  · refine h0.trans (Frame.intro fun p hn => ?_)
    cases p <;> first | rfl | exact absurd (by simpa using hp) hn

end Sys2Proof.Machine
end

