-- ==== Sys2Proof/Laws/Tables.lean ====
section
/-! SUPPORT. Number-keyed tables and the hold's bytes: reading after writing, and the canonical form. -/

namespace Sys2Proof.Machine

open Sys2Proof

/-! ### Tables -/

@[simp] theorem tabGet_nil {α : Type} (d : α) (k : Nat) : tabGet d [] k = d := rfl

@[simp] theorem tabGet_tabSet {α : Type} (d : α) (t : List (Nat × α)) (k : Nat) (v : α) (j : Nat) :
    tabGet d (tabSet t k v) j = if j = k then v else tabGet d t j := by
  induction t with
  | nil => simp [tabSet, tabGet, eq_comm]
  | cons p rest ih =>
    obtain ⟨i, w⟩ := p
    simp only [tabSet]
    split
    · subst i; by_cases h : k = j <;> simp [tabGet, h, eq_comm]
    · split
      · by_cases h : k = j
        · simp [tabGet, h]
        · simp [tabGet, h, Ne.symm h]
      · simp only [tabGet, ih]
        by_cases h : i = j
        · subst j; simp [*]
        · simp [h]

theorem tabGet_tabSet_same {α : Type} (d : α) (t : List (Nat × α)) (k : Nat) (v : α) : tabGet d (tabSet t k v) k = v := by
  simp

theorem tabGet_tabSet_other {α : Type} (d : α) (t : List (Nat × α)) (k : Nat) (v : α) (j : Nat) (h : j ≠ k) :
    tabGet d (tabSet t k v) j = tabGet d t j := by simp [h]

@[simp] theorem tabGet_tabUpd {α : Type} (d : α) (t : List (Nat × α)) (k : Nat) (f : α → α) (j : Nat) :
    tabGet d (tabUpd d t k f) j = if j = k then f (tabGet d t k) else tabGet d t j := by simp [tabUpd]

/-- What a table lists after a key is set. -/
theorem mem_tabSet {α : Type} {t : List (Nat × α)} {k : Nat} {v : α} {p : Nat × α} (h : p ∈ tabSet t k v) :
    p = (k, v) ∨ p ∈ t := by
  induction t with
  | nil => simpa [tabSet] using h
  | cons q rest ih =>
    simp only [tabSet] at h
    split at h
    · rcases List.mem_cons.1 h with h | h
      · exact .inl h
      · exact .inr (List.mem_cons_of_mem _ h)
    · split at h
      · rcases List.mem_cons.1 h with h | h
        · exact .inl h
        · exact .inr h
      · rcases List.mem_cons.1 h with h | h
        · exact .inr (h ▸ List.mem_cons_self)
        · exact (ih h).imp id (List.mem_cons_of_mem _)

theorem tabSet_wf {α : Type} {t : List (Nat × α)} (h : tabWf t) (k : Nat) (v : α) : tabWf (tabSet t k v) := by
  induction t with
  | nil => simp [tabSet, tabWf]
  | cons p rest ih =>
    obtain ⟨i, w⟩ := p
    have hr := List.pairwise_cons.1 h
    simp only [tabSet]
    split
    · subst i; exact List.pairwise_cons.2 hr
    · split
      · refine List.pairwise_cons.2 ⟨fun q hq => ?_, h⟩
        rcases List.mem_cons.1 hq with rfl | hq
        · assumption
        · have := hr.1 q hq; simp only at this ⊢; omega
      · refine List.pairwise_cons.2 ⟨fun q hq => ?_, ih hr.2⟩
        rcases mem_tabSet hq with rfl | hq
        · simp only; omega
        · exact hr.1 q hq

theorem tabUpd_wf {α : Type} {d : α} {t : List (Nat × α)} (h : tabWf t) (k : Nat) (f : α → α) :
    tabWf (tabUpd d t k f) := tabSet_wf h _ _

theorem tabErase_wf {α : Type} {t : List (Nat × α)} (h : tabWf t) (k : Nat) : tabWf (tabErase t k) :=
  List.Pairwise.filter _ h

theorem tabFilter_wf {α : Type} {t : List (Nat × α)} (h : tabWf t) (f : Nat × α → Bool) : tabWf (t.filter f) :=
  List.Pairwise.filter _ h

/-- A change of the values keeps the keys. -/
theorem tabMap_wf {α β : Type} {t : List (Nat × α)} (h : tabWf t) (f : Nat × α → β) :
    tabWf (t.map (fun p => (p.1, f p))) := List.pairwise_map.2 h

theorem tabGet_map {α : Type} (d : α) (t : List (Nat × α)) (g : Nat → α → α) (k : Nat) (hd : g k d = d) :
    tabGet d (t.map (fun p => (p.1, g p.1 p.2))) k = g k (tabGet d t k) := by
  induction t with
  | nil => exact hd.symm
  | cons p t ih =>
    obtain ⟨j, v⟩ := p
    simp only [List.map_cons, tabGet]
    split
    · rename_i h; rw [h]
    · exact ih

theorem tabGet_absent {α : Type} (d : α) (t : List (Nat × α)) (k : Nat) (h : ∀ p ∈ t, p.1 ≠ k) : tabGet d t k = d := by
  induction t with
  | nil => rfl
  | cons p rest ih =>
    obtain ⟨i, w⟩ := p
    have h1 : i ≠ k := h (i, w) List.mem_cons_self
    simp only [tabGet, h1, if_false]
    exact ih (fun q hq => h q (List.mem_cons_of_mem _ hq))

theorem tabGet_tabErase {α : Type} (d : α) (t : List (Nat × α)) (k j : Nat) :
    tabGet d (tabErase t k) j = if j = k then d else tabGet d t j := by
  induction t with
  | nil => simp [tabErase, tabGet]
  | cons p rest ih =>
    obtain ⟨i, w⟩ := p
    by_cases h : i = k
    · have e : tabErase ((i, w) :: rest) k = tabErase rest k := by simp [tabErase, h]
      rw [e, ih]
      by_cases hj : j = k
      · simp [hj]
      · have : i ≠ j := fun e => hj (e ▸ h)
        simp [tabGet, hj, this]
    · have e : tabErase ((i, w) :: rest) k = (i, w) :: tabErase rest k := by simp [tabErase, h]
      rw [e]
      by_cases hj : i = j
      · have : j ≠ k := hj ▸ h
        simp [tabGet, hj, this]
      · simp only [tabGet, hj, if_false]; exact ih

/-! ### The hold's bytes (R112) -/

/-- A byte written is the byte read there, and every other byte stays. -/
theorem Memory.read_write (m : List Host.Cell) (a : Nat) (b : Byte) (x : Nat) :
    Memory.read (Memory.write m a b) x = if x = a then b else Memory.read m x := by
  unfold Memory.read Memory.write
  split
  · rename_i h; rw [tabGet_tabErase]; by_cases hx : x = a <;> simp [hx, h]
  · rw [tabGet_tabSet]

theorem Memory.read_write_same (m : List Host.Cell) (a : Nat) (b : Byte) : Memory.read (Memory.write m a b) a = b := by
  simp [Memory.read_write]

theorem Memory.read_write_other (m : List Host.Cell) (a : Nat) (b : Byte) (x : Nat) (h : x ≠ a) :
    Memory.read (Memory.write m a b) x = Memory.read m x := by simp [Memory.read_write, h]

/-- A write keeps the canonical form. -/
theorem Memory.write_wf {m : List Host.Cell} (h : Memory.wf m) (a : Nat) (b : Byte) : Memory.wf (Memory.write m a b) := by
  unfold Memory.write
  split
  · exact ⟨tabErase_wf (t := m) h.1 a, fun c hc => h.2 c (List.mem_filter.1 hc).1⟩
  · rename_i hb
    refine ⟨tabSet_wf (t := m) h.1 a b, fun c hc => ?_⟩
    rcases mem_tabSet hc with rfl | hc
    · exact hb
    · exact h.2 c hc

theorem Memory.writes_wf {m : List Host.Cell} (h : Memory.wf m) (a : Nat) (l : List Byte) : Memory.wf (Memory.writes m a l) := by
  induction l generalizing m a with
  | nil => exact h
  | cons b bs ih => exact ih (Memory.write_wf h a b) (a + 1)

theorem Memory.filter_wf {m : List Host.Cell} (h : Memory.wf m) (f : Host.Cell → Bool) : Memory.wf (m.filter f) :=
  ⟨List.Pairwise.filter _ h.1, fun c hc => h.2 c (List.mem_filter.1 hc).1⟩

theorem Memory.nil_wf : Memory.wf [] := ⟨List.Pairwise.nil, fun _ h => nomatch h⟩

/-- Consecutive bytes written one after another keep the canonical form. -/
theorem Memory.scatter_wf {m : List Host.Cell} (h : Memory.wf m) (l : List Nat) (a : Nat → Nat) (b : Nat → Byte) :
    Memory.wf (l.foldl (fun m k => Memory.write m (a k) (b k)) m) := by
  induction l generalizing m with
  | nil => exact h
  | cons k ks ih => exact ih (Memory.write_wf h (a k) (b k))

/-- A write of consecutive bytes leaves every byte outside them. -/
theorem Memory.read_writes_outside (m : List Host.Cell) (a : Nat) (l : List Byte) (x : Nat) (h : x < a ∨ a + l.length ≤ x) :
    Memory.read (Memory.writes m a l) x = Memory.read m x := by
  induction l generalizing m a with
  | nil => rfl
  | cons b bs ih =>
    simp only [List.length_cons] at h
    rw [Memory.writes, ih _ _ (by omega), Memory.read_write_other _ _ _ _ (by omega)]

/-- A write of consecutive bytes puts byte k of them at the k-th place. -/
theorem Memory.read_writes_inside (m : List Host.Cell) (a : Nat) (l : List Byte) (k : Nat) (h : k < l.length) :
    Memory.read (Memory.writes m a l) (a + k) = l[k] := by
  induction l generalizing m a k with
  | nil => simp at h
  | cons b bs ih =>
    cases k with
    | zero => rw [Memory.writes, Memory.read_writes_outside _ _ _ _ (by omega), Nat.add_zero, Memory.read_write_same]; rfl
    | succ k =>
      have := ih (Memory.write m a b) (a + 1) k (by simpa using h)
      rw [Memory.writes, show a + (k + 1) = a + 1 + k by omega, this]; rfl

end Sys2Proof.Machine
end

