-- ==== Sys2Proof/Laws/State.lean ====
section
/-! SUPPORT. What each named update leaves of every field of State, and what the reads of numbered units give after it. -/

namespace Sys2Proof.Machine

open Sys2Proof

variable (s : State)

/-! ### Fields an update does not name -/

@[simp] theorem State.updInst_pending (i : Nat) (f : Inst → Inst) : (s.updInst i f).pending = s.pending := rfl
@[simp] theorem State.updInst_now (i : Nat) (f : Inst → Inst) : (s.updInst i f).now = s.now := rfl
@[simp] theorem State.updInst_age (i : Nat) (f : Inst → Inst) : (s.updInst i f).age = s.age := rfl
@[simp] theorem State.updInst_clk (i : Nat) (f : Inst → Inst) : (s.updInst i f).clk = s.clk := rfl
@[simp] theorem State.updInst_pwr (i : Nat) (f : Inst → Inst) : (s.updInst i f).pwr = s.pwr := rfl
@[simp] theorem State.updInst_glb (i : Nat) (f : Inst → Inst) : (s.updInst i f).glb = s.glb := rfl
@[simp] theorem State.updInst_bell (i : Nat) (f : Inst → Inst) : (s.updInst i f).bell = s.bell := rfl
@[simp] theorem State.updInst_gls (i : Nat) (f : Inst → Inst) : (s.updInst i f).gls = s.gls := rfl
@[simp] theorem State.updInst_tmr (i : Nat) (f : Inst → Inst) : (s.updInst i f).tmr = s.tmr := rfl
@[simp] theorem State.updInst_flt (i : Nat) (f : Inst → Inst) : (s.updInst i f).flt = s.flt := rfl
@[simp] theorem State.updInst_droop (i : Nat) (f : Inst → Inst) : (s.updInst i f).droop = s.droop := rfl
@[simp] theorem State.updInst_mbs (i : Nat) (f : Inst → Inst) : (s.updInst i f).mbs = s.mbs := rfl
@[simp] theorem State.updInst_pur (i : Nat) (f : Inst → Inst) : (s.updInst i f).pur = s.pur := rfl
@[simp] theorem State.updInst_led (i : Nat) (f : Inst → Inst) : (s.updInst i f).led = s.led := rfl
@[simp] theorem State.updInst_queues (i : Nat) (f : Inst → Inst) : (s.updInst i f).queues = s.queues := rfl
@[simp] theorem State.updInst_chans (i : Nat) (f : Inst → Inst) : (s.updInst i f).chans = s.chans := rfl
@[simp] theorem State.updInst_engs (i : Nat) (f : Inst → Inst) : (s.updInst i f).engs = s.engs := rfl
@[simp] theorem State.updInst_frags (i : Nat) (f : Inst → Inst) : (s.updInst i f).frags = s.frags := rfl
@[simp] theorem State.updInst_nextId (i : Nat) (f : Inst → Inst) : (s.updInst i f).nextId = s.nextId := rfl
@[simp] theorem State.updInst_hold (i : Nat) (f : Inst → Inst) : (s.updInst i f).hold = s.hold := rfl
@[simp] theorem State.updInst_ports (i : Nat) (f : Inst → Inst) : (s.updInst i f).ports = s.ports := rfl
@[simp] theorem State.updInst_fabs (i : Nat) (f : Inst → Inst) : (s.updInst i f).fabs = s.fabs := rfl
@[simp] theorem State.updInst_inbs (i : Nat) (f : Inst → Inst) : (s.updInst i f).inbs = s.inbs := rfl
@[simp] theorem State.updInst_nextInb (i : Nat) (f : Inst → Inst) : (s.updInst i f).nextInb = s.nextInb := rfl
@[simp] theorem State.updInst_pollAt (i : Nat) (f : Inst → Inst) : (s.updInst i f).pollAt = s.pollAt := rfl
@[simp] theorem State.updInst_cc (i : Nat) (f : Inst → Inst) : (s.updInst i f).cc = s.cc := rfl
@[simp] theorem State.updInst_walks (i : Nat) (f : Inst → Inst) : (s.updInst i f).walks = s.walks := rfl
@[simp] theorem State.updInst_walked (i : Nat) (f : Inst → Inst) : (s.updInst i f).walked = s.walked := rfl
@[simp] theorem State.updInst_logc (i : Nat) (f : Inst → Inst) : (s.updInst i f).logc = s.logc := rfl

@[simp] theorem State.updChan_pending (n : Nat) (f : Chan → Chan) : (s.updChan n f).pending = s.pending := rfl
@[simp] theorem State.updChan_now (n : Nat) (f : Chan → Chan) : (s.updChan n f).now = s.now := rfl
@[simp] theorem State.updChan_age (n : Nat) (f : Chan → Chan) : (s.updChan n f).age = s.age := rfl
@[simp] theorem State.updChan_clk (n : Nat) (f : Chan → Chan) : (s.updChan n f).clk = s.clk := rfl
@[simp] theorem State.updChan_pwr (n : Nat) (f : Chan → Chan) : (s.updChan n f).pwr = s.pwr := rfl
@[simp] theorem State.updChan_glb (n : Nat) (f : Chan → Chan) : (s.updChan n f).glb = s.glb := rfl
@[simp] theorem State.updChan_bell (n : Nat) (f : Chan → Chan) : (s.updChan n f).bell = s.bell := rfl
@[simp] theorem State.updChan_gls (n : Nat) (f : Chan → Chan) : (s.updChan n f).gls = s.gls := rfl
@[simp] theorem State.updChan_tmr (n : Nat) (f : Chan → Chan) : (s.updChan n f).tmr = s.tmr := rfl
@[simp] theorem State.updChan_flt (n : Nat) (f : Chan → Chan) : (s.updChan n f).flt = s.flt := rfl
@[simp] theorem State.updChan_droop (n : Nat) (f : Chan → Chan) : (s.updChan n f).droop = s.droop := rfl
@[simp] theorem State.updChan_mbs (n : Nat) (f : Chan → Chan) : (s.updChan n f).mbs = s.mbs := rfl
@[simp] theorem State.updChan_pur (n : Nat) (f : Chan → Chan) : (s.updChan n f).pur = s.pur := rfl
@[simp] theorem State.updChan_led (n : Nat) (f : Chan → Chan) : (s.updChan n f).led = s.led := rfl
@[simp] theorem State.updChan_insts (n : Nat) (f : Chan → Chan) : (s.updChan n f).insts = s.insts := rfl
@[simp] theorem State.updChan_queues (n : Nat) (f : Chan → Chan) : (s.updChan n f).queues = s.queues := rfl
@[simp] theorem State.updChan_engs (n : Nat) (f : Chan → Chan) : (s.updChan n f).engs = s.engs := rfl
@[simp] theorem State.updChan_frags (n : Nat) (f : Chan → Chan) : (s.updChan n f).frags = s.frags := rfl
@[simp] theorem State.updChan_nextId (n : Nat) (f : Chan → Chan) : (s.updChan n f).nextId = s.nextId := rfl
@[simp] theorem State.updChan_hold (n : Nat) (f : Chan → Chan) : (s.updChan n f).hold = s.hold := rfl
@[simp] theorem State.updChan_ports (n : Nat) (f : Chan → Chan) : (s.updChan n f).ports = s.ports := rfl
@[simp] theorem State.updChan_fabs (n : Nat) (f : Chan → Chan) : (s.updChan n f).fabs = s.fabs := rfl
@[simp] theorem State.updChan_inbs (n : Nat) (f : Chan → Chan) : (s.updChan n f).inbs = s.inbs := rfl
@[simp] theorem State.updChan_nextInb (n : Nat) (f : Chan → Chan) : (s.updChan n f).nextInb = s.nextInb := rfl
@[simp] theorem State.updChan_pollAt (n : Nat) (f : Chan → Chan) : (s.updChan n f).pollAt = s.pollAt := rfl
@[simp] theorem State.updChan_cc (n : Nat) (f : Chan → Chan) : (s.updChan n f).cc = s.cc := rfl
@[simp] theorem State.updChan_walks (n : Nat) (f : Chan → Chan) : (s.updChan n f).walks = s.walks := rfl
@[simp] theorem State.updChan_walked (n : Nat) (f : Chan → Chan) : (s.updChan n f).walked = s.walked := rfl
@[simp] theorem State.updChan_logc (n : Nat) (f : Chan → Chan) : (s.updChan n f).logc = s.logc := rfl

@[simp] theorem State.updQueue_pending (g : Nat) (f : Queue → Queue) : (s.updQueue g f).pending = s.pending := by unfold State.updQueue; split <;> rfl
@[simp] theorem State.updQueue_now (g : Nat) (f : Queue → Queue) : (s.updQueue g f).now = s.now := by unfold State.updQueue; split <;> rfl
@[simp] theorem State.updQueue_age (g : Nat) (f : Queue → Queue) : (s.updQueue g f).age = s.age := by unfold State.updQueue; split <;> rfl
@[simp] theorem State.updQueue_clk (g : Nat) (f : Queue → Queue) : (s.updQueue g f).clk = s.clk := by unfold State.updQueue; split <;> rfl
@[simp] theorem State.updQueue_pwr (g : Nat) (f : Queue → Queue) : (s.updQueue g f).pwr = s.pwr := by unfold State.updQueue; split <;> rfl
@[simp] theorem State.updQueue_glb (g : Nat) (f : Queue → Queue) : (s.updQueue g f).glb = s.glb := by unfold State.updQueue; split <;> rfl
@[simp] theorem State.updQueue_bell (g : Nat) (f : Queue → Queue) : (s.updQueue g f).bell = s.bell := by unfold State.updQueue; split <;> rfl
@[simp] theorem State.updQueue_gls (g : Nat) (f : Queue → Queue) : (s.updQueue g f).gls = s.gls := by unfold State.updQueue; split <;> rfl
@[simp] theorem State.updQueue_tmr (g : Nat) (f : Queue → Queue) : (s.updQueue g f).tmr = s.tmr := by unfold State.updQueue; split <;> rfl
@[simp] theorem State.updQueue_flt (g : Nat) (f : Queue → Queue) : (s.updQueue g f).flt = s.flt := by unfold State.updQueue; split <;> rfl
@[simp] theorem State.updQueue_droop (g : Nat) (f : Queue → Queue) : (s.updQueue g f).droop = s.droop := by unfold State.updQueue; split <;> rfl
@[simp] theorem State.updQueue_mbs (g : Nat) (f : Queue → Queue) : (s.updQueue g f).mbs = s.mbs := by unfold State.updQueue; split <;> rfl
@[simp] theorem State.updQueue_pur (g : Nat) (f : Queue → Queue) : (s.updQueue g f).pur = s.pur := by unfold State.updQueue; split <;> rfl
@[simp] theorem State.updQueue_led (g : Nat) (f : Queue → Queue) : (s.updQueue g f).led = s.led := by unfold State.updQueue; split <;> rfl
@[simp] theorem State.updQueue_insts (g : Nat) (f : Queue → Queue) : (s.updQueue g f).insts = s.insts := by unfold State.updQueue; split <;> rfl
@[simp] theorem State.updQueue_chans (g : Nat) (f : Queue → Queue) : (s.updQueue g f).chans = s.chans := by unfold State.updQueue; split <;> rfl
@[simp] theorem State.updQueue_engs (g : Nat) (f : Queue → Queue) : (s.updQueue g f).engs = s.engs := by unfold State.updQueue; split <;> rfl
@[simp] theorem State.updQueue_frags (g : Nat) (f : Queue → Queue) : (s.updQueue g f).frags = s.frags := by unfold State.updQueue; split <;> rfl
@[simp] theorem State.updQueue_nextId (g : Nat) (f : Queue → Queue) : (s.updQueue g f).nextId = s.nextId := by unfold State.updQueue; split <;> rfl
@[simp] theorem State.updQueue_hold (g : Nat) (f : Queue → Queue) : (s.updQueue g f).hold = s.hold := by unfold State.updQueue; split <;> rfl
@[simp] theorem State.updQueue_ports (g : Nat) (f : Queue → Queue) : (s.updQueue g f).ports = s.ports := by unfold State.updQueue; split <;> rfl
@[simp] theorem State.updQueue_fabs (g : Nat) (f : Queue → Queue) : (s.updQueue g f).fabs = s.fabs := by unfold State.updQueue; split <;> rfl
@[simp] theorem State.updQueue_inbs (g : Nat) (f : Queue → Queue) : (s.updQueue g f).inbs = s.inbs := by unfold State.updQueue; split <;> rfl
@[simp] theorem State.updQueue_nextInb (g : Nat) (f : Queue → Queue) : (s.updQueue g f).nextInb = s.nextInb := by unfold State.updQueue; split <;> rfl
@[simp] theorem State.updQueue_pollAt (g : Nat) (f : Queue → Queue) : (s.updQueue g f).pollAt = s.pollAt := by unfold State.updQueue; split <;> rfl
@[simp] theorem State.updQueue_cc (g : Nat) (f : Queue → Queue) : (s.updQueue g f).cc = s.cc := by unfold State.updQueue; split <;> rfl
@[simp] theorem State.updQueue_walks (g : Nat) (f : Queue → Queue) : (s.updQueue g f).walks = s.walks := by unfold State.updQueue; split <;> rfl
@[simp] theorem State.updQueue_walked (g : Nat) (f : Queue → Queue) : (s.updQueue g f).walked = s.walked := by unfold State.updQueue; split <;> rfl
@[simp] theorem State.updQueue_logc (g : Nat) (f : Queue → Queue) : (s.updQueue g f).logc = s.logc := by unfold State.updQueue; split <;> rfl

@[simp] theorem State.updEntry_pending (g seq : Nat) (f : Entry → Entry) : (s.updEntry g seq f).pending = s.pending := by unfold State.updEntry; simp
@[simp] theorem State.updEntry_now (g seq : Nat) (f : Entry → Entry) : (s.updEntry g seq f).now = s.now := by unfold State.updEntry; simp
@[simp] theorem State.updEntry_age (g seq : Nat) (f : Entry → Entry) : (s.updEntry g seq f).age = s.age := by unfold State.updEntry; simp
@[simp] theorem State.updEntry_clk (g seq : Nat) (f : Entry → Entry) : (s.updEntry g seq f).clk = s.clk := by unfold State.updEntry; simp
@[simp] theorem State.updEntry_pwr (g seq : Nat) (f : Entry → Entry) : (s.updEntry g seq f).pwr = s.pwr := by unfold State.updEntry; simp
@[simp] theorem State.updEntry_glb (g seq : Nat) (f : Entry → Entry) : (s.updEntry g seq f).glb = s.glb := by unfold State.updEntry; simp
@[simp] theorem State.updEntry_bell (g seq : Nat) (f : Entry → Entry) : (s.updEntry g seq f).bell = s.bell := by unfold State.updEntry; simp
@[simp] theorem State.updEntry_gls (g seq : Nat) (f : Entry → Entry) : (s.updEntry g seq f).gls = s.gls := by unfold State.updEntry; simp
@[simp] theorem State.updEntry_tmr (g seq : Nat) (f : Entry → Entry) : (s.updEntry g seq f).tmr = s.tmr := by unfold State.updEntry; simp
@[simp] theorem State.updEntry_flt (g seq : Nat) (f : Entry → Entry) : (s.updEntry g seq f).flt = s.flt := by unfold State.updEntry; simp
@[simp] theorem State.updEntry_droop (g seq : Nat) (f : Entry → Entry) : (s.updEntry g seq f).droop = s.droop := by unfold State.updEntry; simp
@[simp] theorem State.updEntry_mbs (g seq : Nat) (f : Entry → Entry) : (s.updEntry g seq f).mbs = s.mbs := by unfold State.updEntry; simp
@[simp] theorem State.updEntry_pur (g seq : Nat) (f : Entry → Entry) : (s.updEntry g seq f).pur = s.pur := by unfold State.updEntry; simp
@[simp] theorem State.updEntry_led (g seq : Nat) (f : Entry → Entry) : (s.updEntry g seq f).led = s.led := by unfold State.updEntry; simp
@[simp] theorem State.updEntry_insts (g seq : Nat) (f : Entry → Entry) : (s.updEntry g seq f).insts = s.insts := by unfold State.updEntry; simp
@[simp] theorem State.updEntry_chans (g seq : Nat) (f : Entry → Entry) : (s.updEntry g seq f).chans = s.chans := by unfold State.updEntry; simp
@[simp] theorem State.updEntry_engs (g seq : Nat) (f : Entry → Entry) : (s.updEntry g seq f).engs = s.engs := by unfold State.updEntry; simp
@[simp] theorem State.updEntry_frags (g seq : Nat) (f : Entry → Entry) : (s.updEntry g seq f).frags = s.frags := by unfold State.updEntry; simp
@[simp] theorem State.updEntry_nextId (g seq : Nat) (f : Entry → Entry) : (s.updEntry g seq f).nextId = s.nextId := by unfold State.updEntry; simp
@[simp] theorem State.updEntry_hold (g seq : Nat) (f : Entry → Entry) : (s.updEntry g seq f).hold = s.hold := by unfold State.updEntry; simp
@[simp] theorem State.updEntry_ports (g seq : Nat) (f : Entry → Entry) : (s.updEntry g seq f).ports = s.ports := by unfold State.updEntry; simp
@[simp] theorem State.updEntry_fabs (g seq : Nat) (f : Entry → Entry) : (s.updEntry g seq f).fabs = s.fabs := by unfold State.updEntry; simp
@[simp] theorem State.updEntry_inbs (g seq : Nat) (f : Entry → Entry) : (s.updEntry g seq f).inbs = s.inbs := by unfold State.updEntry; simp
@[simp] theorem State.updEntry_nextInb (g seq : Nat) (f : Entry → Entry) : (s.updEntry g seq f).nextInb = s.nextInb := by unfold State.updEntry; simp
@[simp] theorem State.updEntry_pollAt (g seq : Nat) (f : Entry → Entry) : (s.updEntry g seq f).pollAt = s.pollAt := by unfold State.updEntry; simp
@[simp] theorem State.updEntry_cc (g seq : Nat) (f : Entry → Entry) : (s.updEntry g seq f).cc = s.cc := by unfold State.updEntry; simp
@[simp] theorem State.updEntry_walks (g seq : Nat) (f : Entry → Entry) : (s.updEntry g seq f).walks = s.walks := by unfold State.updEntry; simp
@[simp] theorem State.updEntry_walked (g seq : Nat) (f : Entry → Entry) : (s.updEntry g seq f).walked = s.walked := by unfold State.updEntry; simp
@[simp] theorem State.updEntry_logc (g seq : Nat) (f : Entry → Entry) : (s.updEntry g seq f).logc = s.logc := by unfold State.updEntry; simp

@[simp] theorem State.updEng_pending (e : Nat) (f : Eng → Eng) : (s.updEng e f).pending = s.pending := rfl
@[simp] theorem State.updEng_now (e : Nat) (f : Eng → Eng) : (s.updEng e f).now = s.now := rfl
@[simp] theorem State.updEng_age (e : Nat) (f : Eng → Eng) : (s.updEng e f).age = s.age := rfl
@[simp] theorem State.updEng_clk (e : Nat) (f : Eng → Eng) : (s.updEng e f).clk = s.clk := rfl
@[simp] theorem State.updEng_pwr (e : Nat) (f : Eng → Eng) : (s.updEng e f).pwr = s.pwr := rfl
@[simp] theorem State.updEng_glb (e : Nat) (f : Eng → Eng) : (s.updEng e f).glb = s.glb := rfl
@[simp] theorem State.updEng_bell (e : Nat) (f : Eng → Eng) : (s.updEng e f).bell = s.bell := rfl
@[simp] theorem State.updEng_gls (e : Nat) (f : Eng → Eng) : (s.updEng e f).gls = s.gls := rfl
@[simp] theorem State.updEng_tmr (e : Nat) (f : Eng → Eng) : (s.updEng e f).tmr = s.tmr := rfl
@[simp] theorem State.updEng_flt (e : Nat) (f : Eng → Eng) : (s.updEng e f).flt = s.flt := rfl
@[simp] theorem State.updEng_droop (e : Nat) (f : Eng → Eng) : (s.updEng e f).droop = s.droop := rfl
@[simp] theorem State.updEng_mbs (e : Nat) (f : Eng → Eng) : (s.updEng e f).mbs = s.mbs := rfl
@[simp] theorem State.updEng_pur (e : Nat) (f : Eng → Eng) : (s.updEng e f).pur = s.pur := rfl
@[simp] theorem State.updEng_led (e : Nat) (f : Eng → Eng) : (s.updEng e f).led = s.led := rfl
@[simp] theorem State.updEng_insts (e : Nat) (f : Eng → Eng) : (s.updEng e f).insts = s.insts := rfl
@[simp] theorem State.updEng_queues (e : Nat) (f : Eng → Eng) : (s.updEng e f).queues = s.queues := rfl
@[simp] theorem State.updEng_chans (e : Nat) (f : Eng → Eng) : (s.updEng e f).chans = s.chans := rfl
@[simp] theorem State.updEng_frags (e : Nat) (f : Eng → Eng) : (s.updEng e f).frags = s.frags := rfl
@[simp] theorem State.updEng_nextId (e : Nat) (f : Eng → Eng) : (s.updEng e f).nextId = s.nextId := rfl
@[simp] theorem State.updEng_hold (e : Nat) (f : Eng → Eng) : (s.updEng e f).hold = s.hold := rfl
@[simp] theorem State.updEng_ports (e : Nat) (f : Eng → Eng) : (s.updEng e f).ports = s.ports := rfl
@[simp] theorem State.updEng_fabs (e : Nat) (f : Eng → Eng) : (s.updEng e f).fabs = s.fabs := rfl
@[simp] theorem State.updEng_inbs (e : Nat) (f : Eng → Eng) : (s.updEng e f).inbs = s.inbs := rfl
@[simp] theorem State.updEng_nextInb (e : Nat) (f : Eng → Eng) : (s.updEng e f).nextInb = s.nextInb := rfl
@[simp] theorem State.updEng_pollAt (e : Nat) (f : Eng → Eng) : (s.updEng e f).pollAt = s.pollAt := rfl
@[simp] theorem State.updEng_cc (e : Nat) (f : Eng → Eng) : (s.updEng e f).cc = s.cc := rfl
@[simp] theorem State.updEng_walks (e : Nat) (f : Eng → Eng) : (s.updEng e f).walks = s.walks := rfl
@[simp] theorem State.updEng_walked (e : Nat) (f : Eng → Eng) : (s.updEng e f).walked = s.walked := rfl
@[simp] theorem State.updEng_logc (e : Nat) (f : Eng → Eng) : (s.updEng e f).logc = s.logc := rfl

@[simp] theorem State.updPort_pending (c : Nat) (f : MPort → MPort) : (s.updPort c f).pending = s.pending := rfl
@[simp] theorem State.updPort_now (c : Nat) (f : MPort → MPort) : (s.updPort c f).now = s.now := rfl
@[simp] theorem State.updPort_age (c : Nat) (f : MPort → MPort) : (s.updPort c f).age = s.age := rfl
@[simp] theorem State.updPort_clk (c : Nat) (f : MPort → MPort) : (s.updPort c f).clk = s.clk := rfl
@[simp] theorem State.updPort_pwr (c : Nat) (f : MPort → MPort) : (s.updPort c f).pwr = s.pwr := rfl
@[simp] theorem State.updPort_glb (c : Nat) (f : MPort → MPort) : (s.updPort c f).glb = s.glb := rfl
@[simp] theorem State.updPort_bell (c : Nat) (f : MPort → MPort) : (s.updPort c f).bell = s.bell := rfl
@[simp] theorem State.updPort_gls (c : Nat) (f : MPort → MPort) : (s.updPort c f).gls = s.gls := rfl
@[simp] theorem State.updPort_tmr (c : Nat) (f : MPort → MPort) : (s.updPort c f).tmr = s.tmr := rfl
@[simp] theorem State.updPort_flt (c : Nat) (f : MPort → MPort) : (s.updPort c f).flt = s.flt := rfl
@[simp] theorem State.updPort_droop (c : Nat) (f : MPort → MPort) : (s.updPort c f).droop = s.droop := rfl
@[simp] theorem State.updPort_mbs (c : Nat) (f : MPort → MPort) : (s.updPort c f).mbs = s.mbs := rfl
@[simp] theorem State.updPort_pur (c : Nat) (f : MPort → MPort) : (s.updPort c f).pur = s.pur := rfl
@[simp] theorem State.updPort_led (c : Nat) (f : MPort → MPort) : (s.updPort c f).led = s.led := rfl
@[simp] theorem State.updPort_insts (c : Nat) (f : MPort → MPort) : (s.updPort c f).insts = s.insts := rfl
@[simp] theorem State.updPort_queues (c : Nat) (f : MPort → MPort) : (s.updPort c f).queues = s.queues := rfl
@[simp] theorem State.updPort_chans (c : Nat) (f : MPort → MPort) : (s.updPort c f).chans = s.chans := rfl
@[simp] theorem State.updPort_engs (c : Nat) (f : MPort → MPort) : (s.updPort c f).engs = s.engs := rfl
@[simp] theorem State.updPort_frags (c : Nat) (f : MPort → MPort) : (s.updPort c f).frags = s.frags := rfl
@[simp] theorem State.updPort_nextId (c : Nat) (f : MPort → MPort) : (s.updPort c f).nextId = s.nextId := rfl
@[simp] theorem State.updPort_hold (c : Nat) (f : MPort → MPort) : (s.updPort c f).hold = s.hold := rfl
@[simp] theorem State.updPort_fabs (c : Nat) (f : MPort → MPort) : (s.updPort c f).fabs = s.fabs := rfl
@[simp] theorem State.updPort_inbs (c : Nat) (f : MPort → MPort) : (s.updPort c f).inbs = s.inbs := rfl
@[simp] theorem State.updPort_nextInb (c : Nat) (f : MPort → MPort) : (s.updPort c f).nextInb = s.nextInb := rfl
@[simp] theorem State.updPort_pollAt (c : Nat) (f : MPort → MPort) : (s.updPort c f).pollAt = s.pollAt := rfl
@[simp] theorem State.updPort_cc (c : Nat) (f : MPort → MPort) : (s.updPort c f).cc = s.cc := rfl
@[simp] theorem State.updPort_walks (c : Nat) (f : MPort → MPort) : (s.updPort c f).walks = s.walks := rfl
@[simp] theorem State.updPort_walked (c : Nat) (f : MPort → MPort) : (s.updPort c f).walked = s.walked := rfl
@[simp] theorem State.updPort_logc (c : Nat) (f : MPort → MPort) : (s.updPort c f).logc = s.logc := rfl

@[simp] theorem State.updFab_pending (p : Nat) (f : FPort → FPort) : (s.updFab p f).pending = s.pending := rfl
@[simp] theorem State.updFab_now (p : Nat) (f : FPort → FPort) : (s.updFab p f).now = s.now := rfl
@[simp] theorem State.updFab_age (p : Nat) (f : FPort → FPort) : (s.updFab p f).age = s.age := rfl
@[simp] theorem State.updFab_clk (p : Nat) (f : FPort → FPort) : (s.updFab p f).clk = s.clk := rfl
@[simp] theorem State.updFab_pwr (p : Nat) (f : FPort → FPort) : (s.updFab p f).pwr = s.pwr := rfl
@[simp] theorem State.updFab_glb (p : Nat) (f : FPort → FPort) : (s.updFab p f).glb = s.glb := rfl
@[simp] theorem State.updFab_bell (p : Nat) (f : FPort → FPort) : (s.updFab p f).bell = s.bell := rfl
@[simp] theorem State.updFab_gls (p : Nat) (f : FPort → FPort) : (s.updFab p f).gls = s.gls := rfl
@[simp] theorem State.updFab_tmr (p : Nat) (f : FPort → FPort) : (s.updFab p f).tmr = s.tmr := rfl
@[simp] theorem State.updFab_flt (p : Nat) (f : FPort → FPort) : (s.updFab p f).flt = s.flt := rfl
@[simp] theorem State.updFab_droop (p : Nat) (f : FPort → FPort) : (s.updFab p f).droop = s.droop := rfl
@[simp] theorem State.updFab_mbs (p : Nat) (f : FPort → FPort) : (s.updFab p f).mbs = s.mbs := rfl
@[simp] theorem State.updFab_pur (p : Nat) (f : FPort → FPort) : (s.updFab p f).pur = s.pur := rfl
@[simp] theorem State.updFab_led (p : Nat) (f : FPort → FPort) : (s.updFab p f).led = s.led := rfl
@[simp] theorem State.updFab_insts (p : Nat) (f : FPort → FPort) : (s.updFab p f).insts = s.insts := rfl
@[simp] theorem State.updFab_queues (p : Nat) (f : FPort → FPort) : (s.updFab p f).queues = s.queues := rfl
@[simp] theorem State.updFab_chans (p : Nat) (f : FPort → FPort) : (s.updFab p f).chans = s.chans := rfl
@[simp] theorem State.updFab_engs (p : Nat) (f : FPort → FPort) : (s.updFab p f).engs = s.engs := rfl
@[simp] theorem State.updFab_frags (p : Nat) (f : FPort → FPort) : (s.updFab p f).frags = s.frags := rfl
@[simp] theorem State.updFab_nextId (p : Nat) (f : FPort → FPort) : (s.updFab p f).nextId = s.nextId := rfl
@[simp] theorem State.updFab_hold (p : Nat) (f : FPort → FPort) : (s.updFab p f).hold = s.hold := rfl
@[simp] theorem State.updFab_ports (p : Nat) (f : FPort → FPort) : (s.updFab p f).ports = s.ports := rfl
@[simp] theorem State.updFab_inbs (p : Nat) (f : FPort → FPort) : (s.updFab p f).inbs = s.inbs := rfl
@[simp] theorem State.updFab_nextInb (p : Nat) (f : FPort → FPort) : (s.updFab p f).nextInb = s.nextInb := rfl
@[simp] theorem State.updFab_pollAt (p : Nat) (f : FPort → FPort) : (s.updFab p f).pollAt = s.pollAt := rfl
@[simp] theorem State.updFab_cc (p : Nat) (f : FPort → FPort) : (s.updFab p f).cc = s.cc := rfl
@[simp] theorem State.updFab_walks (p : Nat) (f : FPort → FPort) : (s.updFab p f).walks = s.walks := rfl
@[simp] theorem State.updFab_walked (p : Nat) (f : FPort → FPort) : (s.updFab p f).walked = s.walked := rfl
@[simp] theorem State.updFab_logc (p : Nat) (f : FPort → FPort) : (s.updFab p f).logc = s.logc := rfl

@[simp] theorem State.updMb_pending (m : Nat) (f : Mbox → Mbox) : (s.updMb m f).pending = s.pending := rfl
@[simp] theorem State.updMb_now (m : Nat) (f : Mbox → Mbox) : (s.updMb m f).now = s.now := rfl
@[simp] theorem State.updMb_age (m : Nat) (f : Mbox → Mbox) : (s.updMb m f).age = s.age := rfl
@[simp] theorem State.updMb_clk (m : Nat) (f : Mbox → Mbox) : (s.updMb m f).clk = s.clk := rfl
@[simp] theorem State.updMb_pwr (m : Nat) (f : Mbox → Mbox) : (s.updMb m f).pwr = s.pwr := rfl
@[simp] theorem State.updMb_glb (m : Nat) (f : Mbox → Mbox) : (s.updMb m f).glb = s.glb := rfl
@[simp] theorem State.updMb_bell (m : Nat) (f : Mbox → Mbox) : (s.updMb m f).bell = s.bell := rfl
@[simp] theorem State.updMb_gls (m : Nat) (f : Mbox → Mbox) : (s.updMb m f).gls = s.gls := rfl
@[simp] theorem State.updMb_tmr (m : Nat) (f : Mbox → Mbox) : (s.updMb m f).tmr = s.tmr := rfl
@[simp] theorem State.updMb_flt (m : Nat) (f : Mbox → Mbox) : (s.updMb m f).flt = s.flt := rfl
@[simp] theorem State.updMb_droop (m : Nat) (f : Mbox → Mbox) : (s.updMb m f).droop = s.droop := rfl
@[simp] theorem State.updMb_pur (m : Nat) (f : Mbox → Mbox) : (s.updMb m f).pur = s.pur := rfl
@[simp] theorem State.updMb_led (m : Nat) (f : Mbox → Mbox) : (s.updMb m f).led = s.led := rfl
@[simp] theorem State.updMb_insts (m : Nat) (f : Mbox → Mbox) : (s.updMb m f).insts = s.insts := rfl
@[simp] theorem State.updMb_queues (m : Nat) (f : Mbox → Mbox) : (s.updMb m f).queues = s.queues := rfl
@[simp] theorem State.updMb_chans (m : Nat) (f : Mbox → Mbox) : (s.updMb m f).chans = s.chans := rfl
@[simp] theorem State.updMb_engs (m : Nat) (f : Mbox → Mbox) : (s.updMb m f).engs = s.engs := rfl
@[simp] theorem State.updMb_frags (m : Nat) (f : Mbox → Mbox) : (s.updMb m f).frags = s.frags := rfl
@[simp] theorem State.updMb_nextId (m : Nat) (f : Mbox → Mbox) : (s.updMb m f).nextId = s.nextId := rfl
@[simp] theorem State.updMb_hold (m : Nat) (f : Mbox → Mbox) : (s.updMb m f).hold = s.hold := rfl
@[simp] theorem State.updMb_ports (m : Nat) (f : Mbox → Mbox) : (s.updMb m f).ports = s.ports := rfl
@[simp] theorem State.updMb_fabs (m : Nat) (f : Mbox → Mbox) : (s.updMb m f).fabs = s.fabs := rfl
@[simp] theorem State.updMb_inbs (m : Nat) (f : Mbox → Mbox) : (s.updMb m f).inbs = s.inbs := rfl
@[simp] theorem State.updMb_nextInb (m : Nat) (f : Mbox → Mbox) : (s.updMb m f).nextInb = s.nextInb := rfl
@[simp] theorem State.updMb_pollAt (m : Nat) (f : Mbox → Mbox) : (s.updMb m f).pollAt = s.pollAt := rfl
@[simp] theorem State.updMb_cc (m : Nat) (f : Mbox → Mbox) : (s.updMb m f).cc = s.cc := rfl
@[simp] theorem State.updMb_walks (m : Nat) (f : Mbox → Mbox) : (s.updMb m f).walks = s.walks := rfl
@[simp] theorem State.updMb_walked (m : Nat) (f : Mbox → Mbox) : (s.updMb m f).walked = s.walked := rfl
@[simp] theorem State.updMb_logc (m : Nat) (f : Mbox → Mbox) : (s.updMb m f).logc = s.logc := rfl

@[simp] theorem State.updCounter_pending (n : Nat) (f : Tmr → Tmr) : (s.updCounter n f).pending = s.pending := rfl
@[simp] theorem State.updCounter_now (n : Nat) (f : Tmr → Tmr) : (s.updCounter n f).now = s.now := rfl
@[simp] theorem State.updCounter_age (n : Nat) (f : Tmr → Tmr) : (s.updCounter n f).age = s.age := rfl
@[simp] theorem State.updCounter_clk (n : Nat) (f : Tmr → Tmr) : (s.updCounter n f).clk = s.clk := rfl
@[simp] theorem State.updCounter_pwr (n : Nat) (f : Tmr → Tmr) : (s.updCounter n f).pwr = s.pwr := rfl
@[simp] theorem State.updCounter_glb (n : Nat) (f : Tmr → Tmr) : (s.updCounter n f).glb = s.glb := rfl
@[simp] theorem State.updCounter_bell (n : Nat) (f : Tmr → Tmr) : (s.updCounter n f).bell = s.bell := rfl
@[simp] theorem State.updCounter_gls (n : Nat) (f : Tmr → Tmr) : (s.updCounter n f).gls = s.gls := rfl
@[simp] theorem State.updCounter_flt (n : Nat) (f : Tmr → Tmr) : (s.updCounter n f).flt = s.flt := rfl
@[simp] theorem State.updCounter_droop (n : Nat) (f : Tmr → Tmr) : (s.updCounter n f).droop = s.droop := rfl
@[simp] theorem State.updCounter_mbs (n : Nat) (f : Tmr → Tmr) : (s.updCounter n f).mbs = s.mbs := rfl
@[simp] theorem State.updCounter_pur (n : Nat) (f : Tmr → Tmr) : (s.updCounter n f).pur = s.pur := rfl
@[simp] theorem State.updCounter_led (n : Nat) (f : Tmr → Tmr) : (s.updCounter n f).led = s.led := rfl
@[simp] theorem State.updCounter_insts (n : Nat) (f : Tmr → Tmr) : (s.updCounter n f).insts = s.insts := rfl
@[simp] theorem State.updCounter_queues (n : Nat) (f : Tmr → Tmr) : (s.updCounter n f).queues = s.queues := rfl
@[simp] theorem State.updCounter_chans (n : Nat) (f : Tmr → Tmr) : (s.updCounter n f).chans = s.chans := rfl
@[simp] theorem State.updCounter_engs (n : Nat) (f : Tmr → Tmr) : (s.updCounter n f).engs = s.engs := rfl
@[simp] theorem State.updCounter_frags (n : Nat) (f : Tmr → Tmr) : (s.updCounter n f).frags = s.frags := rfl
@[simp] theorem State.updCounter_nextId (n : Nat) (f : Tmr → Tmr) : (s.updCounter n f).nextId = s.nextId := rfl
@[simp] theorem State.updCounter_hold (n : Nat) (f : Tmr → Tmr) : (s.updCounter n f).hold = s.hold := rfl
@[simp] theorem State.updCounter_ports (n : Nat) (f : Tmr → Tmr) : (s.updCounter n f).ports = s.ports := rfl
@[simp] theorem State.updCounter_fabs (n : Nat) (f : Tmr → Tmr) : (s.updCounter n f).fabs = s.fabs := rfl
@[simp] theorem State.updCounter_inbs (n : Nat) (f : Tmr → Tmr) : (s.updCounter n f).inbs = s.inbs := rfl
@[simp] theorem State.updCounter_nextInb (n : Nat) (f : Tmr → Tmr) : (s.updCounter n f).nextInb = s.nextInb := rfl
@[simp] theorem State.updCounter_pollAt (n : Nat) (f : Tmr → Tmr) : (s.updCounter n f).pollAt = s.pollAt := rfl
@[simp] theorem State.updCounter_cc (n : Nat) (f : Tmr → Tmr) : (s.updCounter n f).cc = s.cc := rfl
@[simp] theorem State.updCounter_walks (n : Nat) (f : Tmr → Tmr) : (s.updCounter n f).walks = s.walks := rfl
@[simp] theorem State.updCounter_walked (n : Nat) (f : Tmr → Tmr) : (s.updCounter n f).walked = s.walked := rfl
@[simp] theorem State.updCounter_logc (n : Nat) (f : Tmr → Tmr) : (s.updCounter n f).logc = s.logc := rfl

@[simp] theorem State.updCapture_pending (i : Nat) (f : Cap → Cap) : (s.updCapture i f).pending = s.pending := rfl
@[simp] theorem State.updCapture_now (i : Nat) (f : Cap → Cap) : (s.updCapture i f).now = s.now := rfl
@[simp] theorem State.updCapture_age (i : Nat) (f : Cap → Cap) : (s.updCapture i f).age = s.age := rfl
@[simp] theorem State.updCapture_clk (i : Nat) (f : Cap → Cap) : (s.updCapture i f).clk = s.clk := rfl
@[simp] theorem State.updCapture_pwr (i : Nat) (f : Cap → Cap) : (s.updCapture i f).pwr = s.pwr := rfl
@[simp] theorem State.updCapture_glb (i : Nat) (f : Cap → Cap) : (s.updCapture i f).glb = s.glb := rfl
@[simp] theorem State.updCapture_bell (i : Nat) (f : Cap → Cap) : (s.updCapture i f).bell = s.bell := rfl
@[simp] theorem State.updCapture_gls (i : Nat) (f : Cap → Cap) : (s.updCapture i f).gls = s.gls := rfl
@[simp] theorem State.updCapture_flt (i : Nat) (f : Cap → Cap) : (s.updCapture i f).flt = s.flt := rfl
@[simp] theorem State.updCapture_droop (i : Nat) (f : Cap → Cap) : (s.updCapture i f).droop = s.droop := rfl
@[simp] theorem State.updCapture_mbs (i : Nat) (f : Cap → Cap) : (s.updCapture i f).mbs = s.mbs := rfl
@[simp] theorem State.updCapture_pur (i : Nat) (f : Cap → Cap) : (s.updCapture i f).pur = s.pur := rfl
@[simp] theorem State.updCapture_led (i : Nat) (f : Cap → Cap) : (s.updCapture i f).led = s.led := rfl
@[simp] theorem State.updCapture_insts (i : Nat) (f : Cap → Cap) : (s.updCapture i f).insts = s.insts := rfl
@[simp] theorem State.updCapture_queues (i : Nat) (f : Cap → Cap) : (s.updCapture i f).queues = s.queues := rfl
@[simp] theorem State.updCapture_chans (i : Nat) (f : Cap → Cap) : (s.updCapture i f).chans = s.chans := rfl
@[simp] theorem State.updCapture_engs (i : Nat) (f : Cap → Cap) : (s.updCapture i f).engs = s.engs := rfl
@[simp] theorem State.updCapture_frags (i : Nat) (f : Cap → Cap) : (s.updCapture i f).frags = s.frags := rfl
@[simp] theorem State.updCapture_nextId (i : Nat) (f : Cap → Cap) : (s.updCapture i f).nextId = s.nextId := rfl
@[simp] theorem State.updCapture_hold (i : Nat) (f : Cap → Cap) : (s.updCapture i f).hold = s.hold := rfl
@[simp] theorem State.updCapture_ports (i : Nat) (f : Cap → Cap) : (s.updCapture i f).ports = s.ports := rfl
@[simp] theorem State.updCapture_fabs (i : Nat) (f : Cap → Cap) : (s.updCapture i f).fabs = s.fabs := rfl
@[simp] theorem State.updCapture_inbs (i : Nat) (f : Cap → Cap) : (s.updCapture i f).inbs = s.inbs := rfl
@[simp] theorem State.updCapture_nextInb (i : Nat) (f : Cap → Cap) : (s.updCapture i f).nextInb = s.nextInb := rfl
@[simp] theorem State.updCapture_pollAt (i : Nat) (f : Cap → Cap) : (s.updCapture i f).pollAt = s.pollAt := rfl
@[simp] theorem State.updCapture_cc (i : Nat) (f : Cap → Cap) : (s.updCapture i f).cc = s.cc := rfl
@[simp] theorem State.updCapture_walks (i : Nat) (f : Cap → Cap) : (s.updCapture i f).walks = s.walks := rfl
@[simp] theorem State.updCapture_walked (i : Nat) (f : Cap → Cap) : (s.updCapture i f).walked = s.walked := rfl
@[simp] theorem State.updCapture_logc (i : Nat) (f : Cap → Cap) : (s.updCapture i f).logc = s.logc := rfl

@[simp] theorem State.updAcc_pending (c : Nat) (f : PortAcc → PortAcc) : (s.updAcc c f).pending = s.pending := rfl
@[simp] theorem State.updAcc_now (c : Nat) (f : PortAcc → PortAcc) : (s.updAcc c f).now = s.now := rfl
@[simp] theorem State.updAcc_age (c : Nat) (f : PortAcc → PortAcc) : (s.updAcc c f).age = s.age := rfl
@[simp] theorem State.updAcc_clk (c : Nat) (f : PortAcc → PortAcc) : (s.updAcc c f).clk = s.clk := rfl
@[simp] theorem State.updAcc_pwr (c : Nat) (f : PortAcc → PortAcc) : (s.updAcc c f).pwr = s.pwr := rfl
@[simp] theorem State.updAcc_glb (c : Nat) (f : PortAcc → PortAcc) : (s.updAcc c f).glb = s.glb := rfl
@[simp] theorem State.updAcc_bell (c : Nat) (f : PortAcc → PortAcc) : (s.updAcc c f).bell = s.bell := rfl
@[simp] theorem State.updAcc_tmr (c : Nat) (f : PortAcc → PortAcc) : (s.updAcc c f).tmr = s.tmr := rfl
@[simp] theorem State.updAcc_flt (c : Nat) (f : PortAcc → PortAcc) : (s.updAcc c f).flt = s.flt := rfl
@[simp] theorem State.updAcc_droop (c : Nat) (f : PortAcc → PortAcc) : (s.updAcc c f).droop = s.droop := rfl
@[simp] theorem State.updAcc_mbs (c : Nat) (f : PortAcc → PortAcc) : (s.updAcc c f).mbs = s.mbs := rfl
@[simp] theorem State.updAcc_pur (c : Nat) (f : PortAcc → PortAcc) : (s.updAcc c f).pur = s.pur := rfl
@[simp] theorem State.updAcc_led (c : Nat) (f : PortAcc → PortAcc) : (s.updAcc c f).led = s.led := rfl
@[simp] theorem State.updAcc_insts (c : Nat) (f : PortAcc → PortAcc) : (s.updAcc c f).insts = s.insts := rfl
@[simp] theorem State.updAcc_queues (c : Nat) (f : PortAcc → PortAcc) : (s.updAcc c f).queues = s.queues := rfl
@[simp] theorem State.updAcc_chans (c : Nat) (f : PortAcc → PortAcc) : (s.updAcc c f).chans = s.chans := rfl
@[simp] theorem State.updAcc_engs (c : Nat) (f : PortAcc → PortAcc) : (s.updAcc c f).engs = s.engs := rfl
@[simp] theorem State.updAcc_frags (c : Nat) (f : PortAcc → PortAcc) : (s.updAcc c f).frags = s.frags := rfl
@[simp] theorem State.updAcc_nextId (c : Nat) (f : PortAcc → PortAcc) : (s.updAcc c f).nextId = s.nextId := rfl
@[simp] theorem State.updAcc_hold (c : Nat) (f : PortAcc → PortAcc) : (s.updAcc c f).hold = s.hold := rfl
@[simp] theorem State.updAcc_ports (c : Nat) (f : PortAcc → PortAcc) : (s.updAcc c f).ports = s.ports := rfl
@[simp] theorem State.updAcc_fabs (c : Nat) (f : PortAcc → PortAcc) : (s.updAcc c f).fabs = s.fabs := rfl
@[simp] theorem State.updAcc_inbs (c : Nat) (f : PortAcc → PortAcc) : (s.updAcc c f).inbs = s.inbs := rfl
@[simp] theorem State.updAcc_nextInb (c : Nat) (f : PortAcc → PortAcc) : (s.updAcc c f).nextInb = s.nextInb := rfl
@[simp] theorem State.updAcc_pollAt (c : Nat) (f : PortAcc → PortAcc) : (s.updAcc c f).pollAt = s.pollAt := rfl
@[simp] theorem State.updAcc_cc (c : Nat) (f : PortAcc → PortAcc) : (s.updAcc c f).cc = s.cc := rfl
@[simp] theorem State.updAcc_walks (c : Nat) (f : PortAcc → PortAcc) : (s.updAcc c f).walks = s.walks := rfl
@[simp] theorem State.updAcc_walked (c : Nat) (f : PortAcc → PortAcc) : (s.updAcc c f).walked = s.walked := rfl
@[simp] theorem State.updAcc_logc (c : Nat) (f : PortAcc → PortAcc) : (s.updAcc c f).logc = s.logc := rfl

@[simp] theorem State.updFabAcc_pending (p : Nat) (f : FabAcc → FabAcc) : (s.updFabAcc p f).pending = s.pending := rfl
@[simp] theorem State.updFabAcc_now (p : Nat) (f : FabAcc → FabAcc) : (s.updFabAcc p f).now = s.now := rfl
@[simp] theorem State.updFabAcc_age (p : Nat) (f : FabAcc → FabAcc) : (s.updFabAcc p f).age = s.age := rfl
@[simp] theorem State.updFabAcc_clk (p : Nat) (f : FabAcc → FabAcc) : (s.updFabAcc p f).clk = s.clk := rfl
@[simp] theorem State.updFabAcc_pwr (p : Nat) (f : FabAcc → FabAcc) : (s.updFabAcc p f).pwr = s.pwr := rfl
@[simp] theorem State.updFabAcc_glb (p : Nat) (f : FabAcc → FabAcc) : (s.updFabAcc p f).glb = s.glb := rfl
@[simp] theorem State.updFabAcc_bell (p : Nat) (f : FabAcc → FabAcc) : (s.updFabAcc p f).bell = s.bell := rfl
@[simp] theorem State.updFabAcc_tmr (p : Nat) (f : FabAcc → FabAcc) : (s.updFabAcc p f).tmr = s.tmr := rfl
@[simp] theorem State.updFabAcc_flt (p : Nat) (f : FabAcc → FabAcc) : (s.updFabAcc p f).flt = s.flt := rfl
@[simp] theorem State.updFabAcc_droop (p : Nat) (f : FabAcc → FabAcc) : (s.updFabAcc p f).droop = s.droop := rfl
@[simp] theorem State.updFabAcc_mbs (p : Nat) (f : FabAcc → FabAcc) : (s.updFabAcc p f).mbs = s.mbs := rfl
@[simp] theorem State.updFabAcc_pur (p : Nat) (f : FabAcc → FabAcc) : (s.updFabAcc p f).pur = s.pur := rfl
@[simp] theorem State.updFabAcc_led (p : Nat) (f : FabAcc → FabAcc) : (s.updFabAcc p f).led = s.led := rfl
@[simp] theorem State.updFabAcc_insts (p : Nat) (f : FabAcc → FabAcc) : (s.updFabAcc p f).insts = s.insts := rfl
@[simp] theorem State.updFabAcc_queues (p : Nat) (f : FabAcc → FabAcc) : (s.updFabAcc p f).queues = s.queues := rfl
@[simp] theorem State.updFabAcc_chans (p : Nat) (f : FabAcc → FabAcc) : (s.updFabAcc p f).chans = s.chans := rfl
@[simp] theorem State.updFabAcc_engs (p : Nat) (f : FabAcc → FabAcc) : (s.updFabAcc p f).engs = s.engs := rfl
@[simp] theorem State.updFabAcc_frags (p : Nat) (f : FabAcc → FabAcc) : (s.updFabAcc p f).frags = s.frags := rfl
@[simp] theorem State.updFabAcc_nextId (p : Nat) (f : FabAcc → FabAcc) : (s.updFabAcc p f).nextId = s.nextId := rfl
@[simp] theorem State.updFabAcc_hold (p : Nat) (f : FabAcc → FabAcc) : (s.updFabAcc p f).hold = s.hold := rfl
@[simp] theorem State.updFabAcc_ports (p : Nat) (f : FabAcc → FabAcc) : (s.updFabAcc p f).ports = s.ports := rfl
@[simp] theorem State.updFabAcc_fabs (p : Nat) (f : FabAcc → FabAcc) : (s.updFabAcc p f).fabs = s.fabs := rfl
@[simp] theorem State.updFabAcc_inbs (p : Nat) (f : FabAcc → FabAcc) : (s.updFabAcc p f).inbs = s.inbs := rfl
@[simp] theorem State.updFabAcc_nextInb (p : Nat) (f : FabAcc → FabAcc) : (s.updFabAcc p f).nextInb = s.nextInb := rfl
@[simp] theorem State.updFabAcc_pollAt (p : Nat) (f : FabAcc → FabAcc) : (s.updFabAcc p f).pollAt = s.pollAt := rfl
@[simp] theorem State.updFabAcc_cc (p : Nat) (f : FabAcc → FabAcc) : (s.updFabAcc p f).cc = s.cc := rfl
@[simp] theorem State.updFabAcc_walks (p : Nat) (f : FabAcc → FabAcc) : (s.updFabAcc p f).walks = s.walks := rfl
@[simp] theorem State.updFabAcc_walked (p : Nat) (f : FabAcc → FabAcc) : (s.updFabAcc p f).walked = s.walked := rfl
@[simp] theorem State.updFabAcc_logc (p : Nat) (f : FabAcc → FabAcc) : (s.updFabAcc p f).logc = s.logc := rfl

@[simp] theorem State.updFrag_pending (id : Nat) (f : Frag → Frag) : (s.updFrag id f).pending = s.pending := rfl
@[simp] theorem State.updFrag_now (id : Nat) (f : Frag → Frag) : (s.updFrag id f).now = s.now := rfl
@[simp] theorem State.updFrag_age (id : Nat) (f : Frag → Frag) : (s.updFrag id f).age = s.age := rfl
@[simp] theorem State.updFrag_clk (id : Nat) (f : Frag → Frag) : (s.updFrag id f).clk = s.clk := rfl
@[simp] theorem State.updFrag_pwr (id : Nat) (f : Frag → Frag) : (s.updFrag id f).pwr = s.pwr := rfl
@[simp] theorem State.updFrag_glb (id : Nat) (f : Frag → Frag) : (s.updFrag id f).glb = s.glb := rfl
@[simp] theorem State.updFrag_bell (id : Nat) (f : Frag → Frag) : (s.updFrag id f).bell = s.bell := rfl
@[simp] theorem State.updFrag_gls (id : Nat) (f : Frag → Frag) : (s.updFrag id f).gls = s.gls := rfl
@[simp] theorem State.updFrag_tmr (id : Nat) (f : Frag → Frag) : (s.updFrag id f).tmr = s.tmr := rfl
@[simp] theorem State.updFrag_flt (id : Nat) (f : Frag → Frag) : (s.updFrag id f).flt = s.flt := rfl
@[simp] theorem State.updFrag_droop (id : Nat) (f : Frag → Frag) : (s.updFrag id f).droop = s.droop := rfl
@[simp] theorem State.updFrag_mbs (id : Nat) (f : Frag → Frag) : (s.updFrag id f).mbs = s.mbs := rfl
@[simp] theorem State.updFrag_pur (id : Nat) (f : Frag → Frag) : (s.updFrag id f).pur = s.pur := rfl
@[simp] theorem State.updFrag_led (id : Nat) (f : Frag → Frag) : (s.updFrag id f).led = s.led := rfl
@[simp] theorem State.updFrag_insts (id : Nat) (f : Frag → Frag) : (s.updFrag id f).insts = s.insts := rfl
@[simp] theorem State.updFrag_queues (id : Nat) (f : Frag → Frag) : (s.updFrag id f).queues = s.queues := rfl
@[simp] theorem State.updFrag_chans (id : Nat) (f : Frag → Frag) : (s.updFrag id f).chans = s.chans := rfl
@[simp] theorem State.updFrag_engs (id : Nat) (f : Frag → Frag) : (s.updFrag id f).engs = s.engs := rfl
@[simp] theorem State.updFrag_nextId (id : Nat) (f : Frag → Frag) : (s.updFrag id f).nextId = s.nextId := rfl
@[simp] theorem State.updFrag_hold (id : Nat) (f : Frag → Frag) : (s.updFrag id f).hold = s.hold := rfl
@[simp] theorem State.updFrag_ports (id : Nat) (f : Frag → Frag) : (s.updFrag id f).ports = s.ports := rfl
@[simp] theorem State.updFrag_fabs (id : Nat) (f : Frag → Frag) : (s.updFrag id f).fabs = s.fabs := rfl
@[simp] theorem State.updFrag_inbs (id : Nat) (f : Frag → Frag) : (s.updFrag id f).inbs = s.inbs := rfl
@[simp] theorem State.updFrag_nextInb (id : Nat) (f : Frag → Frag) : (s.updFrag id f).nextInb = s.nextInb := rfl
@[simp] theorem State.updFrag_pollAt (id : Nat) (f : Frag → Frag) : (s.updFrag id f).pollAt = s.pollAt := rfl
@[simp] theorem State.updFrag_cc (id : Nat) (f : Frag → Frag) : (s.updFrag id f).cc = s.cc := rfl
@[simp] theorem State.updFrag_walks (id : Nat) (f : Frag → Frag) : (s.updFrag id f).walks = s.walks := rfl
@[simp] theorem State.updFrag_walked (id : Nat) (f : Frag → Frag) : (s.updFrag id f).walked = s.walked := rfl
@[simp] theorem State.updFrag_logc (id : Nat) (f : Frag → Frag) : (s.updFrag id f).logc = s.logc := rfl

@[simp] theorem State.dropFrag_pending (id : Nat) : (s.dropFrag id).pending = s.pending := rfl
@[simp] theorem State.dropFrag_now (id : Nat) : (s.dropFrag id).now = s.now := rfl
@[simp] theorem State.dropFrag_age (id : Nat) : (s.dropFrag id).age = s.age := rfl
@[simp] theorem State.dropFrag_clk (id : Nat) : (s.dropFrag id).clk = s.clk := rfl
@[simp] theorem State.dropFrag_pwr (id : Nat) : (s.dropFrag id).pwr = s.pwr := rfl
@[simp] theorem State.dropFrag_glb (id : Nat) : (s.dropFrag id).glb = s.glb := rfl
@[simp] theorem State.dropFrag_bell (id : Nat) : (s.dropFrag id).bell = s.bell := rfl
@[simp] theorem State.dropFrag_gls (id : Nat) : (s.dropFrag id).gls = s.gls := rfl
@[simp] theorem State.dropFrag_tmr (id : Nat) : (s.dropFrag id).tmr = s.tmr := rfl
@[simp] theorem State.dropFrag_flt (id : Nat) : (s.dropFrag id).flt = s.flt := rfl
@[simp] theorem State.dropFrag_droop (id : Nat) : (s.dropFrag id).droop = s.droop := rfl
@[simp] theorem State.dropFrag_mbs (id : Nat) : (s.dropFrag id).mbs = s.mbs := rfl
@[simp] theorem State.dropFrag_pur (id : Nat) : (s.dropFrag id).pur = s.pur := rfl
@[simp] theorem State.dropFrag_led (id : Nat) : (s.dropFrag id).led = s.led := rfl
@[simp] theorem State.dropFrag_insts (id : Nat) : (s.dropFrag id).insts = s.insts := rfl
@[simp] theorem State.dropFrag_queues (id : Nat) : (s.dropFrag id).queues = s.queues := rfl
@[simp] theorem State.dropFrag_chans (id : Nat) : (s.dropFrag id).chans = s.chans := rfl
@[simp] theorem State.dropFrag_engs (id : Nat) : (s.dropFrag id).engs = s.engs := rfl
@[simp] theorem State.dropFrag_nextId (id : Nat) : (s.dropFrag id).nextId = s.nextId := rfl
@[simp] theorem State.dropFrag_hold (id : Nat) : (s.dropFrag id).hold = s.hold := rfl
@[simp] theorem State.dropFrag_ports (id : Nat) : (s.dropFrag id).ports = s.ports := rfl
@[simp] theorem State.dropFrag_fabs (id : Nat) : (s.dropFrag id).fabs = s.fabs := rfl
@[simp] theorem State.dropFrag_inbs (id : Nat) : (s.dropFrag id).inbs = s.inbs := rfl
@[simp] theorem State.dropFrag_nextInb (id : Nat) : (s.dropFrag id).nextInb = s.nextInb := rfl
@[simp] theorem State.dropFrag_pollAt (id : Nat) : (s.dropFrag id).pollAt = s.pollAt := rfl
@[simp] theorem State.dropFrag_cc (id : Nat) : (s.dropFrag id).cc = s.cc := rfl
@[simp] theorem State.dropFrag_walks (id : Nat) : (s.dropFrag id).walks = s.walks := rfl
@[simp] theorem State.dropFrag_walked (id : Nat) : (s.dropFrag id).walked = s.walked := rfl
@[simp] theorem State.dropFrag_logc (id : Nat) : (s.dropFrag id).logc = s.logc := rfl

@[simp] theorem State.updSrc_pending (k : Nat) (f : Src → Src) : (s.updSrc k f).pending = s.pending := rfl
@[simp] theorem State.updSrc_now (k : Nat) (f : Src → Src) : (s.updSrc k f).now = s.now := rfl
@[simp] theorem State.updSrc_age (k : Nat) (f : Src → Src) : (s.updSrc k f).age = s.age := rfl
@[simp] theorem State.updSrc_clk (k : Nat) (f : Src → Src) : (s.updSrc k f).clk = s.clk := rfl
@[simp] theorem State.updSrc_pwr (k : Nat) (f : Src → Src) : (s.updSrc k f).pwr = s.pwr := rfl
@[simp] theorem State.updSrc_glb (k : Nat) (f : Src → Src) : (s.updSrc k f).glb = s.glb := rfl
@[simp] theorem State.updSrc_bell (k : Nat) (f : Src → Src) : (s.updSrc k f).bell = s.bell := rfl
@[simp] theorem State.updSrc_gls (k : Nat) (f : Src → Src) : (s.updSrc k f).gls = s.gls := rfl
@[simp] theorem State.updSrc_tmr (k : Nat) (f : Src → Src) : (s.updSrc k f).tmr = s.tmr := rfl
@[simp] theorem State.updSrc_droop (k : Nat) (f : Src → Src) : (s.updSrc k f).droop = s.droop := rfl
@[simp] theorem State.updSrc_mbs (k : Nat) (f : Src → Src) : (s.updSrc k f).mbs = s.mbs := rfl
@[simp] theorem State.updSrc_pur (k : Nat) (f : Src → Src) : (s.updSrc k f).pur = s.pur := rfl
@[simp] theorem State.updSrc_led (k : Nat) (f : Src → Src) : (s.updSrc k f).led = s.led := rfl
@[simp] theorem State.updSrc_insts (k : Nat) (f : Src → Src) : (s.updSrc k f).insts = s.insts := rfl
@[simp] theorem State.updSrc_queues (k : Nat) (f : Src → Src) : (s.updSrc k f).queues = s.queues := rfl
@[simp] theorem State.updSrc_chans (k : Nat) (f : Src → Src) : (s.updSrc k f).chans = s.chans := rfl
@[simp] theorem State.updSrc_engs (k : Nat) (f : Src → Src) : (s.updSrc k f).engs = s.engs := rfl
@[simp] theorem State.updSrc_frags (k : Nat) (f : Src → Src) : (s.updSrc k f).frags = s.frags := rfl
@[simp] theorem State.updSrc_nextId (k : Nat) (f : Src → Src) : (s.updSrc k f).nextId = s.nextId := rfl
@[simp] theorem State.updSrc_hold (k : Nat) (f : Src → Src) : (s.updSrc k f).hold = s.hold := rfl
@[simp] theorem State.updSrc_ports (k : Nat) (f : Src → Src) : (s.updSrc k f).ports = s.ports := rfl
@[simp] theorem State.updSrc_fabs (k : Nat) (f : Src → Src) : (s.updSrc k f).fabs = s.fabs := rfl
@[simp] theorem State.updSrc_inbs (k : Nat) (f : Src → Src) : (s.updSrc k f).inbs = s.inbs := rfl
@[simp] theorem State.updSrc_nextInb (k : Nat) (f : Src → Src) : (s.updSrc k f).nextInb = s.nextInb := rfl
@[simp] theorem State.updSrc_pollAt (k : Nat) (f : Src → Src) : (s.updSrc k f).pollAt = s.pollAt := rfl
@[simp] theorem State.updSrc_cc (k : Nat) (f : Src → Src) : (s.updSrc k f).cc = s.cc := rfl
@[simp] theorem State.updSrc_walks (k : Nat) (f : Src → Src) : (s.updSrc k f).walks = s.walks := rfl
@[simp] theorem State.updSrc_walked (k : Nat) (f : Src → Src) : (s.updSrc k f).walked = s.walked := rfl
@[simp] theorem State.updSrc_logc (k : Nat) (f : Src → Src) : (s.updSrc k f).logc = s.logc := rfl

@[simp] theorem State.raise_pending (k kind unit : Nat) (inst : Option Nat) (d : Word) (x : Option Nat) : (s.raise k kind unit inst d x).pending = s.pending := rfl
@[simp] theorem State.raise_now (k kind unit : Nat) (inst : Option Nat) (d : Word) (x : Option Nat) : (s.raise k kind unit inst d x).now = s.now := rfl
@[simp] theorem State.raise_age (k kind unit : Nat) (inst : Option Nat) (d : Word) (x : Option Nat) : (s.raise k kind unit inst d x).age = s.age := rfl
@[simp] theorem State.raise_clk (k kind unit : Nat) (inst : Option Nat) (d : Word) (x : Option Nat) : (s.raise k kind unit inst d x).clk = s.clk := rfl
@[simp] theorem State.raise_pwr (k kind unit : Nat) (inst : Option Nat) (d : Word) (x : Option Nat) : (s.raise k kind unit inst d x).pwr = s.pwr := rfl
@[simp] theorem State.raise_glb (k kind unit : Nat) (inst : Option Nat) (d : Word) (x : Option Nat) : (s.raise k kind unit inst d x).glb = s.glb := rfl
@[simp] theorem State.raise_bell (k kind unit : Nat) (inst : Option Nat) (d : Word) (x : Option Nat) : (s.raise k kind unit inst d x).bell = s.bell := rfl
@[simp] theorem State.raise_gls (k kind unit : Nat) (inst : Option Nat) (d : Word) (x : Option Nat) : (s.raise k kind unit inst d x).gls = s.gls := rfl
@[simp] theorem State.raise_tmr (k kind unit : Nat) (inst : Option Nat) (d : Word) (x : Option Nat) : (s.raise k kind unit inst d x).tmr = s.tmr := rfl
@[simp] theorem State.raise_droop (k kind unit : Nat) (inst : Option Nat) (d : Word) (x : Option Nat) : (s.raise k kind unit inst d x).droop = s.droop := rfl
@[simp] theorem State.raise_mbs (k kind unit : Nat) (inst : Option Nat) (d : Word) (x : Option Nat) : (s.raise k kind unit inst d x).mbs = s.mbs := rfl
@[simp] theorem State.raise_pur (k kind unit : Nat) (inst : Option Nat) (d : Word) (x : Option Nat) : (s.raise k kind unit inst d x).pur = s.pur := rfl
@[simp] theorem State.raise_led (k kind unit : Nat) (inst : Option Nat) (d : Word) (x : Option Nat) : (s.raise k kind unit inst d x).led = s.led := rfl
@[simp] theorem State.raise_insts (k kind unit : Nat) (inst : Option Nat) (d : Word) (x : Option Nat) : (s.raise k kind unit inst d x).insts = s.insts := rfl
@[simp] theorem State.raise_queues (k kind unit : Nat) (inst : Option Nat) (d : Word) (x : Option Nat) : (s.raise k kind unit inst d x).queues = s.queues := rfl
@[simp] theorem State.raise_chans (k kind unit : Nat) (inst : Option Nat) (d : Word) (x : Option Nat) : (s.raise k kind unit inst d x).chans = s.chans := rfl
@[simp] theorem State.raise_engs (k kind unit : Nat) (inst : Option Nat) (d : Word) (x : Option Nat) : (s.raise k kind unit inst d x).engs = s.engs := rfl
@[simp] theorem State.raise_frags (k kind unit : Nat) (inst : Option Nat) (d : Word) (x : Option Nat) : (s.raise k kind unit inst d x).frags = s.frags := rfl
@[simp] theorem State.raise_nextId (k kind unit : Nat) (inst : Option Nat) (d : Word) (x : Option Nat) : (s.raise k kind unit inst d x).nextId = s.nextId := rfl
@[simp] theorem State.raise_hold (k kind unit : Nat) (inst : Option Nat) (d : Word) (x : Option Nat) : (s.raise k kind unit inst d x).hold = s.hold := rfl
@[simp] theorem State.raise_ports (k kind unit : Nat) (inst : Option Nat) (d : Word) (x : Option Nat) : (s.raise k kind unit inst d x).ports = s.ports := rfl
@[simp] theorem State.raise_fabs (k kind unit : Nat) (inst : Option Nat) (d : Word) (x : Option Nat) : (s.raise k kind unit inst d x).fabs = s.fabs := rfl
@[simp] theorem State.raise_inbs (k kind unit : Nat) (inst : Option Nat) (d : Word) (x : Option Nat) : (s.raise k kind unit inst d x).inbs = s.inbs := rfl
@[simp] theorem State.raise_nextInb (k kind unit : Nat) (inst : Option Nat) (d : Word) (x : Option Nat) : (s.raise k kind unit inst d x).nextInb = s.nextInb := rfl
@[simp] theorem State.raise_pollAt (k kind unit : Nat) (inst : Option Nat) (d : Word) (x : Option Nat) : (s.raise k kind unit inst d x).pollAt = s.pollAt := rfl
@[simp] theorem State.raise_cc (k kind unit : Nat) (inst : Option Nat) (d : Word) (x : Option Nat) : (s.raise k kind unit inst d x).cc = s.cc := rfl
@[simp] theorem State.raise_walks (k kind unit : Nat) (inst : Option Nat) (d : Word) (x : Option Nat) : (s.raise k kind unit inst d x).walks = s.walks := rfl
@[simp] theorem State.raise_walked (k kind unit : Nat) (inst : Option Nat) (d : Word) (x : Option Nat) : (s.raise k kind unit inst d x).walked = s.walked := rfl
@[simp] theorem State.raise_logc (k kind unit : Nat) (inst : Option Nat) (d : Word) (x : Option Nat) : (s.raise k kind unit inst d x).logc = s.logc := rfl

@[simp] theorem State.raiseAt_pending (k : Nat) (a : Attr) (d : Word) (x : Option Nat) : (s.raiseAt k a d x).pending = s.pending := rfl
@[simp] theorem State.raiseAt_now (k : Nat) (a : Attr) (d : Word) (x : Option Nat) : (s.raiseAt k a d x).now = s.now := rfl
@[simp] theorem State.raiseAt_age (k : Nat) (a : Attr) (d : Word) (x : Option Nat) : (s.raiseAt k a d x).age = s.age := rfl
@[simp] theorem State.raiseAt_clk (k : Nat) (a : Attr) (d : Word) (x : Option Nat) : (s.raiseAt k a d x).clk = s.clk := rfl
@[simp] theorem State.raiseAt_pwr (k : Nat) (a : Attr) (d : Word) (x : Option Nat) : (s.raiseAt k a d x).pwr = s.pwr := rfl
@[simp] theorem State.raiseAt_glb (k : Nat) (a : Attr) (d : Word) (x : Option Nat) : (s.raiseAt k a d x).glb = s.glb := rfl
@[simp] theorem State.raiseAt_bell (k : Nat) (a : Attr) (d : Word) (x : Option Nat) : (s.raiseAt k a d x).bell = s.bell := rfl
@[simp] theorem State.raiseAt_gls (k : Nat) (a : Attr) (d : Word) (x : Option Nat) : (s.raiseAt k a d x).gls = s.gls := rfl
@[simp] theorem State.raiseAt_tmr (k : Nat) (a : Attr) (d : Word) (x : Option Nat) : (s.raiseAt k a d x).tmr = s.tmr := rfl
@[simp] theorem State.raiseAt_droop (k : Nat) (a : Attr) (d : Word) (x : Option Nat) : (s.raiseAt k a d x).droop = s.droop := rfl
@[simp] theorem State.raiseAt_mbs (k : Nat) (a : Attr) (d : Word) (x : Option Nat) : (s.raiseAt k a d x).mbs = s.mbs := rfl
@[simp] theorem State.raiseAt_pur (k : Nat) (a : Attr) (d : Word) (x : Option Nat) : (s.raiseAt k a d x).pur = s.pur := rfl
@[simp] theorem State.raiseAt_led (k : Nat) (a : Attr) (d : Word) (x : Option Nat) : (s.raiseAt k a d x).led = s.led := rfl
@[simp] theorem State.raiseAt_insts (k : Nat) (a : Attr) (d : Word) (x : Option Nat) : (s.raiseAt k a d x).insts = s.insts := rfl
@[simp] theorem State.raiseAt_queues (k : Nat) (a : Attr) (d : Word) (x : Option Nat) : (s.raiseAt k a d x).queues = s.queues := rfl
@[simp] theorem State.raiseAt_chans (k : Nat) (a : Attr) (d : Word) (x : Option Nat) : (s.raiseAt k a d x).chans = s.chans := rfl
@[simp] theorem State.raiseAt_engs (k : Nat) (a : Attr) (d : Word) (x : Option Nat) : (s.raiseAt k a d x).engs = s.engs := rfl
@[simp] theorem State.raiseAt_frags (k : Nat) (a : Attr) (d : Word) (x : Option Nat) : (s.raiseAt k a d x).frags = s.frags := rfl
@[simp] theorem State.raiseAt_nextId (k : Nat) (a : Attr) (d : Word) (x : Option Nat) : (s.raiseAt k a d x).nextId = s.nextId := rfl
@[simp] theorem State.raiseAt_hold (k : Nat) (a : Attr) (d : Word) (x : Option Nat) : (s.raiseAt k a d x).hold = s.hold := rfl
@[simp] theorem State.raiseAt_ports (k : Nat) (a : Attr) (d : Word) (x : Option Nat) : (s.raiseAt k a d x).ports = s.ports := rfl
@[simp] theorem State.raiseAt_fabs (k : Nat) (a : Attr) (d : Word) (x : Option Nat) : (s.raiseAt k a d x).fabs = s.fabs := rfl
@[simp] theorem State.raiseAt_inbs (k : Nat) (a : Attr) (d : Word) (x : Option Nat) : (s.raiseAt k a d x).inbs = s.inbs := rfl
@[simp] theorem State.raiseAt_nextInb (k : Nat) (a : Attr) (d : Word) (x : Option Nat) : (s.raiseAt k a d x).nextInb = s.nextInb := rfl
@[simp] theorem State.raiseAt_pollAt (k : Nat) (a : Attr) (d : Word) (x : Option Nat) : (s.raiseAt k a d x).pollAt = s.pollAt := rfl
@[simp] theorem State.raiseAt_cc (k : Nat) (a : Attr) (d : Word) (x : Option Nat) : (s.raiseAt k a d x).cc = s.cc := rfl
@[simp] theorem State.raiseAt_walks (k : Nat) (a : Attr) (d : Word) (x : Option Nat) : (s.raiseAt k a d x).walks = s.walks := rfl
@[simp] theorem State.raiseAt_walked (k : Nat) (a : Attr) (d : Word) (x : Option Nat) : (s.raiseAt k a d x).walked = s.walked := rfl
@[simp] theorem State.raiseAt_logc (k : Nat) (a : Attr) (d : Word) (x : Option Nat) : (s.raiseAt k a d x).logc = s.logc := rfl

@[simp] theorem State.level_pending (k kind unit : Nat) (p : Bool) : (s.level k kind unit p).pending = s.pending := rfl
@[simp] theorem State.level_now (k kind unit : Nat) (p : Bool) : (s.level k kind unit p).now = s.now := rfl
@[simp] theorem State.level_age (k kind unit : Nat) (p : Bool) : (s.level k kind unit p).age = s.age := rfl
@[simp] theorem State.level_clk (k kind unit : Nat) (p : Bool) : (s.level k kind unit p).clk = s.clk := rfl
@[simp] theorem State.level_pwr (k kind unit : Nat) (p : Bool) : (s.level k kind unit p).pwr = s.pwr := rfl
@[simp] theorem State.level_glb (k kind unit : Nat) (p : Bool) : (s.level k kind unit p).glb = s.glb := rfl
@[simp] theorem State.level_bell (k kind unit : Nat) (p : Bool) : (s.level k kind unit p).bell = s.bell := rfl
@[simp] theorem State.level_gls (k kind unit : Nat) (p : Bool) : (s.level k kind unit p).gls = s.gls := rfl
@[simp] theorem State.level_tmr (k kind unit : Nat) (p : Bool) : (s.level k kind unit p).tmr = s.tmr := rfl
@[simp] theorem State.level_droop (k kind unit : Nat) (p : Bool) : (s.level k kind unit p).droop = s.droop := rfl
@[simp] theorem State.level_mbs (k kind unit : Nat) (p : Bool) : (s.level k kind unit p).mbs = s.mbs := rfl
@[simp] theorem State.level_pur (k kind unit : Nat) (p : Bool) : (s.level k kind unit p).pur = s.pur := rfl
@[simp] theorem State.level_led (k kind unit : Nat) (p : Bool) : (s.level k kind unit p).led = s.led := rfl
@[simp] theorem State.level_insts (k kind unit : Nat) (p : Bool) : (s.level k kind unit p).insts = s.insts := rfl
@[simp] theorem State.level_queues (k kind unit : Nat) (p : Bool) : (s.level k kind unit p).queues = s.queues := rfl
@[simp] theorem State.level_chans (k kind unit : Nat) (p : Bool) : (s.level k kind unit p).chans = s.chans := rfl
@[simp] theorem State.level_engs (k kind unit : Nat) (p : Bool) : (s.level k kind unit p).engs = s.engs := rfl
@[simp] theorem State.level_frags (k kind unit : Nat) (p : Bool) : (s.level k kind unit p).frags = s.frags := rfl
@[simp] theorem State.level_nextId (k kind unit : Nat) (p : Bool) : (s.level k kind unit p).nextId = s.nextId := rfl
@[simp] theorem State.level_hold (k kind unit : Nat) (p : Bool) : (s.level k kind unit p).hold = s.hold := rfl
@[simp] theorem State.level_ports (k kind unit : Nat) (p : Bool) : (s.level k kind unit p).ports = s.ports := rfl
@[simp] theorem State.level_fabs (k kind unit : Nat) (p : Bool) : (s.level k kind unit p).fabs = s.fabs := rfl
@[simp] theorem State.level_inbs (k kind unit : Nat) (p : Bool) : (s.level k kind unit p).inbs = s.inbs := rfl
@[simp] theorem State.level_nextInb (k kind unit : Nat) (p : Bool) : (s.level k kind unit p).nextInb = s.nextInb := rfl
@[simp] theorem State.level_pollAt (k kind unit : Nat) (p : Bool) : (s.level k kind unit p).pollAt = s.pollAt := rfl
@[simp] theorem State.level_cc (k kind unit : Nat) (p : Bool) : (s.level k kind unit p).cc = s.cc := rfl
@[simp] theorem State.level_walks (k kind unit : Nat) (p : Bool) : (s.level k kind unit p).walks = s.walks := rfl
@[simp] theorem State.level_walked (k kind unit : Nat) (p : Bool) : (s.level k kind unit p).walked = s.walked := rfl
@[simp] theorem State.level_logc (k kind unit : Nat) (p : Bool) : (s.level k kind unit p).logc = s.logc := rfl

/-! ### Units of another kind -/

@[simp] theorem State.updInst_at_chan (i : Nat) (f : Inst → Inst) (j : Nat) : (s.updInst i f).chan j = s.chan j := rfl
@[simp] theorem State.updInst_at_queue (i : Nat) (f : Inst → Inst) (j : Nat) : (s.updInst i f).queue? j = s.queue? j := rfl
@[simp] theorem State.updInst_at_eng (i : Nat) (f : Inst → Inst) (j : Nat) : (s.updInst i f).eng j = s.eng j := rfl
@[simp] theorem State.updInst_at_port (i : Nat) (f : Inst → Inst) (j : Nat) : (s.updInst i f).port j = s.port j := rfl
@[simp] theorem State.updInst_at_fab (i : Nat) (f : Inst → Inst) (j : Nat) : (s.updInst i f).fab j = s.fab j := rfl
@[simp] theorem State.updInst_at_mb (i : Nat) (f : Inst → Inst) (j : Nat) : (s.updInst i f).mb j = s.mb j := rfl
@[simp] theorem State.updInst_at_frag (i : Nat) (f : Inst → Inst) (j : Nat) : (s.updInst i f).frag? j = s.frag? j := rfl
@[simp] theorem State.updInst_at_src (i : Nat) (f : Inst → Inst) (j : Nat) : (s.updInst i f).src j = s.src j := rfl

@[simp] theorem State.updChan_at_inst (n : Nat) (f : Chan → Chan) (j : Nat) : (s.updChan n f).inst j = s.inst j := rfl
@[simp] theorem State.updChan_at_queue (n : Nat) (f : Chan → Chan) (j : Nat) : (s.updChan n f).queue? j = s.queue? j := rfl
@[simp] theorem State.updChan_at_eng (n : Nat) (f : Chan → Chan) (j : Nat) : (s.updChan n f).eng j = s.eng j := rfl
@[simp] theorem State.updChan_at_port (n : Nat) (f : Chan → Chan) (j : Nat) : (s.updChan n f).port j = s.port j := rfl
@[simp] theorem State.updChan_at_fab (n : Nat) (f : Chan → Chan) (j : Nat) : (s.updChan n f).fab j = s.fab j := rfl
@[simp] theorem State.updChan_at_mb (n : Nat) (f : Chan → Chan) (j : Nat) : (s.updChan n f).mb j = s.mb j := rfl
@[simp] theorem State.updChan_at_frag (n : Nat) (f : Chan → Chan) (j : Nat) : (s.updChan n f).frag? j = s.frag? j := rfl
@[simp] theorem State.updChan_at_src (n : Nat) (f : Chan → Chan) (j : Nat) : (s.updChan n f).src j = s.src j := rfl

@[simp] theorem State.updQueue_at_inst (g : Nat) (f : Queue → Queue) (j : Nat) : (s.updQueue g f).inst j = s.inst j := by simp [State.inst]
@[simp] theorem State.updQueue_at_chan (g : Nat) (f : Queue → Queue) (j : Nat) : (s.updQueue g f).chan j = s.chan j := by simp [State.chan]
@[simp] theorem State.updQueue_at_eng (g : Nat) (f : Queue → Queue) (j : Nat) : (s.updQueue g f).eng j = s.eng j := by simp [State.eng]
@[simp] theorem State.updQueue_at_port (g : Nat) (f : Queue → Queue) (j : Nat) : (s.updQueue g f).port j = s.port j := by simp [State.port]
@[simp] theorem State.updQueue_at_fab (g : Nat) (f : Queue → Queue) (j : Nat) : (s.updQueue g f).fab j = s.fab j := by simp [State.fab]
@[simp] theorem State.updQueue_at_mb (g : Nat) (f : Queue → Queue) (j : Nat) : (s.updQueue g f).mb j = s.mb j := by simp [State.mb]
@[simp] theorem State.updQueue_at_frag (g : Nat) (f : Queue → Queue) (j : Nat) : (s.updQueue g f).frag? j = s.frag? j := by simp [State.frag?]
@[simp] theorem State.updQueue_at_src (g : Nat) (f : Queue → Queue) (j : Nat) : (s.updQueue g f).src j = s.src j := by simp [State.src]

@[simp] theorem State.updEntry_at_inst (g seq : Nat) (f : Entry → Entry) (j : Nat) : (s.updEntry g seq f).inst j = s.inst j := by simp [State.inst]
@[simp] theorem State.updEntry_at_chan (g seq : Nat) (f : Entry → Entry) (j : Nat) : (s.updEntry g seq f).chan j = s.chan j := by simp [State.chan]
@[simp] theorem State.updEntry_at_eng (g seq : Nat) (f : Entry → Entry) (j : Nat) : (s.updEntry g seq f).eng j = s.eng j := by simp [State.eng]
@[simp] theorem State.updEntry_at_port (g seq : Nat) (f : Entry → Entry) (j : Nat) : (s.updEntry g seq f).port j = s.port j := by simp [State.port]
@[simp] theorem State.updEntry_at_fab (g seq : Nat) (f : Entry → Entry) (j : Nat) : (s.updEntry g seq f).fab j = s.fab j := by simp [State.fab]
@[simp] theorem State.updEntry_at_mb (g seq : Nat) (f : Entry → Entry) (j : Nat) : (s.updEntry g seq f).mb j = s.mb j := by simp [State.mb]
@[simp] theorem State.updEntry_at_frag (g seq : Nat) (f : Entry → Entry) (j : Nat) : (s.updEntry g seq f).frag? j = s.frag? j := by simp [State.frag?]
@[simp] theorem State.updEntry_at_src (g seq : Nat) (f : Entry → Entry) (j : Nat) : (s.updEntry g seq f).src j = s.src j := by simp [State.src]

@[simp] theorem State.updEng_at_inst (e : Nat) (f : Eng → Eng) (j : Nat) : (s.updEng e f).inst j = s.inst j := rfl
@[simp] theorem State.updEng_at_chan (e : Nat) (f : Eng → Eng) (j : Nat) : (s.updEng e f).chan j = s.chan j := rfl
@[simp] theorem State.updEng_at_queue (e : Nat) (f : Eng → Eng) (j : Nat) : (s.updEng e f).queue? j = s.queue? j := rfl
@[simp] theorem State.updEng_at_port (e : Nat) (f : Eng → Eng) (j : Nat) : (s.updEng e f).port j = s.port j := rfl
@[simp] theorem State.updEng_at_fab (e : Nat) (f : Eng → Eng) (j : Nat) : (s.updEng e f).fab j = s.fab j := rfl
@[simp] theorem State.updEng_at_mb (e : Nat) (f : Eng → Eng) (j : Nat) : (s.updEng e f).mb j = s.mb j := rfl
@[simp] theorem State.updEng_at_frag (e : Nat) (f : Eng → Eng) (j : Nat) : (s.updEng e f).frag? j = s.frag? j := rfl
@[simp] theorem State.updEng_at_src (e : Nat) (f : Eng → Eng) (j : Nat) : (s.updEng e f).src j = s.src j := rfl

@[simp] theorem State.updPort_at_inst (c : Nat) (f : MPort → MPort) (j : Nat) : (s.updPort c f).inst j = s.inst j := rfl
@[simp] theorem State.updPort_at_chan (c : Nat) (f : MPort → MPort) (j : Nat) : (s.updPort c f).chan j = s.chan j := rfl
@[simp] theorem State.updPort_at_queue (c : Nat) (f : MPort → MPort) (j : Nat) : (s.updPort c f).queue? j = s.queue? j := rfl
@[simp] theorem State.updPort_at_eng (c : Nat) (f : MPort → MPort) (j : Nat) : (s.updPort c f).eng j = s.eng j := rfl
@[simp] theorem State.updPort_at_fab (c : Nat) (f : MPort → MPort) (j : Nat) : (s.updPort c f).fab j = s.fab j := rfl
@[simp] theorem State.updPort_at_mb (c : Nat) (f : MPort → MPort) (j : Nat) : (s.updPort c f).mb j = s.mb j := rfl
@[simp] theorem State.updPort_at_frag (c : Nat) (f : MPort → MPort) (j : Nat) : (s.updPort c f).frag? j = s.frag? j := rfl
@[simp] theorem State.updPort_at_src (c : Nat) (f : MPort → MPort) (j : Nat) : (s.updPort c f).src j = s.src j := rfl

@[simp] theorem State.updFab_at_inst (p : Nat) (f : FPort → FPort) (j : Nat) : (s.updFab p f).inst j = s.inst j := rfl
@[simp] theorem State.updFab_at_chan (p : Nat) (f : FPort → FPort) (j : Nat) : (s.updFab p f).chan j = s.chan j := rfl
@[simp] theorem State.updFab_at_queue (p : Nat) (f : FPort → FPort) (j : Nat) : (s.updFab p f).queue? j = s.queue? j := rfl
@[simp] theorem State.updFab_at_eng (p : Nat) (f : FPort → FPort) (j : Nat) : (s.updFab p f).eng j = s.eng j := rfl
@[simp] theorem State.updFab_at_port (p : Nat) (f : FPort → FPort) (j : Nat) : (s.updFab p f).port j = s.port j := rfl
@[simp] theorem State.updFab_at_mb (p : Nat) (f : FPort → FPort) (j : Nat) : (s.updFab p f).mb j = s.mb j := rfl
@[simp] theorem State.updFab_at_frag (p : Nat) (f : FPort → FPort) (j : Nat) : (s.updFab p f).frag? j = s.frag? j := rfl
@[simp] theorem State.updFab_at_src (p : Nat) (f : FPort → FPort) (j : Nat) : (s.updFab p f).src j = s.src j := rfl

@[simp] theorem State.updMb_at_inst (m : Nat) (f : Mbox → Mbox) (j : Nat) : (s.updMb m f).inst j = s.inst j := rfl
@[simp] theorem State.updMb_at_chan (m : Nat) (f : Mbox → Mbox) (j : Nat) : (s.updMb m f).chan j = s.chan j := rfl
@[simp] theorem State.updMb_at_queue (m : Nat) (f : Mbox → Mbox) (j : Nat) : (s.updMb m f).queue? j = s.queue? j := rfl
@[simp] theorem State.updMb_at_eng (m : Nat) (f : Mbox → Mbox) (j : Nat) : (s.updMb m f).eng j = s.eng j := rfl
@[simp] theorem State.updMb_at_port (m : Nat) (f : Mbox → Mbox) (j : Nat) : (s.updMb m f).port j = s.port j := rfl
@[simp] theorem State.updMb_at_fab (m : Nat) (f : Mbox → Mbox) (j : Nat) : (s.updMb m f).fab j = s.fab j := rfl
@[simp] theorem State.updMb_at_frag (m : Nat) (f : Mbox → Mbox) (j : Nat) : (s.updMb m f).frag? j = s.frag? j := rfl
@[simp] theorem State.updMb_at_src (m : Nat) (f : Mbox → Mbox) (j : Nat) : (s.updMb m f).src j = s.src j := rfl

@[simp] theorem State.updCounter_at_inst (n : Nat) (f : Tmr → Tmr) (j : Nat) : (s.updCounter n f).inst j = s.inst j := rfl
@[simp] theorem State.updCounter_at_chan (n : Nat) (f : Tmr → Tmr) (j : Nat) : (s.updCounter n f).chan j = s.chan j := rfl
@[simp] theorem State.updCounter_at_queue (n : Nat) (f : Tmr → Tmr) (j : Nat) : (s.updCounter n f).queue? j = s.queue? j := rfl
@[simp] theorem State.updCounter_at_eng (n : Nat) (f : Tmr → Tmr) (j : Nat) : (s.updCounter n f).eng j = s.eng j := rfl
@[simp] theorem State.updCounter_at_port (n : Nat) (f : Tmr → Tmr) (j : Nat) : (s.updCounter n f).port j = s.port j := rfl
@[simp] theorem State.updCounter_at_fab (n : Nat) (f : Tmr → Tmr) (j : Nat) : (s.updCounter n f).fab j = s.fab j := rfl
@[simp] theorem State.updCounter_at_mb (n : Nat) (f : Tmr → Tmr) (j : Nat) : (s.updCounter n f).mb j = s.mb j := rfl
@[simp] theorem State.updCounter_at_frag (n : Nat) (f : Tmr → Tmr) (j : Nat) : (s.updCounter n f).frag? j = s.frag? j := rfl
@[simp] theorem State.updCounter_at_src (n : Nat) (f : Tmr → Tmr) (j : Nat) : (s.updCounter n f).src j = s.src j := rfl

@[simp] theorem State.updCapture_at_inst (i : Nat) (f : Cap → Cap) (j : Nat) : (s.updCapture i f).inst j = s.inst j := rfl
@[simp] theorem State.updCapture_at_chan (i : Nat) (f : Cap → Cap) (j : Nat) : (s.updCapture i f).chan j = s.chan j := rfl
@[simp] theorem State.updCapture_at_queue (i : Nat) (f : Cap → Cap) (j : Nat) : (s.updCapture i f).queue? j = s.queue? j := rfl
@[simp] theorem State.updCapture_at_eng (i : Nat) (f : Cap → Cap) (j : Nat) : (s.updCapture i f).eng j = s.eng j := rfl
@[simp] theorem State.updCapture_at_port (i : Nat) (f : Cap → Cap) (j : Nat) : (s.updCapture i f).port j = s.port j := rfl
@[simp] theorem State.updCapture_at_fab (i : Nat) (f : Cap → Cap) (j : Nat) : (s.updCapture i f).fab j = s.fab j := rfl
@[simp] theorem State.updCapture_at_mb (i : Nat) (f : Cap → Cap) (j : Nat) : (s.updCapture i f).mb j = s.mb j := rfl
@[simp] theorem State.updCapture_at_frag (i : Nat) (f : Cap → Cap) (j : Nat) : (s.updCapture i f).frag? j = s.frag? j := rfl
@[simp] theorem State.updCapture_at_src (i : Nat) (f : Cap → Cap) (j : Nat) : (s.updCapture i f).src j = s.src j := rfl

@[simp] theorem State.updAcc_at_inst (c : Nat) (f : PortAcc → PortAcc) (j : Nat) : (s.updAcc c f).inst j = s.inst j := rfl
@[simp] theorem State.updAcc_at_chan (c : Nat) (f : PortAcc → PortAcc) (j : Nat) : (s.updAcc c f).chan j = s.chan j := rfl
@[simp] theorem State.updAcc_at_queue (c : Nat) (f : PortAcc → PortAcc) (j : Nat) : (s.updAcc c f).queue? j = s.queue? j := rfl
@[simp] theorem State.updAcc_at_eng (c : Nat) (f : PortAcc → PortAcc) (j : Nat) : (s.updAcc c f).eng j = s.eng j := rfl
@[simp] theorem State.updAcc_at_port (c : Nat) (f : PortAcc → PortAcc) (j : Nat) : (s.updAcc c f).port j = s.port j := rfl
@[simp] theorem State.updAcc_at_fab (c : Nat) (f : PortAcc → PortAcc) (j : Nat) : (s.updAcc c f).fab j = s.fab j := rfl
@[simp] theorem State.updAcc_at_mb (c : Nat) (f : PortAcc → PortAcc) (j : Nat) : (s.updAcc c f).mb j = s.mb j := rfl
@[simp] theorem State.updAcc_at_frag (c : Nat) (f : PortAcc → PortAcc) (j : Nat) : (s.updAcc c f).frag? j = s.frag? j := rfl
@[simp] theorem State.updAcc_at_src (c : Nat) (f : PortAcc → PortAcc) (j : Nat) : (s.updAcc c f).src j = s.src j := rfl

@[simp] theorem State.updFabAcc_at_inst (p : Nat) (f : FabAcc → FabAcc) (j : Nat) : (s.updFabAcc p f).inst j = s.inst j := rfl
@[simp] theorem State.updFabAcc_at_chan (p : Nat) (f : FabAcc → FabAcc) (j : Nat) : (s.updFabAcc p f).chan j = s.chan j := rfl
@[simp] theorem State.updFabAcc_at_queue (p : Nat) (f : FabAcc → FabAcc) (j : Nat) : (s.updFabAcc p f).queue? j = s.queue? j := rfl
@[simp] theorem State.updFabAcc_at_eng (p : Nat) (f : FabAcc → FabAcc) (j : Nat) : (s.updFabAcc p f).eng j = s.eng j := rfl
@[simp] theorem State.updFabAcc_at_port (p : Nat) (f : FabAcc → FabAcc) (j : Nat) : (s.updFabAcc p f).port j = s.port j := rfl
@[simp] theorem State.updFabAcc_at_fab (p : Nat) (f : FabAcc → FabAcc) (j : Nat) : (s.updFabAcc p f).fab j = s.fab j := rfl
@[simp] theorem State.updFabAcc_at_mb (p : Nat) (f : FabAcc → FabAcc) (j : Nat) : (s.updFabAcc p f).mb j = s.mb j := rfl
@[simp] theorem State.updFabAcc_at_frag (p : Nat) (f : FabAcc → FabAcc) (j : Nat) : (s.updFabAcc p f).frag? j = s.frag? j := rfl
@[simp] theorem State.updFabAcc_at_src (p : Nat) (f : FabAcc → FabAcc) (j : Nat) : (s.updFabAcc p f).src j = s.src j := rfl

@[simp] theorem State.updFrag_at_inst (id : Nat) (f : Frag → Frag) (j : Nat) : (s.updFrag id f).inst j = s.inst j := rfl
@[simp] theorem State.updFrag_at_chan (id : Nat) (f : Frag → Frag) (j : Nat) : (s.updFrag id f).chan j = s.chan j := rfl
@[simp] theorem State.updFrag_at_queue (id : Nat) (f : Frag → Frag) (j : Nat) : (s.updFrag id f).queue? j = s.queue? j := rfl
@[simp] theorem State.updFrag_at_eng (id : Nat) (f : Frag → Frag) (j : Nat) : (s.updFrag id f).eng j = s.eng j := rfl
@[simp] theorem State.updFrag_at_port (id : Nat) (f : Frag → Frag) (j : Nat) : (s.updFrag id f).port j = s.port j := rfl
@[simp] theorem State.updFrag_at_fab (id : Nat) (f : Frag → Frag) (j : Nat) : (s.updFrag id f).fab j = s.fab j := rfl
@[simp] theorem State.updFrag_at_mb (id : Nat) (f : Frag → Frag) (j : Nat) : (s.updFrag id f).mb j = s.mb j := rfl
@[simp] theorem State.updFrag_at_src (id : Nat) (f : Frag → Frag) (j : Nat) : (s.updFrag id f).src j = s.src j := rfl

@[simp] theorem State.dropFrag_at_inst (id : Nat) (j : Nat) : (s.dropFrag id).inst j = s.inst j := rfl
@[simp] theorem State.dropFrag_at_chan (id : Nat) (j : Nat) : (s.dropFrag id).chan j = s.chan j := rfl
@[simp] theorem State.dropFrag_at_queue (id : Nat) (j : Nat) : (s.dropFrag id).queue? j = s.queue? j := rfl
@[simp] theorem State.dropFrag_at_eng (id : Nat) (j : Nat) : (s.dropFrag id).eng j = s.eng j := rfl
@[simp] theorem State.dropFrag_at_port (id : Nat) (j : Nat) : (s.dropFrag id).port j = s.port j := rfl
@[simp] theorem State.dropFrag_at_fab (id : Nat) (j : Nat) : (s.dropFrag id).fab j = s.fab j := rfl
@[simp] theorem State.dropFrag_at_mb (id : Nat) (j : Nat) : (s.dropFrag id).mb j = s.mb j := rfl
@[simp] theorem State.dropFrag_at_src (id : Nat) (j : Nat) : (s.dropFrag id).src j = s.src j := rfl

@[simp] theorem State.updSrc_at_inst (k : Nat) (f : Src → Src) (j : Nat) : (s.updSrc k f).inst j = s.inst j := rfl
@[simp] theorem State.updSrc_at_chan (k : Nat) (f : Src → Src) (j : Nat) : (s.updSrc k f).chan j = s.chan j := rfl
@[simp] theorem State.updSrc_at_queue (k : Nat) (f : Src → Src) (j : Nat) : (s.updSrc k f).queue? j = s.queue? j := rfl
@[simp] theorem State.updSrc_at_eng (k : Nat) (f : Src → Src) (j : Nat) : (s.updSrc k f).eng j = s.eng j := rfl
@[simp] theorem State.updSrc_at_port (k : Nat) (f : Src → Src) (j : Nat) : (s.updSrc k f).port j = s.port j := rfl
@[simp] theorem State.updSrc_at_fab (k : Nat) (f : Src → Src) (j : Nat) : (s.updSrc k f).fab j = s.fab j := rfl
@[simp] theorem State.updSrc_at_mb (k : Nat) (f : Src → Src) (j : Nat) : (s.updSrc k f).mb j = s.mb j := rfl
@[simp] theorem State.updSrc_at_frag (k : Nat) (f : Src → Src) (j : Nat) : (s.updSrc k f).frag? j = s.frag? j := rfl

@[simp] theorem State.raise_at_inst (k kind unit : Nat) (inst : Option Nat) (d : Word) (x : Option Nat) (j : Nat) : (s.raise k kind unit inst d x).inst j = s.inst j := rfl
@[simp] theorem State.raise_at_chan (k kind unit : Nat) (inst : Option Nat) (d : Word) (x : Option Nat) (j : Nat) : (s.raise k kind unit inst d x).chan j = s.chan j := rfl
@[simp] theorem State.raise_at_queue (k kind unit : Nat) (inst : Option Nat) (d : Word) (x : Option Nat) (j : Nat) : (s.raise k kind unit inst d x).queue? j = s.queue? j := rfl
@[simp] theorem State.raise_at_eng (k kind unit : Nat) (inst : Option Nat) (d : Word) (x : Option Nat) (j : Nat) : (s.raise k kind unit inst d x).eng j = s.eng j := rfl
@[simp] theorem State.raise_at_port (k kind unit : Nat) (inst : Option Nat) (d : Word) (x : Option Nat) (j : Nat) : (s.raise k kind unit inst d x).port j = s.port j := rfl
@[simp] theorem State.raise_at_fab (k kind unit : Nat) (inst : Option Nat) (d : Word) (x : Option Nat) (j : Nat) : (s.raise k kind unit inst d x).fab j = s.fab j := rfl
@[simp] theorem State.raise_at_mb (k kind unit : Nat) (inst : Option Nat) (d : Word) (x : Option Nat) (j : Nat) : (s.raise k kind unit inst d x).mb j = s.mb j := rfl
@[simp] theorem State.raise_at_frag (k kind unit : Nat) (inst : Option Nat) (d : Word) (x : Option Nat) (j : Nat) : (s.raise k kind unit inst d x).frag? j = s.frag? j := rfl

@[simp] theorem State.raiseAt_at_inst (k : Nat) (a : Attr) (d : Word) (x : Option Nat) (j : Nat) : (s.raiseAt k a d x).inst j = s.inst j := rfl
@[simp] theorem State.raiseAt_at_chan (k : Nat) (a : Attr) (d : Word) (x : Option Nat) (j : Nat) : (s.raiseAt k a d x).chan j = s.chan j := rfl
@[simp] theorem State.raiseAt_at_queue (k : Nat) (a : Attr) (d : Word) (x : Option Nat) (j : Nat) : (s.raiseAt k a d x).queue? j = s.queue? j := rfl
@[simp] theorem State.raiseAt_at_eng (k : Nat) (a : Attr) (d : Word) (x : Option Nat) (j : Nat) : (s.raiseAt k a d x).eng j = s.eng j := rfl
@[simp] theorem State.raiseAt_at_port (k : Nat) (a : Attr) (d : Word) (x : Option Nat) (j : Nat) : (s.raiseAt k a d x).port j = s.port j := rfl
@[simp] theorem State.raiseAt_at_fab (k : Nat) (a : Attr) (d : Word) (x : Option Nat) (j : Nat) : (s.raiseAt k a d x).fab j = s.fab j := rfl
@[simp] theorem State.raiseAt_at_mb (k : Nat) (a : Attr) (d : Word) (x : Option Nat) (j : Nat) : (s.raiseAt k a d x).mb j = s.mb j := rfl
@[simp] theorem State.raiseAt_at_frag (k : Nat) (a : Attr) (d : Word) (x : Option Nat) (j : Nat) : (s.raiseAt k a d x).frag? j = s.frag? j := rfl

@[simp] theorem State.level_at_inst (k kind unit : Nat) (p : Bool) (j : Nat) : (s.level k kind unit p).inst j = s.inst j := rfl
@[simp] theorem State.level_at_chan (k kind unit : Nat) (p : Bool) (j : Nat) : (s.level k kind unit p).chan j = s.chan j := rfl
@[simp] theorem State.level_at_queue (k kind unit : Nat) (p : Bool) (j : Nat) : (s.level k kind unit p).queue? j = s.queue? j := rfl
@[simp] theorem State.level_at_eng (k kind unit : Nat) (p : Bool) (j : Nat) : (s.level k kind unit p).eng j = s.eng j := rfl
@[simp] theorem State.level_at_port (k kind unit : Nat) (p : Bool) (j : Nat) : (s.level k kind unit p).port j = s.port j := rfl
@[simp] theorem State.level_at_fab (k kind unit : Nat) (p : Bool) (j : Nat) : (s.level k kind unit p).fab j = s.fab j := rfl
@[simp] theorem State.level_at_mb (k kind unit : Nat) (p : Bool) (j : Nat) : (s.level k kind unit p).mb j = s.mb j := rfl
@[simp] theorem State.level_at_frag (k kind unit : Nat) (p : Bool) (j : Nat) : (s.level k kind unit p).frag? j = s.frag? j := rfl

/-! ### The unit that an update changes, and the others of its kind -/

@[simp] theorem State.inst_updInst (i : Nat) (f : Inst → Inst) (j : Nat) :
    (s.updInst i f).inst j = if j = i then f (s.inst i) else s.inst j := tabGet_tabUpd ..
@[simp] theorem State.chan_updChan (n : Nat) (f : Chan → Chan) (j : Nat) :
    (s.updChan n f).chan j = if j = n then f (s.chan n) else s.chan j := tabGet_tabUpd ..
@[simp] theorem State.eng_updEng (e : Nat) (f : Eng → Eng) (j : Nat) :
    (s.updEng e f).eng j = if j = e then f (s.eng e) else s.eng j := tabGet_tabUpd ..
@[simp] theorem State.port_updPort (c : Nat) (f : MPort → MPort) (j : Nat) :
    (s.updPort c f).port j = if j = c then f (s.port c) else s.port j := tabGet_tabUpd ..
@[simp] theorem State.fab_updFab (p : Nat) (f : FPort → FPort) (j : Nat) :
    (s.updFab p f).fab j = if j = p then f (s.fab p) else s.fab j := tabGet_tabUpd ..
@[simp] theorem State.mb_updMb (m : Nat) (f : Mbox → Mbox) (j : Nat) :
    (s.updMb m f).mb j = if j = m then f (s.mb m) else s.mb j := tabGet_tabUpd ..
@[simp] theorem State.counter_updCounter (n : Nat) (f : Tmr → Tmr) (j : Nat) :
    (s.updCounter n f).counter j = if j = n then f (s.counter n) else s.counter j := tabGet_tabUpd ..
@[simp] theorem State.capture_updCapture (i : Nat) (f : Cap → Cap) (j : Nat) :
    (s.updCapture i f).capture j = if j = i then f (s.capture i) else s.capture j := tabGet_tabUpd ..
@[simp] theorem State.src_updSrc (k : Nat) (f : Src → Src) (j : Nat) :
    (s.updSrc k f).src j = if j = k then f (s.src k) else s.src j := by
  simp only [State.src, State.updSrc, tabGet_tabSet]

theorem find_tabSet {α : Type} (t : List (Nat × α)) (k : Nat) (v : α) (j : Nat) :
    ((tabSet t k v).find? (fun p => p.1 == j)).map (·.2) =
      if j = k then some v else (t.find? (fun p => p.1 == j)).map (·.2) := by
  induction t with
  | nil =>
    by_cases h : j = k
    · subst h; simp [tabSet]
    · simp [tabSet, h, Ne.symm h]
  | cons p t ih =>
    obtain ⟨a, w⟩ := p
    simp only [tabSet]
    split
    · rename_i h; subst h
      by_cases h : j = a
      · subst h; simp
      · simp [h, Ne.symm h]
    · split
      · by_cases h : j = k
        · subst h; simp
        · simp [h, Ne.symm h]
      · rename_i h1 h2
        by_cases h : a = j
        · subst h; simp [h1]
        · simp [h, ih]

@[simp] theorem State.queue_updQueue (g : Nat) (f : Queue → Queue) (j : Nat) :
    (s.updQueue g f).queue? j = if j = g then (s.queue? g).map f else s.queue? j := by
  unfold State.updQueue
  split
  · rename_i q h
    show ((tabSet s.queues g (f q)).find? (fun p => p.1 == j)).map (·.2) = _
    rw [find_tabSet, h]; rfl
  · rename_i h
    split
    · rename_i e; rw [e, h]; rfl
    · rfl

@[simp] theorem State.queue_updEntry (g seq : Nat) (f : Entry → Entry) (j : Nat) :
    (s.updEntry g seq f).queue? j = if j = g then (s.queue? g).map (·.updEntry seq f) else s.queue? j :=
  State.queue_updQueue ..

/-- The first fragment of an id after a change that keeps ids. -/
theorem State.frag_updFrag (id : Nat) (f : Frag → Frag) (h : ∀ x, (f x).id = x.id) (j : Nat) :
    (s.updFrag id f).frag? j = if j = id then (s.frag? id).map f else s.frag? j := by
  simp only [State.frag?, State.updFrag]
  induction s.frags with
  | nil => simp
  | cons x xs ih =>
    have hg : (if x.id = id then f x else x).id = x.id := by split <;> simp [h]
    by_cases hj : j = id
    · subst hj
      simp only [if_true] at ih ⊢
      by_cases hx : x.id = j <;> simp [hx, h, ih]
    · simp only [hj, if_false] at ih ⊢
      by_cases hx : x.id = j
      · have : ¬ j = id := hj
        simp [hx, this]
      · have hx' : (x.id == j) = false := by simpa using hx
        simp only [List.map_cons, List.find?_cons, hg, ih, hx']

@[simp] theorem State.frag_dropFrag (id : Nat) (j : Nat) :
    (s.dropFrag id).frag? j = if j = id then none else s.frag? j := by
  simp only [State.frag?, State.dropFrag]
  induction s.frags with
  | nil => simp
  | cons x xs ih =>
    by_cases hx : x.id = id
    · by_cases hj : j = id
      · subst hj; simp
      · have : ¬ x.id = j := fun e => hj (e.symm.trans hx)
        simp only [hj, if_false] at ih
        simp [hx, Ne.symm hj, hj, ih]
    · by_cases hj : j = id
      · subst hj; simp
      · simp only [hj, if_false] at ih
        by_cases hxj : x.id = j <;> simp [hx, hj, hxj, ih]

/-! ### Conditions the collector waits for -/

@[simp] theorem State.waiting_raise (k kind unit : Nat) (inst : Option Nat) (d : Word) (x : Option Nat) :
    (s.raise k kind unit inst d x).flt.waiting = s.flt.waiting ++
      [{ source := k, attr := { kind, unit, inst }, detail := d, xcause := x, present := true }] := rfl
@[simp] theorem State.waiting_raiseAt (k : Nat) (a : Attr) (d : Word) (x : Option Nat) :
    (s.raiseAt k a d x).flt.waiting = s.flt.waiting ++
      [{ source := k, attr := a, detail := d, xcause := x, present := true }] := rfl
@[simp] theorem State.waiting_level (k kind unit : Nat) (p : Bool) :
    (s.level k kind unit p).flt.waiting = s.flt.waiting ++
      [{ source := k, attr := { kind, unit, inst := none }, detail := 0, xcause := none, present := p }] := rfl

end Sys2Proof.Machine
end

