-- ==== Sys2Proof/Laws/Frame1.lean ====
section
/-! SUPPORT. The parts of State that each shared operation may change: events, charts, ports, the dispatcher, channels, engines and queues. -/

namespace Sys2Proof.Machine

open Sys2Proof

/-! ### Ops -/

theorem State.noteDbg_frame (s : State) :
    Frame [.clk] s (State.noteDbg s) := by
  unfold State.noteDbg
  try dsimp only
  repeat' first
    | with_reducible exact Frame.refl
    | split
    | ((with_reducible refine Frame.flds ?_ ?_); (case refine_1 => (intro p hp; cases p <;> first | rfl | exact absurd (by decide) hp)))

theorem State.noteWrite_frame (s : State) (off : Nat) (v : Word) :
    Frame [.clk] s (State.noteWrite s off v) := by
  unfold State.noteWrite
  try dsimp only
  repeat' first
    | with_reducible exact Frame.refl
    | split
    | ((with_reducible refine Frame.flds ?_ ?_); (case refine_1 => (intro p hp; cases p <;> first | rfl | exact absurd (by decide) hp)))

theorem State.noteSet_frame (s : State) (off : Nat) (bits : Word) :
    Frame [.clk] s (State.noteSet s off bits) := by
  unfold State.noteSet
  try dsimp only
  repeat' first
    | with_reducible exact Frame.refl
    | split
    | ((with_reducible refine Frame.flds ?_ ?_); (case refine_1 => (intro p hp; cases p <;> first | rfl | exact absurd (by decide) hp)))

theorem State.dropPur_frame (s : State) :
    Frame [.ports] s (State.dropPur s) := by
  unfold State.dropPur
  try dsimp only
  repeat' first
    | with_reducible exact Frame.refl
    | split
    | ((with_reducible refine Frame.flds ?_ ?_); (case refine_1 => (intro p hp; cases p <;> first | rfl | exact absurd (by decide) hp)))

theorem State.haltPurser_frame (s : State) :
    Frame [.pur, .ports] s (State.haltPurser s) := by
  unfold State.haltPurser
  try dsimp only
  repeat' first
    | with_reducible exact Frame.refl
    | with_reducible apply Frame.via (Frame.grow (State.dropPur_frame ..) (by decide))
    | split
    | ((with_reducible refine Frame.flds ?_ ?_); (case refine_1 => (intro p hp; cases p <;> first | rfl | exact absurd (by decide) hp)))

theorem State.wakeBy_frame (s : State) (c : WakeCause) :
    Frame [.pwr] s (State.wakeBy s c) := by
  unfold State.wakeBy
  try dsimp only
  repeat' first
    | with_reducible exact Frame.refl
    | split
    | ((with_reducible refine Frame.flds ?_ ?_); (case refine_1 => (intro p hp; cases p <;> first | rfl | exact absurd (by decide) hp)))

theorem State.fvCount_frame (s : State) (i k hi lo : Nat) :
    Frame [.insts] s (State.fvCount s i k hi lo) := by
  unfold State.fvCount
  try dsimp only
  repeat' first
    | with_reducible exact Frame.refl
    | with_reducible apply Frame.via (Frame.grow (State.updInst_frame ..) (by decide))
    | split
    | with_reducible refine State.unlessWritten_frame ?_ ?_

/-! ### Events -/

theorem State.loseEvent_frame (s : State) (i : Nat) (n : Nat) :
    Frame [.flt, .insts] s (State.loseEvent s i n) := by
  unfold State.loseEvent
  try dsimp only
  repeat' first
    | with_reducible exact Frame.refl
    | with_reducible apply Frame.via (Frame.grow (State.raise_frame ..) (by decide))
    | with_reducible apply Frame.via (Frame.grow (State.updInst_frame ..) (by decide))
    | split

theorem State.addLost_frame (s : State) (i : Nat) :
    Frame [.insts] s (State.addLost s i) := by
  unfold State.addLost
  try dsimp only
  repeat' first
    | with_reducible exact Frame.refl
    | with_reducible apply Frame.via (Frame.grow (State.updInst_frame ..) (by decide))
    | split

theorem State.post_frame (s : State) (i : Nat) (r : EvRec) :
    Frame [.flt, .insts] s (State.post s i r) := by
  unfold State.post
  try dsimp only
  repeat' first
    | with_reducible exact Frame.refl
    | with_reducible apply Frame.via (Frame.grow (State.addLost_frame ..) (by decide))
    | with_reducible apply Frame.via (Frame.grow (State.loseEvent_frame ..) (by decide))
    | with_reducible apply Frame.via (Frame.grow (State.updInst_frame ..) (by decide))
    | split

theorem State.msiTrigger_frame (s : State) (i port : Nat) (queue : Option Nat) :
    Frame [.insts] s (State.msiTrigger s i port queue) := by
  unfold State.msiTrigger
  try dsimp only
  repeat' first
    | with_reducible exact Frame.refl
    | with_reducible apply Frame.via (Frame.grow (State.updInst_frame ..) (by decide))
    | split

theorem State.withIrq_frame (s : State) (i port : Nat) (queue : Option Nat) (f : Inst → Inst) :
    Frame [.insts] s (State.withIrq s i port queue f) := by
  unfold State.withIrq
  try dsimp only
  repeat' first
    | with_reducible exact Frame.refl
    | with_reducible apply Frame.via (Frame.grow (State.msiTrigger_frame ..) (by decide))
    | with_reducible apply Frame.via (Frame.grow (State.updInst_frame ..) (by decide))
    | split

theorem State.dropped_frame (s : State) (i : Nat) :
    Frame [.insts] s (State.dropped s i) := by
  unfold State.dropped
  repeat' first
    | with_reducible exact Frame.refl
    | with_reducible apply Frame.via (Frame.grow (State.fvCount_frame ..) (by decide))
    | split

theorem State.recordDone_frame (s : State) (i : Nat) :
    Frame [.insts] s (State.recordDone s i) := by
  unfold State.recordDone
  try dsimp only
  repeat' first
    | with_reducible exact Frame.refl
    | with_reducible apply Frame.via (Frame.grow (State.withIrq_frame ..) (by decide))
    | split

theorem State.recordFails_frame (s : State) (i : Nat) (addr : Nat) (xcause : Option Nat) :
    Frame [.flt, .insts] s (State.recordFails s i addr xcause) := by
  unfold State.recordFails
  try dsimp only
  repeat' first
    | with_reducible exact Frame.refl
    | with_reducible apply Frame.via (Frame.grow (State.dropped_frame ..) (by decide))
    | with_reducible apply Frame.via (Frame.grow (State.loseEvent_frame ..) (by decide))
    | with_reducible apply Frame.via (Frame.grow (State.raise_frame ..) (by decide))
    | with_reducible apply Frame.via (Frame.grow (State.updInst_frame ..) (by decide))
    | split

theorem State.writeHead_frame (s : State) (i v : Nat) :
    Frame [.flt, .insts] s (State.writeHead s i v) := by
  unfold State.writeHead
  try dsimp only
  repeat' first
    | with_reducible exact Frame.refl
    | with_reducible apply Frame.via (Frame.grow (State.msiTrigger_frame ..) (by decide))
    | with_reducible apply Frame.via (Frame.grow (State.raise_frame ..) (by decide))
    | with_reducible apply Frame.via (Frame.grow (State.updInst_frame ..) (by decide))
    | split

theorem State.writeEvtCtl_frame (s : State) (i : Nat) (v : Word) :
    Frame [.insts] s (State.writeEvtCtl s i v) := by
  unfold State.writeEvtCtl
  try dsimp only
  repeat' first
    | with_reducible exact Frame.refl
    | with_reducible apply Frame.via (Frame.grow (State.updInst_frame ..) (by decide))
    | split

/-! ### Chart -/

theorem State.touch_frame (s : State) (i addr : Nat) :
    Frame [.cc] s (State.touch s i addr) := by
  unfold State.touch
  try dsimp only
  repeat' first
    | with_reducible exact Frame.refl
    | split
    | ((with_reducible refine Frame.flds ?_ ?_); (case refine_1 => (intro p hp; cases p <;> first | rfl | exact absurd (by decide) hp)))

theorem State.touchAll_frame (s : State) (i : Nat) (addrs : List Nat) :
    Frame [.cc] s (State.touchAll s i addrs) := by
  unfold State.touchAll
  repeat' first
    | with_reducible exact Frame.refl
    | with_reducible refine Frame.foldl (fun _ _ => ?_) ?_
    | with_reducible apply Frame.via (Frame.grow (State.touch_frame ..) (by decide))
    | split

theorem State.dropWalked_frame (s : State) (x : XCtx) :
    Frame [.walked] s (State.dropWalked s x) := by
  unfold State.dropWalked
  try dsimp only
  repeat' first
    | with_reducible exact Frame.refl
    | split
    | ((with_reducible refine Frame.flds ?_ ?_); (case refine_1 => (intro p hp; cases p <;> first | rfl | exact absurd (by decide) hp)))

theorem State.dropWalks_frame (s : State) (x : XCtx) :
    Frame [.walks, .walked] s (State.dropWalks s x) := by
  unfold State.dropWalks
  try dsimp only
  repeat' first
    | with_reducible exact Frame.refl
    | with_reducible apply Frame.via (Frame.grow (State.dropWalked_frame ..) (by decide))
    | split
    | ((with_reducible refine Frame.flds ?_ ?_); (case refine_1 => (intro p hp; cases p <;> first | rfl | exact absurd (by decide) hp)))

theorem State.cacheLeaf_frame (s : State) (r : Nat) (l : Leaf) :
    Frame [.cc] s (State.cacheLeaf s r l) := by
  unfold State.cacheLeaf
  try dsimp only
  repeat' first
    | with_reducible exact Frame.refl
    | split
    | ((with_reducible refine Frame.flds ?_ ?_); (case refine_1 => (intro p hp; cases p <;> first | rfl | exact absurd (by decide) hp)))

theorem State.walkEnds_frame (s : State) (w : Walk) (leaf : Option Leaf) (cause : Nat) :
    Frame [.cc, .walks, .walked] s (State.walkEnds s w leaf cause) := by
  unfold State.walkEnds
  try dsimp only
  repeat' first
    | with_reducible exact Frame.refl
    | with_reducible apply Frame.via (Frame.grow (State.cacheLeaf_frame ..) (by decide))
    | split
    | ((with_reducible refine Frame.flds ?_ ?_); (case refine_1 => (intro p hp; cases p <;> first | rfl | exact absurd (by decide) hp)))

theorem State.walkData_frame (s : State) (x : XCtx) (va : Nat) (e : Option Word) :
    Frame [.cc, .walks, .walked] s (State.walkData s x va e) := by
  unfold State.walkData
  try dsimp only
  repeat' first
    | with_reducible exact Frame.refl
    | with_reducible apply Frame.via (Frame.grow (State.walkEnds_frame ..) (by decide))
    | split
    | ((with_reducible refine Frame.flds ?_ ?_); (case refine_1 => (intro p hp; cases p <;> first | rfl | exact absurd (by decide) hp)))

/-! ### Port -/

theorem State.logAccess_frame (s : State) (i va : Nat) :
    Frame [.clk, .glb, .flt, .logc] s (State.logAccess s i va) := by
  unfold State.logAccess
  try dsimp only
  repeat' first
    | with_reducible exact Frame.refl
    | with_reducible apply Frame.via (Frame.grow (State.raise_frame ..) (by decide))
    | with_reducible apply Frame.via (Frame.grow (State.noteSet_frame ..) (by decide))
    | split
    | ((with_reducible refine Frame.flds ?_ ?_); (case refine_1 => (intro p hp; cases p <;> first | rfl | exact absurd (by decide) hp)))

theorem State.logWaits_frame (s : State) (i : Nat) :
    Frame [.glb, .flt] s (State.logWaits s i) := by
  unfold State.logWaits
  with_reducible apply Frame.via (Frame.grow (State.raise_frame ..) (by decide))
  refine State.unlessWritten_frame Frame.refl ?_
  intro p hp
  cases p <;> first | rfl | exact absurd (by decide) hp

theorem State.issueRead_frame (s : State) (c : Nat) (owner : Owner) (inst gen : Nat) (q : Req) (top : Bool) (k : Acct) :
    Frame [.gls, .ports] s (State.issueRead s c owner inst gen q top k) := by
  unfold State.issueRead
  try dsimp only
  repeat' first
    | with_reducible exact Frame.refl
    | with_reducible apply Frame.via (Frame.grow (State.updAcc_frame ..) (by decide))
    | with_reducible apply Frame.via (Frame.grow (State.updPort_frame ..) (by decide))
    | split

theorem State.issueWrite_frame (s : State) (c : Nat) (owner : Owner) (inst gen : Nat) (q : Req) (top : Bool) (k : Acct) (data : List Byte) (poison : List Nat) :
    Frame [.gls, .ports] s (State.issueWrite s c owner inst gen q top k data poison) := by
  unfold State.issueWrite
  try dsimp only
  repeat' first
    | with_reducible exact Frame.refl
    | with_reducible apply Frame.via (Frame.grow (State.updAcc_frame ..) (by decide))
    | with_reducible apply Frame.via (Frame.grow (State.updPort_frame ..) (by decide))
    | split

theorem State.countFab_frame (s : State) (f : Nat) (sent firm : Bool) (n : Nat) :
    Frame [.gls] s (State.countFab s f sent firm n) := by
  unfold State.countFab
  try dsimp only
  repeat' first
    | with_reducible exact Frame.refl
    | with_reducible apply Frame.via (Frame.grow (State.updFabAcc_frame ..) (by decide))
    | split

theorem State.issueSpan_frame (s : State) (f : Nat) (owner : Owner) (write : Bool) (inst gen : Nat) (q : Req) (cls : ArbClass) (cluster : Nat) (data : List Byte) (poison : Nat) :
    Frame [.gls, .fabs] s (State.issueSpan s f owner write inst gen q cls cluster data poison) := by
  unfold State.issueSpan
  try dsimp only
  repeat' first
    | with_reducible exact Frame.refl
    | with_reducible apply Frame.via (Frame.grow (State.countFab_frame ..) (by decide))
    | with_reducible apply Frame.via (Frame.grow (State.updFab_frame ..) (by decide))
    | split

/-! ### Hold -/

theorem State.charge_frame (s : State) (i c : Nat) (k : Charge) (bytes : Nat) (span : List (Nat × Nat × Nat)) :
    Frame [.insts] s (State.charge s i c k bytes span) := by
  unfold State.charge
  try dsimp only
  repeat' first
    | with_reducible exact Frame.refl
    | with_reducible apply Frame.via (Frame.grow (State.updInst_frame ..) (by decide))
    | split

theorem State.cancelRecs_frame (s : State) (g seq : Nat) :
    Frame [.queues, .ports, .walks, .walked] s (State.cancelRecs s g seq) := by
  unfold State.cancelRecs
  try dsimp only
  repeat' first
    | with_reducible exact Frame.refl
    | with_reducible apply Frame.via (Frame.grow (State.dropWalks_frame ..) (by decide))
    | with_reducible apply Frame.via (Frame.grow (State.updEntry_frame ..) (by decide))
    | with_reducible apply Frame.via (Frame.grow (State.updPort_frame ..) (by decide))
    | split

theorem State.manStops_frame (s : State) (g seq : Nat) (x : Stop) :
    Frame [.flt, .queues, .ports, .walks, .walked] s (State.manStops s g seq x) := by
  unfold State.manStops
  repeat' first
    | with_reducible exact Frame.refl
    | with_reducible apply Frame.via (Frame.grow (State.cancelRecs_frame ..) (by decide))
    | with_reducible apply Frame.via (Frame.grow (State.raise_frame ..) (by decide))
    | with_reducible apply Frame.via (Frame.grow (State.updEntry_frame ..) (by decide))
    | split

theorem State.settleMan_frame (s : State) (g : Nat) :
    Frame [.flt, .queues, .ports, .walks, .walked] s (State.settleMan s g) := by
  unfold State.settleMan
  repeat' first
    | with_reducible exact Frame.refl
    | with_reducible apply Frame.via (Frame.grow (State.manStops_frame ..) (by decide))
    | split

theorem State.assign_frame (s : State) (f : Frag) :
    Frame [.flt, .insts, .queues, .chans, .engs, .frags, .nextId, .hold, .ports, .walks, .walked] s (State.assign s f) := by
  unfold State.assign
  try dsimp only
  repeat' first
    | with_reducible exact Frame.refl
    | with_reducible apply Frame.via (Frame.grow (State.settleMan_frame ..) (by decide))
    | with_reducible apply Frame.via (Frame.grow (State.charge_frame ..) (by decide))
    | with_reducible apply Frame.via (Frame.grow (State.updEntry_frame ..) (by decide))
    | with_reducible apply Frame.via (Frame.grow (State.updPort_frame ..) (by decide))
    | with_reducible apply Frame.via (Frame.grow (State.updEng_frame ..) (by decide))
    | with_reducible apply Frame.via (Frame.grow (State.updChan_frame ..) (by decide))
    | split
    | ((with_reducible refine Frame.flds ?_ ?_); (case refine_1 => (intro p hp; cases p <;> first | rfl | exact absurd (by decide) hp)))

theorem doDispatch_frame (s : State) (c : Nat) :
    Frame [.flt, .insts, .queues, .chans, .engs, .frags, .nextId, .hold, .ports, .walks, .walked] s (doDispatch c s) := by
  unfold doDispatch
  repeat' first
    | with_reducible exact Frame.refl
    | with_reducible apply Frame.via (Frame.grow (State.assign_frame ..) (by decide))
    | split

/-! ### Channel -/

theorem State.chEvent_frame (s : State) (n code : Nat) (load : List Byte) :
    Frame [.flt, .insts] s (State.chEvent s n code load) := by
  unfold State.chEvent
  repeat' first
    | with_reducible exact Frame.refl
    | with_reducible apply Frame.via (Frame.grow (State.post_frame ..) (by decide))
    | split

theorem State.chDone_frame (s : State) (n : Nat) :
    Frame [.flt, .insts, .chans] s (State.chDone s n) := by
  unfold State.chDone
  try dsimp only
  repeat' first
    | with_reducible exact Frame.refl
    | with_reducible apply Frame.via (Frame.grow (State.chEvent_frame ..) (by decide))
    | with_reducible apply Frame.via (Frame.grow (State.updChan_frame ..) (by decide))
    | split

theorem State.chIdle_frame (s : State) (n endc : Nat) :
    Frame [.flt, .insts, .chans] s (State.chIdle s n endc) := by
  unfold State.chIdle
  try dsimp only
  repeat' first
    | with_reducible exact Frame.refl
    | with_reducible apply Frame.via (Frame.grow (State.chEvent_frame ..) (by decide))
    | with_reducible apply Frame.via (Frame.grow (State.updChan_frame ..) (by decide))
    | split

theorem State.chError_frame (s : State) (n err : Nat) :
    Frame [.flt, .insts, .chans] s (State.chError s n err) := by
  unfold State.chError
  try dsimp only
  repeat' first
    | with_reducible exact Frame.refl
    | with_reducible apply Frame.via (Frame.grow (State.chEvent_frame ..) (by decide))
    | with_reducible apply Frame.via (Frame.grow (State.updChan_frame ..) (by decide))
    | split

theorem State.badDesc_frame (s : State) (n : Nat) :
    Frame [.flt, .insts, .chans] s (State.badDesc s n) := by
  unfold State.badDesc
  try dsimp only
  repeat' first
    | with_reducible exact Frame.refl
    | with_reducible apply Frame.via (Frame.grow (State.chError_frame ..) (by decide))
    | with_reducible apply Frame.via (Frame.grow (State.raise_frame ..) (by decide))
    | with_reducible apply Frame.via (Frame.grow (State.updChan_frame ..) (by decide))
    | split

theorem State.goOn_frame (s : State) (n : Nat) (next : Chan → ChState) :
    Frame [.chans] s (State.goOn s n next) := by
  unfold State.goOn
  try dsimp only
  repeat' first
    | with_reducible exact Frame.refl
    | with_reducible apply Frame.via (Frame.grow (State.updChan_frame ..) (by decide))
    | split

theorem State.promote_frame (s : State) (n : Nat) :
    Frame [.flt, .insts, .chans] s (State.promote s n) := by
  unfold State.promote
  try dsimp only
  repeat' first
    | with_reducible exact Frame.refl
    | with_reducible apply Frame.via (Frame.grow (State.goOn_frame ..) (by decide))
    | with_reducible apply Frame.via (Frame.grow (State.badDesc_frame ..) (by decide))
    | with_reducible apply Frame.via (Frame.grow (State.updChan_frame ..) (by decide))
    | split

theorem State.afterTransfer_frame (s : State) (n : Nat) :
    Frame [.flt, .insts, .chans] s (State.afterTransfer s n) := by
  unfold State.afterTransfer
  try dsimp only
  repeat' first
    | with_reducible exact Frame.refl
    | with_reducible apply Frame.via (Frame.grow (State.promote_frame ..) (by decide))
    | with_reducible apply Frame.via (Frame.grow (State.goOn_frame ..) (by decide))
    | with_reducible apply Frame.via (Frame.grow (State.chError_frame ..) (by decide))
    | with_reducible apply Frame.via (Frame.grow (State.chIdle_frame ..) (by decide))
    | with_reducible apply Frame.via (Frame.grow (State.updChan_frame ..) (by decide))
    | split

theorem State.chCount_frame (s : State) (n : Nat) (f : Chan → Chan) :
    Frame [.chans] s (State.chCount s n f) := by
  unfold State.chCount
  repeat' first
    | with_reducible exact Frame.refl
    | with_reducible apply Frame.via (Frame.grow (State.updChan_frame ..) (by decide))
    | split
    | with_reducible refine State.unlessWritten_frame ?_ ?_

theorem State.countTransfer_frame (s : State) (n : Nat) :
    Frame [.flt, .insts, .chans] s (State.countTransfer s n) := by
  unfold State.countTransfer
  try dsimp only
  repeat' first
    | with_reducible exact Frame.refl
    | with_reducible apply Frame.via (Frame.grow (State.chCount_frame ..) (by decide))
    | with_reducible apply Frame.via (Frame.grow (State.chDone_frame ..) (by decide))
    | split

theorem State.transferDone_frame (s : State) (n : Nat) :
    Frame [.flt, .insts, .chans] s (State.transferDone s n) := by
  unfold State.transferDone
  repeat' first
    | with_reducible exact Frame.refl
    | with_reducible apply Frame.via (Frame.grow (State.countTransfer_frame ..) (by decide))
    | with_reducible apply Frame.via (Frame.grow (State.afterTransfer_frame ..) (by decide))
    | split

theorem State.asCalled_frame (s : State) (n : Nat) :
    Frame [.flt, .insts, .chans] s (State.asCalled s n) := by
  unfold State.asCalled
  try dsimp only
  repeat' first
    | with_reducible exact Frame.refl
    | with_reducible apply Frame.via (Frame.grow (State.afterTransfer_frame ..) (by decide))
    | with_reducible apply Frame.via (Frame.grow (State.badDesc_frame ..) (by decide))
    | with_reducible apply Frame.via (Frame.grow (State.updChan_frame ..) (by decide))
    | split

theorem State.fetchFails_frame (s : State) (n err stat source : Nat) :
    Frame [.flt, .insts, .chans] s (State.fetchFails s n err stat source) := by
  unfold State.fetchFails
  try dsimp only
  repeat' first
    | with_reducible exact Frame.refl
    | with_reducible apply Frame.via (Frame.grow (State.afterTransfer_frame ..) (by decide))
    | with_reducible apply Frame.via (Frame.grow (State.raise_frame ..) (by decide))
    | with_reducible apply Frame.via (Frame.grow (State.updChan_frame ..) (by decide))
    | split

theorem State.fetchData_frame (s : State) (n : Nat) (d : List Byte) :
    Frame [.flt, .insts, .chans] s (State.fetchData s n d) := by
  unfold State.fetchData
  try dsimp only
  repeat' first
    | with_reducible exact Frame.refl
    | with_reducible apply Frame.via (Frame.grow (State.fetchFails_frame ..) (by decide))
    | with_reducible apply Frame.via (Frame.grow (State.promote_frame ..) (by decide))
    | with_reducible apply Frame.via (Frame.grow (State.updChan_frame ..) (by decide))
    | split

theorem State.disown_frame (s : State) (mine : Owner → Bool) (owner : Owner) :
    Frame [.ports, .fabs] s (State.disown s mine owner) := by
  unfold State.disown
  try dsimp only
  repeat' first
    | with_reducible exact Frame.refl
    | split
    | ((with_reducible refine Frame.flds ?_ ?_); (case refine_1 => (intro p hp; cases p <;> first | rfl | exact absurd (by decide) hp)))

theorem State.retireFetch_frame (s : State) (n : Fin 512) :
    Frame [.chans, .ports, .fabs, .walks, .walked] s (State.retireFetch s n) := by
  unfold State.retireFetch
  try dsimp only
  repeat' first
    | with_reducible exact Frame.refl
    | with_reducible apply Frame.via (Frame.grow (State.disown_frame ..) (by decide))
    | with_reducible apply Frame.via (Frame.grow (State.dropWalks_frame ..) (by decide))
    | with_reducible apply Frame.via (Frame.grow (State.updChan_frame ..) (by decide))
    | split

theorem State.discardBursts_frame (s : State) (n : Nat) :
    Frame [.chans, .frags, .walks, .walked] s (State.discardBursts s n) := by
  unfold State.discardBursts
  try dsimp only
  repeat' first
    | with_reducible exact Frame.refl
    | with_reducible refine Frame.foldl (fun _ _ => ?_) ?_
    | with_reducible apply Frame.via (Frame.grow (State.dropWalks_frame ..) (by decide))
    | with_reducible apply Frame.via (Frame.grow (State.updChan_frame ..) (by decide))
    | split
    | ((with_reducible refine Frame.flds ?_ ?_); (case refine_1 => (intro p hp; cases p <;> first | rfl | exact absurd (by decide) hp)))

theorem State.drained_frame (s : State) (n : Nat) :
    Frame [.flt, .insts, .chans] s (State.drained s n) := by
  unfold State.drained
  try dsimp only
  repeat' first
    | with_reducible exact Frame.refl
    | with_reducible apply Frame.via (Frame.grow (State.asCalled_frame ..) (by decide))
    | with_reducible apply Frame.via (Frame.grow (State.chError_frame ..) (by decide))
    | with_reducible apply Frame.via (Frame.grow (State.chIdle_frame ..) (by decide))
    | with_reducible apply Frame.via (Frame.grow (State.updChan_frame ..) (by decide))
    | split

theorem State.ifDrained_frame (s : State) (n : Nat) :
    Frame [.flt, .insts, .chans] s (State.ifDrained s n) := by
  unfold State.ifDrained
  repeat' first
    | with_reducible exact Frame.refl
    | with_reducible apply Frame.via (Frame.grow (State.drained_frame ..) (by decide))
    | split

theorem State.burstOk_frame (s : State) (n : Nat) (f : Frag) :
    Frame [.flt, .insts, .chans] s (State.burstOk s n f) := by
  unfold State.burstOk
  try dsimp only
  repeat' first
    | with_reducible exact Frame.refl
    | with_reducible apply Frame.via (Frame.grow (State.ifDrained_frame ..) (by decide))
    | with_reducible apply Frame.via (Frame.grow (State.transferDone_frame ..) (by decide))
    | with_reducible apply Frame.via (Frame.grow (State.countTransfer_frame ..) (by decide))
    | with_reducible apply Frame.via (Frame.grow (State.chCount_frame ..) (by decide))
    | with_reducible apply Frame.via (Frame.grow (State.updChan_frame ..) (by decide))
    | split

theorem State.burstFailed_frame (s : State) (n : Nat) (f : Frag) (err side stat : Nat) (out late : Bool) :
    Frame [.flt, .insts, .chans] s (State.burstFailed s n f err side stat out late) := by
  unfold State.burstFailed
  try dsimp only
  repeat' first
    | with_reducible exact Frame.refl
    | with_reducible apply Frame.via (Frame.grow (State.ifDrained_frame ..) (by decide))
    | with_reducible apply Frame.via (Frame.grow (State.updChan_frame ..) (by decide))
    | split

theorem State.chStart_frame (s : State) (n : Nat) :
    Frame [.flt, .insts, .chans] s (State.chStart s n) := by
  unfold State.chStart
  try dsimp only
  repeat' first
    | with_reducible exact Frame.refl
    | with_reducible apply Frame.via (Frame.grow (State.promote_frame ..) (by decide))
    | with_reducible apply Frame.via (Frame.grow (State.goOn_frame ..) (by decide))
    | with_reducible apply Frame.via (Frame.grow (State.badDesc_frame ..) (by decide))
    | with_reducible apply Frame.via (Frame.grow (State.updChan_frame ..) (by decide))
    | split

theorem State.chHalt_frame (s : State) (n : Fin 512) (wish : StopWish) :
    Frame [.flt, .insts, .chans, .frags, .ports, .fabs, .walks, .walked] s (State.chHalt s n wish) := by
  unfold State.chHalt
  try dsimp only
  repeat' first
    | with_reducible exact Frame.refl
    | with_reducible apply Frame.via (Frame.grow (State.ifDrained_frame ..) (by decide))
    | with_reducible apply Frame.via (Frame.grow (State.discardBursts_frame ..) (by decide))
    | with_reducible apply Frame.via (Frame.grow (State.retireFetch_frame ..) (by decide))
    | with_reducible apply Frame.via (Frame.grow (State.chIdle_frame ..) (by decide))
    | with_reducible apply Frame.via (Frame.grow (State.updChan_frame ..) (by decide))
    | split

theorem State.chStop_frame (s : State) (n : Fin 512) :
    Frame [.flt, .insts, .chans, .frags, .ports, .fabs, .walks, .walked] s (State.chStop s n) := by
  unfold State.chStop
  repeat' first
    | with_reducible exact Frame.refl
    | with_reducible apply Frame.via (Frame.grow (State.chHalt_frame ..) (by decide))
    | split

theorem State.chContain_frame (s : State) (n : Fin 512) :
    Frame [.flt, .insts, .chans, .frags, .ports, .fabs, .walks, .walked] s (State.chContain s n) := by
  unfold State.chContain
  try dsimp only
  repeat' first
    | with_reducible exact Frame.refl
    | with_reducible apply Frame.via (Frame.grow (State.chHalt_frame ..) (by decide))
    | with_reducible apply Frame.via (Frame.grow (State.retireFetch_frame ..) (by decide))
    | with_reducible apply Frame.via (Frame.grow (State.chError_frame ..) (by decide))
    | with_reducible apply Frame.via (Frame.grow (State.updChan_frame ..) (by decide))
    | split

theorem State.chLoad_frame (s : State) (n : Nat) :
    Frame [.flt, .insts, .chans, .ports, .fabs, .walks, .walked] s (State.chLoad s n) := by
  unfold State.chLoad
  try dsimp only
  repeat' first
    | with_reducible exact Frame.refl
    | with_reducible apply Frame.via (Frame.grow (State.retireFetch_frame ..) (by decide))
    | with_reducible apply Frame.via (Frame.grow (State.promote_frame ..) (by decide))
    | with_reducible apply Frame.via (Frame.grow (State.updChan_frame ..) (by decide))
    | split

theorem State.chDrop_frame (s : State) (n : Nat) :
    Frame [.chans] s (State.chDrop s n) := by
  unfold State.chDrop
  try dsimp only
  repeat' first
    | with_reducible exact Frame.refl
    | with_reducible apply Frame.via (Frame.grow (State.updChan_frame ..) (by decide))
    | split

theorem State.chHold_frame (s : State) (n : Nat) :
    Frame [.chans] s (State.chHold s n) := by
  unfold State.chHold
  try dsimp only
  repeat' first
    | with_reducible exact Frame.refl
    | with_reducible apply Frame.via (Frame.grow (State.updChan_frame ..) (by decide))
    | split

theorem State.chResume_frame (s : State) (n : Nat) :
    Frame [.flt, .insts, .chans] s (State.chResume s n) := by
  unfold State.chResume
  repeat' first
    | with_reducible exact Frame.refl
    | with_reducible apply Frame.via (Frame.grow (State.asCalled_frame ..) (by decide))
    | split

theorem State.pauseActs_frame (s : State) (n : Nat) :
    Frame [.flt, .insts, .chans] s (State.pauseActs s n) := by
  unfold State.pauseActs
  repeat' first
    | with_reducible exact Frame.refl
    | with_reducible apply Frame.via (Frame.grow (State.chResume_frame ..) (by decide))
    | with_reducible apply Frame.via (Frame.grow (State.chHold_frame ..) (by decide))
    | split

theorem State.chCmd_frame (s : State) (n : Nat) (all : Bool) (v : Word) :
    Frame [.flt, .insts, .chans, .frags, .ports, .fabs, .walks, .walked] s (State.chCmd s n all v) := by
  unfold State.chCmd
  try dsimp only
  repeat' first
    | with_reducible exact Frame.refl
    | with_reducible apply Frame.via (Frame.grow (State.chDrop_frame ..) (by decide))
    | with_reducible apply Frame.via (Frame.grow (State.chLoad_frame ..) (by decide))
    | with_reducible apply Frame.via (Frame.grow (State.chStop_frame ..) (by decide))
    | with_reducible apply Frame.via (Frame.grow (State.chStart_frame ..) (by decide))
    | split

theorem State.chLevel_frame (s : State) (n level : Nat) :
    Frame [.chans] s (State.chLevel s n level) := by
  unfold State.chLevel
  try dsimp only
  repeat' first
    | with_reducible exact Frame.refl
    | with_reducible apply Frame.via (Frame.grow (State.updChan_frame ..) (by decide))
    | split

/-! ### Engine -/

theorem State.burstEnds_frame (s : State) (n : Nat) (f : Frag) :
    Frame [.flt, .insts, .chans] s (State.burstEnds s n f) := by
  unfold State.burstEnds
  try dsimp only
  repeat' first
    | with_reducible exact Frame.refl
    | with_reducible apply Frame.via (Frame.grow (State.burstFailed_frame ..) (by decide))
    | with_reducible apply Frame.via (Frame.grow (State.burstOk_frame ..) (by decide))
    | with_reducible apply Frame.via (Frame.grow (State.ifDrained_frame ..) (by decide))
    | split

theorem State.endFrag_frame (s : State) (id : Nat) :
    Frame [.flt, .insts, .queues, .chans, .frags, .ports, .walks, .walked] s (State.endFrag s id) := by
  unfold State.endFrag
  try dsimp only
  repeat' first
    | with_reducible exact Frame.refl
    | with_reducible apply Frame.via (Frame.grow (State.burstEnds_frame ..) (by decide))
    | with_reducible apply Frame.via (Frame.grow (State.cancelRecs_frame ..) (by decide))
    | with_reducible apply Frame.via (Frame.grow (State.dropWalks_frame ..) (by decide))
    | with_reducible apply Frame.via (Frame.grow (State.updEntry_frame ..) (by decide))
    | with_reducible apply Frame.via (Frame.grow (State.dropFrag_frame ..) (by decide))
    | split

theorem State.readsOver_frame (s : State) (id : Nat) :
    Frame [.flt, .insts, .queues, .chans, .frags, .ports, .walks, .walked] s (State.readsOver s id) := by
  unfold State.readsOver
  try dsimp only
  repeat' first
    | with_reducible exact Frame.refl
    | with_reducible apply Frame.via (Frame.grow (State.endFrag_frame ..) (by decide))
    | with_reducible apply Frame.via (Frame.grow (State.updFrag_frame ..) (by decide))
    | split

theorem State.writesOver_frame (s : State) (id : Nat) :
    Frame [.flt, .insts, .queues, .chans, .frags, .ports, .walks, .walked] s (State.writesOver s id) := by
  unfold State.writesOver
  try dsimp only
  repeat' first
    | with_reducible exact Frame.refl
    | with_reducible apply Frame.via (Frame.grow (State.endFrag_frame ..) (by decide))
    | with_reducible apply Frame.via (Frame.grow (State.updFrag_frame ..) (by decide))
    | split

theorem State.admitFrag_frame (s : State) (f : Frag) (k : Charge) :
    Frame [.insts, .frags, .nextId, .cc, .walked] s (State.admitFrag s f k) := by
  unfold State.admitFrag
  try dsimp only
  repeat' first
    | with_reducible exact Frame.refl
    | with_reducible apply Frame.via (Frame.grow (State.charge_frame ..) (by decide))
    | with_reducible apply Frame.via (Frame.grow (State.dropWalked_frame ..) (by decide))
    | with_reducible apply Frame.via (Frame.grow (State.touchAll_frame ..) (by decide))
    | with_reducible apply Frame.via (Frame.grow (State.updFrag_frame ..) (by decide))
    | split
    | ((with_reducible refine Frame.flds ?_ ?_); (case refine_1 => (intro p hp; cases p <;> first | rfl | exact absurd (by decide) hp)))

theorem State.unassign_frame (s : State) (f : Frag) :
    Frame [.queues, .chans] s (State.unassign s f) := by
  unfold State.unassign
  try dsimp only
  repeat' first
    | with_reducible exact Frame.refl
    | with_reducible apply Frame.via (Frame.grow (State.updEntry_frame ..) (by decide))
    | with_reducible apply Frame.via (Frame.grow (State.updChan_frame ..) (by decide))
    | split

theorem State.giveBack_frame (s : State) (f : Frag) :
    Frame [.flt, .insts, .queues, .chans, .frags, .walks, .walked] s (State.giveBack s f) := by
  unfold State.giveBack
  try dsimp only
  repeat' first
    | with_reducible exact Frame.refl
    | with_reducible refine Frame.foldl (fun _ _ => ?_) ?_
    | with_reducible apply Frame.via (Frame.grow (State.unassign_frame ..) (by decide))
    | with_reducible apply Frame.via (Frame.grow (State.ifDrained_frame ..) (by decide))
    | with_reducible apply Frame.via (Frame.grow (State.dropWalks_frame ..) (by decide))
    | split
    | ((with_reducible refine Frame.flds ?_ ?_); (case refine_1 => (intro p hp; cases p <;> first | rfl | exact absurd (by decide) hp)))

theorem State.fragXfail_frame (s : State) (f : Frag) (dst : Bool) (cause : Nat) :
    Frame [.flt, .insts, .queues, .chans, .frags, .ports, .walks, .walked] s (State.fragXfail s f dst cause) := by
  unfold State.fragXfail
  try dsimp only
  repeat' first
    | with_reducible exact Frame.refl
    | with_reducible apply Frame.via (Frame.grow (State.endFrag_frame ..) (by decide))
    | with_reducible apply Frame.via (Frame.grow (State.raiseAt_frame ..) (by decide))
    | with_reducible apply Frame.via (Frame.grow (State.updFrag_frame ..) (by decide))
    | split

theorem State.fragNoLink_frame (s : State) (f : Frag) (dst : Bool) :
    Frame [.flt, .insts, .queues, .chans, .frags, .ports, .walks, .walked] s (State.fragNoLink s f dst) := by
  unfold State.fragNoLink
  try dsimp only
  repeat' first
    | with_reducible exact Frame.refl
    | with_reducible apply Frame.via (Frame.grow (State.endFrag_frame ..) (by decide))
    | with_reducible apply Frame.via (Frame.grow (State.raiseAt_frame ..) (by decide))
    | with_reducible apply Frame.via (Frame.grow (State.updFrag_frame ..) (by decide))
    | split

theorem State.fragRead_frame (s : State) (id : Nat) :
    Frame [.gls, .insts, .chans, .frags, .ports, .fabs] s (State.fragRead s id) := by
  unfold State.fragRead
  try dsimp only
  repeat' first
    | with_reducible exact Frame.refl
    | with_reducible apply Frame.via (Frame.grow (State.charge_frame ..) (by decide))
    | with_reducible apply Frame.via (Frame.grow (State.issueSpan_frame ..) (by decide))
    | with_reducible apply Frame.via (Frame.grow (State.issueRead_frame ..) (by decide))
    | with_reducible apply Frame.via (Frame.grow (State.updFrag_frame ..) (by decide))
    | with_reducible apply Frame.via (Frame.grow (State.updChan_frame ..) (by decide))
    | split

theorem State.outParity_frame (s : State) (f : Frag) (va : Nat) (par : OutPar) :
    Frame [.flt, .frags, .ports] s (State.outParity s f va par) := by
  unfold State.outParity
  try dsimp only
  repeat' first
    | with_reducible exact Frame.refl
    | with_reducible apply Frame.via (Frame.grow (State.raiseAt_frame ..) (by decide))
    | with_reducible apply Frame.via (Frame.grow (State.updFrag_frame ..) (by decide))
    | with_reducible apply Frame.via (Frame.grow (State.updPort_frame ..) (by decide))
    | split
    | with_reducible refine State.unlessWritten_frame ?_ ?_

theorem State.fragWrite_frame (s : State) (id : Nat) (par : List (Nat × OutPar)) :
    Frame [.clk, .glb, .gls, .flt, .insts, .queues, .chans, .frags, .ports, .fabs, .walks, .walked, .logc] s (State.fragWrite s id par) := by
  unfold State.fragWrite
  try dsimp only
  repeat' first
    | with_reducible exact Frame.refl
    | with_reducible refine Frame.foldl (fun _ _ => ?_) ?_
    | with_reducible apply Frame.via (Frame.grow (State.outParity_frame ..) (by decide))
    | with_reducible apply Frame.via (Frame.grow (State.writesOver_frame ..) (by decide))
    | with_reducible apply Frame.via (Frame.grow (State.chDone_frame ..) (by decide))
    | with_reducible apply Frame.via (Frame.grow (State.charge_frame ..) (by decide))
    | with_reducible apply Frame.via (Frame.grow (State.issueSpan_frame ..) (by decide))
    | with_reducible apply Frame.via (Frame.grow (State.issueWrite_frame ..) (by decide))
    | with_reducible apply Frame.via (Frame.grow (State.logAccess_frame ..) (by decide))
    | with_reducible apply Frame.via (Frame.grow (State.updEntry_frame ..) (by decide))
    | with_reducible apply Frame.via (Frame.grow (State.updFrag_frame ..) (by decide))
    | with_reducible apply Frame.via (Frame.grow (State.updChan_frame ..) (by decide))
    | split

theorem State.placeBytes_frame (s : State) (f : Frag) (off : Nat) (data : List Byte) (bad : List Nat) :
    Frame [.frags, .hold] s (State.placeBytes s f off data bad) := by
  unfold State.placeBytes
  try dsimp only
  repeat' first
    | with_reducible exact Frame.refl
    | with_reducible refine Frame.foldl (fun _ _ => ?_) ?_
    | with_reducible apply Frame.via (Frame.grow (State.updFrag_frame ..) (by decide))
    | split
    | ((with_reducible refine Frame.flds ?_ ?_); (case refine_1 => (intro p hp; cases p <;> first | rfl | exact absurd (by decide) hp)))

theorem State.fragSrcFails_frame (s : State) (f : Frag) (code stat source : Nat) :
    Frame [.flt, .insts, .frags] s (State.fragSrcFails s f code stat source) := by
  unfold State.fragSrcFails
  try dsimp only
  repeat' first
    | with_reducible exact Frame.refl
    | with_reducible apply Frame.via (Frame.grow (State.fvCount_frame ..) (by decide))
    | with_reducible apply Frame.via (Frame.grow (State.raiseAt_frame ..) (by decide))
    | with_reducible apply Frame.via (Frame.grow (State.updFrag_frame ..) (by decide))
    | split

theorem State.fragDstFails_frame (s : State) (f : Frag) (code stat source : Nat) :
    Frame [.flt, .insts, .frags] s (State.fragDstFails s f code stat source) := by
  unfold State.fragDstFails
  try dsimp only
  repeat' first
    | with_reducible exact Frame.refl
    | with_reducible apply Frame.via (Frame.grow (State.fvCount_frame ..) (by decide))
    | with_reducible apply Frame.via (Frame.grow (State.raiseAt_frame ..) (by decide))
    | with_reducible apply Frame.via (Frame.grow (State.updFrag_frame ..) (by decide))
    | split

theorem State.fragReadEnds_frame (s : State) (id : Nat) :
    Frame [.flt, .insts, .queues, .chans, .frags, .ports, .walks, .walked] s (State.fragReadEnds s id) := by
  unfold State.fragReadEnds
  try dsimp only
  repeat' first
    | with_reducible exact Frame.refl
    | with_reducible apply Frame.via (Frame.grow (State.readsOver_frame ..) (by decide))
    | with_reducible apply Frame.via (Frame.grow (State.updFrag_frame ..) (by decide))
    | split

theorem State.fragWriteEnds_frame (s : State) (id : Nat) :
    Frame [.flt, .insts, .queues, .chans, .frags, .ports, .walks, .walked] s (State.fragWriteEnds s id) := by
  unfold State.fragWriteEnds
  try dsimp only
  repeat' first
    | with_reducible exact Frame.refl
    | with_reducible apply Frame.via (Frame.grow (State.writesOver_frame ..) (by decide))
    | with_reducible apply Frame.via (Frame.grow (State.updFrag_frame ..) (by decide))
    | split

theorem State.stopFrag_frame (s : State) (id : Nat) (mark : Frag → Frag) :
    Frame [.flt, .insts, .queues, .chans, .frags, .ports, .walks, .walked] s (State.stopFrag s id mark) := by
  unfold State.stopFrag
  try dsimp only
  repeat' first
    | with_reducible exact Frame.refl
    | with_reducible apply Frame.via (Frame.grow (State.endFrag_frame ..) (by decide))
    | with_reducible apply Frame.via (Frame.grow (State.updFrag_frame ..) (by decide))
    | split

theorem State.haltEngine_frame (s : State) (e : Nat) :
    Frame [.flt, .insts, .queues, .chans, .engs, .frags, .ports, .walks, .walked] s (State.haltEngine s e) := by
  unfold State.haltEngine
  try dsimp only
  repeat' first
    | with_reducible exact Frame.refl
    | with_reducible refine Frame.foldl (fun _ _ => ?_) ?_
    | with_reducible apply Frame.via (Frame.grow (State.stopFrag_frame ..) (by decide))
    | with_reducible apply Frame.via (Frame.grow (State.updEng_frame ..) (by decide))
    | split

theorem doRelease_frame (s : State) (e : Nat) :
    Frame [.clk, .engs] s (doRelease e s) := by
  unfold doRelease
  try dsimp only
  repeat' first
    | with_reducible exact Frame.refl
    | with_reducible apply Frame.via (Frame.grow (State.noteWrite_frame ..) (by decide))
    | with_reducible apply Frame.via (Frame.grow (State.updEng_frame ..) (by decide))
    | split

theorem doClearDone_frame (s : State) (e : Nat) :
    Frame [.clk, .engs, .hold] s (doClearDone e s) := by
  unfold doClearDone
  try dsimp only
  repeat' first
    | with_reducible exact Frame.refl
    | with_reducible apply Frame.via (Frame.grow (State.noteSet_frame ..) (by decide))
    | with_reducible apply Frame.via (Frame.grow (State.updEng_frame ..) (by decide))
    | split
    | ((with_reducible refine Frame.flds ?_ ?_); (case refine_1 => (intro p hp; cases p <;> first | rfl | exact absurd (by decide) hp)))

/-! ### Queue -/

theorem State.qEvent_frame (s : State) (g : Nat) (q : Queue) (code : Nat) (load : List Byte) :
    Frame [.flt, .insts] s (State.qEvent s g q code load) := by
  unfold State.qEvent
  repeat' first
    | with_reducible exact Frame.refl
    | with_reducible apply Frame.via (Frame.grow (State.post_frame ..) (by decide))
    | split

theorem State.qOff_frame (s : State) (g : Nat) (q : Queue) :
    Frame [.flt, .insts, .queues] s (State.qOff s g q) := by
  unfold State.qOff
  try dsimp only
  repeat' first
    | with_reducible exact Frame.refl
    | with_reducible apply Frame.via (Frame.grow (State.qEvent_frame ..) (by decide))
    | with_reducible apply Frame.via (Frame.grow (State.updQueue_frame ..) (by decide))
    | split

theorem State.qSettled_frame (s : State) (g : Nat) :
    Frame [.flt, .insts, .queues] s (State.qSettled s g) := by
  unfold State.qSettled
  try dsimp only
  repeat' first
    | with_reducible exact Frame.refl
    | with_reducible apply Frame.via (Frame.grow (State.qOff_frame ..) (by decide))
    | with_reducible apply Frame.via (Frame.grow (State.updQueue_frame ..) (by decide))
    | split

theorem State.writeEnable_frame (s : State) (g : Nat) (en : Bool) :
    Frame [.flt, .insts, .queues] s (State.writeEnable s g en) := by
  unfold State.writeEnable
  try dsimp only
  repeat' first
    | with_reducible exact Frame.refl
    | with_reducible apply Frame.via (Frame.grow (State.qSettled_frame ..) (by decide))
    | with_reducible apply Frame.via (Frame.grow (State.updQueue_frame ..) (by decide))
    | split

theorem State.strictHalt_frame (s : State) (g : Nat) (cause status : Nat) (raw : List Byte) (xcause : Option Nat) :
    Frame [.flt, .insts, .queues] s (State.strictHalt s g cause status raw xcause) := by
  unfold State.strictHalt
  try dsimp only
  repeat' first
    | with_reducible exact Frame.refl
    | with_reducible apply Frame.via (Frame.grow (State.qEvent_frame ..) (by decide))
    | with_reducible apply Frame.via (Frame.grow (State.fvCount_frame ..) (by decide))
    | with_reducible apply Frame.via (Frame.grow (State.raise_frame ..) (by decide))
    | with_reducible apply Frame.via (Frame.grow (State.updQueue_frame ..) (by decide))
    | split

theorem State.pollFails_frame (s : State) (g : Nat) (xcause : Option Nat) :
    Frame [.flt, .insts, .queues] s (State.pollFails s g xcause) := by
  unfold State.pollFails
  try dsimp only
  repeat' first
    | with_reducible exact Frame.refl
    | with_reducible apply Frame.via (Frame.grow (State.strictHalt_frame ..) (by decide))
    | with_reducible apply Frame.via (Frame.grow (State.raise_frame ..) (by decide))
    | with_reducible apply Frame.via (Frame.grow (State.updQueue_frame ..) (by decide))
    | split

theorem State.pollData_frame (s : State) (g : Nat) (d : Option (List Byte)) :
    Frame [.flt, .insts, .queues] s (State.pollData s g d) := by
  unfold State.pollData
  try dsimp only
  repeat' first
    | with_reducible exact Frame.refl
    | with_reducible apply Frame.via (Frame.grow (State.pollFails_frame ..) (by decide))
    | with_reducible apply Frame.via (Frame.grow (State.strictHalt_frame ..) (by decide))
    | with_reducible apply Frame.via (Frame.grow (State.qSettled_frame ..) (by decide))
    | with_reducible apply Frame.via (Frame.grow (State.raise_frame ..) (by decide))
    | with_reducible apply Frame.via (Frame.grow (State.updQueue_frame ..) (by decide))
    | split

theorem State.retry_frame (s : State) (g : Nat) :
    Frame [.queues] s (State.retry s g) := by
  unfold State.retry
  try dsimp only
  repeat' first
    | with_reducible exact Frame.refl
    | with_reducible apply Frame.via (Frame.grow (State.updQueue_frame ..) (by decide))
    | split

theorem State.skip_frame (s : State) (g : Nat) :
    Frame [.queues] s (State.skip s g) := by
  unfold State.skip
  try dsimp only
  repeat' first
    | with_reducible exact Frame.refl
    | with_reducible apply Frame.via (Frame.grow (State.updQueue_frame ..) (by decide))
    | split

theorem State.settleBegins_frame (s : State) (i : Nat) :
    Frame [.insts] s (State.settleBegins s i) := by
  unfold State.settleBegins
  try dsimp only
  repeat' first
    | with_reducible exact Frame.refl
    | with_reducible apply Frame.via (Frame.grow (State.updInst_frame ..) (by decide))
    | split

theorem State.ovrIssued_frame (s : State) (g seq : Nat) :
    Frame [.flt, .insts, .queues] s (State.ovrIssued s g seq) := by
  unfold State.ovrIssued
  try dsimp only
  repeat' first
    | with_reducible exact Frame.refl
    | with_reducible apply Frame.via (Frame.grow (State.settleBegins_frame ..) (by decide))
    | with_reducible apply Frame.via (Frame.grow (State.qEvent_frame ..) (by decide))
    | with_reducible apply Frame.via (Frame.grow (State.updEntry_frame ..) (by decide))
    | split

theorem State.ovrDone_frame (s : State) (g seq : Nat) (ok : Bool) (xcause : Option Nat) :
    Frame [.flt, .insts, .queues] s (State.ovrDone s g seq ok xcause) := by
  unfold State.ovrDone
  try dsimp only
  repeat' first
    | with_reducible exact Frame.refl
    | with_reducible apply Frame.via (Frame.grow (State.qSettled_frame ..) (by decide))
    | with_reducible apply Frame.via (Frame.grow (State.dropped_frame ..) (by decide))
    | with_reducible apply Frame.via (Frame.grow (State.raise_frame ..) (by decide))
    | with_reducible apply Frame.via (Frame.grow (State.updQueue_frame ..) (by decide))
    | split

theorem doEnable_frame (s : State) (i l : Nat) (en : Bool) :
    Frame [.flt, .insts, .queues] s (doEnable i l en s) := by
  unfold doEnable
  repeat' first
    | with_reducible exact Frame.refl
    | with_reducible apply Frame.via (Frame.grow (State.writeEnable_frame ..) (by decide))
    | split
    | unfold onLocal

theorem doRetry_frame (s : State) (i l : Nat) :
    Frame [.queues] s (doRetry i l s) := by
  unfold doRetry
  repeat' first
    | with_reducible exact Frame.refl
    | with_reducible apply Frame.via (Frame.grow (State.retry_frame ..) (by decide))
    | split
    | unfold onLocal

theorem doSkip_frame (s : State) (i l : Nat) :
    Frame [.queues] s (doSkip i l s) := by
  unfold doSkip
  repeat' first
    | with_reducible exact Frame.refl
    | with_reducible apply Frame.via (Frame.grow (State.skip_frame ..) (by decide))
    | split
    | unfold onLocal

theorem State.setEnable_frame (s : State) (i l : Nat) (en : Bool) :
    Frame [.pwr, .flt, .insts, .queues] s (State.setEnable s i l en) := by
  unfold State.setEnable
  try dsimp only
  repeat' first
    | with_reducible exact Frame.refl
    | with_reducible apply Frame.via (Frame.grow (doEnable_frame ..) (by decide))
    | with_reducible apply Frame.via (Frame.grow (State.updQueue_frame ..) (by decide))
    | split
    | dsimp only
    | with_reducible refine State.steer_frame ?_ ?_ (by decide)
    | unfold onLocal

theorem State.setRelease_frame (s : State) (i l : Nat) (skip : Bool) :
    Frame [.pwr, .queues] s (State.setRelease s i l skip) := by
  unfold State.setRelease
  repeat' first
    | with_reducible exact Frame.refl
    | with_reducible apply Frame.via (Frame.grow (doSkip_frame ..) (by decide))
    | with_reducible apply Frame.via (Frame.grow (doRetry_frame ..) (by decide))
    | with_reducible apply Frame.via (Frame.grow (State.skip_frame ..) (by decide))
    | split
    | with_reducible refine State.steer_frame ?_ ?_ (by decide)

theorem State.pollDue_frame (s : State) (g : Nat) :
    Frame [.queues] s (State.pollDue s g) := by
  unfold State.pollDue
  try dsimp only
  repeat' first
    | with_reducible exact Frame.refl
    | with_reducible apply Frame.via (Frame.grow (State.updQueue_frame ..) (by decide))
    | split

end Sys2Proof.Machine
end

