-- ==== Sys2Proof/Laws/Frame2.lean ====
section
/-! SUPPORT. The parts of State that each shared operation may change: accesses, the span, the logbook, arbiters, instances, faults and the Purser. -/

namespace Sys2Proof.Machine

open Sys2Proof

/-! ### Access -/

theorem State.putCtl_frame (s : State) (c : Nat) (r : CtlReq) :
    Frame [.ports] s (State.putCtl s c r) := by
  unfold State.putCtl
  try dsimp only
  repeat' first
    | with_reducible exact Frame.refl
    | with_reducible apply Frame.via (Frame.grow (State.updPort_frame ..) (by decide))
    | split

theorem State.pollGo_frame (s : State) (g : Fin 16384) :
    Frame [.flt, .insts, .queues, .ports, .cc, .walked] s (State.pollGo s g) := by
  unfold State.pollGo
  try dsimp only
  repeat' first
    | with_reducible exact Frame.refl
    | with_reducible apply Frame.via (Frame.grow (State.putCtl_frame ..) (by decide))
    | with_reducible apply Frame.via (Frame.grow (State.pollData_frame ..) (by decide))
    | with_reducible apply Frame.via (Frame.grow (State.pollFails_frame ..) (by decide))
    | with_reducible apply Frame.via (Frame.grow (State.dropWalked_frame ..) (by decide))
    | with_reducible apply Frame.via (Frame.grow (State.touch_frame ..) (by decide))
    | split

theorem doPollIssue_frame (s : State) :
    Frame [.flt, .insts, .queues, .ports, .pollAt, .cc, .walked] s (doPollIssue s) := by
  unfold doPollIssue
  try dsimp only
  repeat' first
    | with_reducible exact Frame.refl
    | with_reducible apply Frame.via (Frame.grow (State.pollGo_frame ..) (by decide))
    | with_reducible apply Frame.via (Frame.grow (State.raise_frame ..) (by decide))
    | with_reducible apply Frame.via (Frame.grow (State.updQueue_frame ..) (by decide))
    | split
    | ((with_reducible refine Frame.flds ?_ ?_); (case refine_1 => (intro p hp; cases p <;> first | rfl | exact absurd (by decide) hp)))

theorem State.recFails_frame (s : State) (g seq : Nat) (dst : Bool) (port : Nat) (xcause : Option Nat) :
    Frame [.flt, .queues, .ports, .walks, .walked] s (State.recFails s g seq dst port xcause) := by
  unfold State.recFails
  try dsimp only
  repeat' first
    | with_reducible exact Frame.refl
    | with_reducible apply Frame.via (Frame.grow (State.cancelRecs_frame ..) (by decide))
    | with_reducible apply Frame.via (Frame.grow (State.raise_frame ..) (by decide))
    | with_reducible apply Frame.via (Frame.grow (State.updEntry_frame ..) (by decide))
    | split

theorem State.recData_frame (s : State) (g seq : Nat) (dst : Bool) (d : List Byte) :
    Frame [.flt, .queues, .ports, .walks, .walked] s (State.recData s g seq dst d) := by
  unfold State.recData
  try dsimp only
  repeat' first
    | with_reducible exact Frame.refl
    | with_reducible apply Frame.via (Frame.grow (State.settleMan_frame ..) (by decide))
    | with_reducible apply Frame.via (Frame.grow (State.manStops_frame ..) (by decide))
    | with_reducible apply Frame.via (Frame.grow (State.updEntry_frame ..) (by decide))
    | split

theorem State.recGo_frame (s : State) (g : Fin 16384) (dst : Bool) :
    Frame [.flt, .queues, .ports, .cc, .walks, .walked] s (State.recGo s g dst) := by
  unfold State.recGo
  try dsimp only
  repeat' first
    | with_reducible exact Frame.refl
    | with_reducible apply Frame.via (Frame.grow (State.recFails_frame ..) (by decide))
    | with_reducible apply Frame.via (Frame.grow (State.putCtl_frame ..) (by decide))
    | with_reducible apply Frame.via (Frame.grow (State.dropWalked_frame ..) (by decide))
    | with_reducible apply Frame.via (Frame.grow (State.touch_frame ..) (by decide))
    | split

theorem doRecRead_frame (s : State) (g : Fin 16384) (dst : Bool) :
    Frame [.flt, .queues, .ports, .cc, .walks, .walked] s (doRecRead g dst s) := by
  unfold doRecRead
  try dsimp only
  repeat' first
    | with_reducible exact Frame.refl
    | with_reducible apply Frame.via (Frame.grow (State.recGo_frame ..) (by decide))
    | with_reducible apply Frame.via (Frame.grow (State.updEntry_frame ..) (by decide))
    | split

theorem State.linkNoLink_frame (s : State) (n : Nat) :
    Frame [.flt, .insts, .chans] s (State.linkNoLink s n) := by
  unfold State.linkNoLink
  repeat' first
    | with_reducible exact Frame.refl
    | with_reducible apply Frame.via (Frame.grow (State.fetchFails_frame ..) (by decide))
    | with_reducible apply Frame.via (Frame.grow (State.raise_frame ..) (by decide))
    | split

theorem State.linkGo_frame (s : State) (n : Fin 512) :
    Frame [.flt, .insts, .chans, .ports, .cc, .walked] s (State.linkGo s n) := by
  unfold State.linkGo
  try dsimp only
  repeat' first
    | with_reducible exact Frame.refl
    | with_reducible apply Frame.via (Frame.grow (State.linkNoLink_frame ..) (by decide))
    | with_reducible apply Frame.via (Frame.grow (State.putCtl_frame ..) (by decide))
    | with_reducible apply Frame.via (Frame.grow (State.afterTransfer_frame ..) (by decide))
    | with_reducible apply Frame.via (Frame.grow (State.dropWalked_frame ..) (by decide))
    | with_reducible apply Frame.via (Frame.grow (State.touch_frame ..) (by decide))
    | with_reducible apply Frame.via (Frame.grow (State.raise_frame ..) (by decide))
    | with_reducible apply Frame.via (Frame.grow (State.updChan_frame ..) (by decide))
    | split

theorem doLinkFetch_frame (s : State) (n : Fin 512) :
    Frame [.flt, .insts, .chans, .ports, .cc, .walked] s (doLinkFetch n s) := by
  unfold doLinkFetch
  try dsimp only
  repeat' first
    | with_reducible exact Frame.refl
    | with_reducible apply Frame.via (Frame.grow (State.linkGo_frame ..) (by decide))
    | with_reducible apply Frame.via (Frame.grow (State.updChan_frame ..) (by decide))
    | split

theorem doLinkTmo_frame (s : State) (n : Fin 512) :
    Frame [.flt, .insts, .chans, .ports, .fabs, .walks, .walked] s (doLinkTmo n s) := by
  unfold doLinkTmo
  try dsimp only
  repeat' first
    | with_reducible exact Frame.refl
    | with_reducible apply Frame.via (Frame.grow (State.retireFetch_frame ..) (by decide))
    | with_reducible apply Frame.via (Frame.grow (State.fetchFails_frame ..) (by decide))
    | split

theorem State.ovrGo_frame (s : State) (g : Fin 16384) (seq : Nat) :
    Frame [.flt, .insts, .queues, .ports, .cc, .walked] s (State.ovrGo s g seq) := by
  unfold State.ovrGo
  try dsimp only
  repeat' first
    | with_reducible exact Frame.refl
    | with_reducible apply Frame.via (Frame.grow (State.putCtl_frame ..) (by decide))
    | with_reducible apply Frame.via (Frame.grow (State.ovrDone_frame ..) (by decide))
    | with_reducible apply Frame.via (Frame.grow (State.ovrIssued_frame ..) (by decide))
    | with_reducible apply Frame.via (Frame.grow (State.dropWalked_frame ..) (by decide))
    | with_reducible apply Frame.via (Frame.grow (State.touch_frame ..) (by decide))
    | split
    | ((with_reducible refine Frame.flds ?_ ?_); (case refine_1 => (intro p hp; cases p <;> first | rfl | exact absurd (by decide) hp)))

theorem doOverwrite_frame (s : State) (g : Fin 16384) :
    Frame [.flt, .insts, .queues, .ports, .cc, .walked] s (doOverwrite g s) := by
  unfold doOverwrite
  try dsimp only
  repeat' first
    | with_reducible exact Frame.refl
    | with_reducible apply Frame.via (Frame.grow (State.ovrGo_frame ..) (by decide))
    | with_reducible apply Frame.via (Frame.grow (State.updEntry_frame ..) (by decide))
    | split

theorem State.evtGo_frame (s : State) (i : Fin 1024) :
    Frame [.flt, .insts, .ports, .cc, .walked] s (State.evtGo s i) := by
  unfold State.evtGo
  try dsimp only
  repeat' first
    | with_reducible exact Frame.refl
    | with_reducible apply Frame.via (Frame.grow (State.putCtl_frame ..) (by decide))
    | with_reducible apply Frame.via (Frame.grow (State.dropWalked_frame ..) (by decide))
    | with_reducible apply Frame.via (Frame.grow (State.touch_frame ..) (by decide))
    | with_reducible apply Frame.via (Frame.grow (State.recordFails_frame ..) (by decide))
    | split

theorem doRecordWrite_frame (s : State) (i : Fin 1024) :
    Frame [.flt, .insts, .ports, .cc, .walked] s (doRecordWrite i s) := by
  unfold doRecordWrite
  try dsimp only
  repeat' first
    | with_reducible exact Frame.refl
    | with_reducible apply Frame.via (Frame.grow (State.evtGo_frame ..) (by decide))
    | with_reducible apply Frame.via (Frame.grow (State.updInst_frame ..) (by decide))
    | split

theorem State.msiEnds_frame (s : State) (i addr : Nat) (ok : Bool) (xcause : Option Nat) :
    Frame [.flt, .insts] s (State.msiEnds s i addr ok xcause) := by
  unfold State.msiEnds
  try dsimp only
  repeat' first
    | with_reducible exact Frame.refl
    | with_reducible apply Frame.via (Frame.grow (State.dropped_frame ..) (by decide))
    | with_reducible apply Frame.via (Frame.grow (State.raise_frame ..) (by decide))
    | with_reducible apply Frame.via (Frame.grow (State.updInst_frame ..) (by decide))
    | split

theorem State.msiNoLink_frame (s : State) (i : Nat) :
    Frame [.flt, .insts] s (State.msiNoLink s i) := by
  unfold State.msiNoLink
  repeat' first
    | with_reducible exact Frame.refl
    | with_reducible apply Frame.via (Frame.grow (State.msiEnds_frame ..) (by decide))
    | with_reducible apply Frame.via (Frame.grow (State.raise_frame ..) (by decide))
    | split

theorem State.msiGo_frame (s : State) (i : Fin 1024) :
    Frame [.flt, .insts, .ports, .cc, .walked] s (State.msiGo s i) := by
  unfold State.msiGo
  try dsimp only
  repeat' first
    | with_reducible exact Frame.refl
    | with_reducible apply Frame.via (Frame.grow (State.msiNoLink_frame ..) (by decide))
    | with_reducible apply Frame.via (Frame.grow (State.msiEnds_frame ..) (by decide))
    | with_reducible apply Frame.via (Frame.grow (State.putCtl_frame ..) (by decide))
    | with_reducible apply Frame.via (Frame.grow (State.dropWalked_frame ..) (by decide))
    | with_reducible apply Frame.via (Frame.grow (State.touch_frame ..) (by decide))
    | split

theorem doMsi_frame (s : State) (i : Fin 1024) :
    Frame [.flt, .insts, .ports, .cc, .walked] s (doMsi i s) := by
  unfold doMsi
  try dsimp only
  repeat' first
    | with_reducible exact Frame.refl
    | with_reducible apply Frame.via (Frame.grow (State.msiGo_frame ..) (by decide))
    | with_reducible apply Frame.via (Frame.grow (State.updInst_frame ..) (by decide))
    | split

theorem State.updAcs_frame (s : State) (f : PurAcc → PurAcc) :
    Frame [.pur] s (State.updAcs s f) := by
  unfold State.updAcs
  try dsimp only
  repeat' first
    | with_reducible exact Frame.refl
    | split
    | ((with_reducible refine Frame.flds ?_ ?_); (case refine_1 => (intro p hp; cases p <;> first | rfl | exact absurd (by decide) hp)))

theorem State.purGo_frame (s : State) :
    Frame [.pur, .ports, .cc, .walked] s (State.purGo s) := by
  unfold State.purGo
  try dsimp only
  repeat' first
    | with_reducible exact Frame.refl
    | with_reducible apply Frame.via (Frame.grow (State.updAcs_frame ..) (by decide))
    | with_reducible apply Frame.via (Frame.grow (State.putCtl_frame ..) (by decide))
    | with_reducible apply Frame.via (Frame.grow (State.dropWalked_frame ..) (by decide))
    | with_reducible apply Frame.via (Frame.grow (State.touch_frame ..) (by decide))
    | split
    | ((with_reducible refine Frame.flds ?_ ?_); (case refine_1 => (intro p hp; cases p <;> first | rfl | exact absurd (by decide) hp)))

theorem State.purBegin_frame (s : State) (write : Bool) (addr n : Nat) (data : List Byte) :
    Frame [.pur, .ports, .cc, .walked] s (State.purBegin s write addr n data) := by
  unfold State.purBegin
  try dsimp only
  repeat' first
    | with_reducible exact Frame.refl
    | with_reducible apply Frame.via (Frame.grow (State.purGo_frame ..) (by decide))
    | split
    | ((with_reducible refine Frame.flds ?_ ?_); (case refine_1 => (intro p hp; cases p <;> first | rfl | exact absurd (by decide) hp)))

theorem State.purEnds_frame (s : State) (st : Option Nat) :
    Frame [.pur, .ports, .cc, .walked] s (State.purEnds s st) := by
  unfold State.purEnds
  try dsimp only
  repeat' first
    | with_reducible exact Frame.refl
    | with_reducible apply Frame.via (Frame.grow (State.purGo_frame ..) (by decide))
    | with_reducible apply Frame.via (Frame.grow (State.updAcs_frame ..) (by decide))
    | split

theorem State.purData_frame (s : State) (off : Nat) (d : List Byte) (ok : Bool) (st : Nat) (last : Bool) :
    Frame [.pur, .ports, .cc, .walked] s (State.purData s off d ok st last) := by
  unfold State.purData
  try dsimp only
  repeat' first
    | with_reducible exact Frame.refl
    | with_reducible apply Frame.via (Frame.grow (State.purEnds_frame ..) (by decide))
    | with_reducible apply Frame.via (Frame.grow (State.updAcs_frame ..) (by decide))
    | split

theorem State.resume_frame (s : State) (x : XCtx) :
    Frame [.flt, .pur, .insts, .queues, .chans, .ports, .cc, .walks, .walked] s (State.resume s x) := by
  unfold State.resume
  repeat' first
    | with_reducible exact Frame.refl
    | with_reducible apply Frame.via (Frame.grow (State.purGo_frame ..) (by decide))
    | with_reducible apply Frame.via (Frame.grow (State.msiGo_frame ..) (by decide))
    | with_reducible apply Frame.via (Frame.grow (State.evtGo_frame ..) (by decide))
    | with_reducible apply Frame.via (Frame.grow (State.ovrGo_frame ..) (by decide))
    | with_reducible apply Frame.via (Frame.grow (State.linkGo_frame ..) (by decide))
    | with_reducible apply Frame.via (Frame.grow (State.recGo_frame ..) (by decide))
    | with_reducible apply Frame.via (Frame.grow (State.pollGo_frame ..) (by decide))
    | split

theorem doChartRead_frame (s : State) (x : XCtx) :
    Frame [.flt, .pur, .insts, .queues, .chans, .ports, .cc, .walks, .walked] s (doChartRead x s) := by
  unfold doChartRead
  try dsimp only
  repeat' first
    | with_reducible exact Frame.refl
    | with_reducible apply Frame.via (Frame.grow (State.resume_frame ..) (by decide))
    | with_reducible apply Frame.via (Frame.grow (State.putCtl_frame ..) (by decide))
    | split
    | ((with_reducible refine Frame.flds ?_ ?_); (case refine_1 => (intro p hp; cases p <;> first | rfl | exact absurd (by decide) hp)))

theorem State.chartData_frame (s : State) (x : XCtx) (va : Nat) (e : Option Word) :
    Frame [.flt, .pur, .insts, .queues, .chans, .ports, .cc, .walks, .walked] s (State.chartData s x va e) := by
  unfold State.chartData
  repeat' first
    | with_reducible exact Frame.refl
    | with_reducible apply Frame.via (Frame.grow (State.resume_frame ..) (by decide))
    | with_reducible apply Frame.via (Frame.grow (State.walkData_frame ..) (by decide))
    | split

/-! ### Span -/

theorem State.received_frame (s : State) (m : InMsg) (firm : Bool) :
    Frame [.gls, .flt] s (State.received s m firm) := by
  unfold State.received
  try dsimp only
  repeat' first
    | with_reducible exact Frame.refl
    | with_reducible apply Frame.via (Frame.grow (State.countFab_frame ..) (by decide))
    | with_reducible apply Frame.via (Frame.grow (State.raise_frame ..) (by decide))
    | split

theorem State.putTx_frame (s : State) (f : Nat) (t : TxMsg) :
    Frame [.fabs] s (State.putTx s f t) := by
  unfold State.putTx
  try dsimp only
  repeat' first
    | with_reducible exact Frame.refl
    | with_reducible apply Frame.via (Frame.grow (State.updFab_frame ..) (by decide))
    | split

theorem State.serve_frame (s : State) (m : InMsg) (write : Bool) :
    Frame [.gls, .flt, .inbs, .nextInb] s (State.serve s m write) := by
  unfold State.serve
  try dsimp only
  repeat' first
    | with_reducible exact Frame.refl
    | with_reducible apply Frame.via (Frame.grow (State.received_frame ..) (by decide))
    | split
    | ((with_reducible refine Frame.flds ?_ ?_); (case refine_1 => (intro p hp; cases p <;> first | rfl | exact absurd (by decide) hp)))

theorem State.inRequest_frame (s : State) (m : InMsg) (write : Bool) :
    Frame [.gls, .flt, .fabs, .inbs, .nextInb] s (State.inRequest s m write) := by
  unfold State.inRequest
  try dsimp only
  repeat' first
    | with_reducible exact Frame.refl
    | with_reducible apply Frame.via (Frame.grow (State.serve_frame ..) (by decide))
    | with_reducible apply Frame.via (Frame.grow (State.putTx_frame ..) (by decide))
    | with_reducible apply Frame.via (Frame.grow (State.received_frame ..) (by decide))
    | with_reducible apply Frame.via (Frame.grow (State.raise_frame ..) (by decide))
    | split

theorem doInbResponse_frame (s : State) (id : Nat) :
    Frame [.fabs, .inbs] s (doInbResponse id s) := by
  unfold doInbResponse
  try dsimp only
  repeat' first
    | with_reducible exact Frame.refl
    | with_reducible apply Frame.via (Frame.grow (State.putTx_frame ..) (by decide))
    | split
    | ((with_reducible refine Frame.flds ?_ ?_); (case refine_1 => (intro p hp; cases p <;> first | rfl | exact absurd (by decide) hp)))

theorem State.updInb_frame (s : State) (id : Nat) (f : Inb → Inb) :
    Frame [.inbs] s (State.updInb s id f) := by
  unfold State.updInb
  try dsimp only
  repeat' first
    | with_reducible exact Frame.refl
    | split
    | ((with_reducible refine Frame.flds ?_ ?_); (case refine_1 => (intro p hp; cases p <;> first | rfl | exact absurd (by decide) hp)))

theorem State.spanFails_frame (s : State) (l : FSlot) (code stat source : Nat) :
    Frame [.flt, .insts, .queues, .chans, .frags, .ports, .walks, .walked] s (State.spanFails s l code stat source) := by
  unfold State.spanFails
  repeat' first
    | with_reducible exact Frame.refl
    | with_reducible apply Frame.via (Frame.grow (State.msiEnds_frame ..) (by decide))
    | with_reducible apply Frame.via (Frame.grow (State.fragWriteEnds_frame ..) (by decide))
    | with_reducible apply Frame.via (Frame.grow (State.fragReadEnds_frame ..) (by decide))
    | with_reducible apply Frame.via (Frame.grow (State.fragDstFails_frame ..) (by decide))
    | with_reducible apply Frame.via (Frame.grow (State.fragSrcFails_frame ..) (by decide))
    | with_reducible apply Frame.via (Frame.grow (State.fetchFails_frame ..) (by decide))
    | with_reducible apply Frame.via (Frame.grow (State.raiseAt_frame ..) (by decide))
    | split

theorem State.spanOk_frame (s : State) (l : FSlot) (data : List Byte) (lines bad : List Nat) :
    Frame [.flt, .insts, .queues, .chans, .frags, .hold, .ports, .walks, .walked] s (State.spanOk s l data lines bad) := by
  unfold State.spanOk
  try dsimp only
  repeat' first
    | with_reducible exact Frame.refl
    | with_reducible apply Frame.via (Frame.grow (State.msiEnds_frame ..) (by decide))
    | with_reducible apply Frame.via (Frame.grow (State.fragWriteEnds_frame ..) (by decide))
    | with_reducible apply Frame.via (Frame.grow (State.fragReadEnds_frame ..) (by decide))
    | with_reducible apply Frame.via (Frame.grow (State.placeBytes_frame ..) (by decide))
    | with_reducible apply Frame.via (Frame.grow (State.fetchData_frame ..) (by decide))
    | with_reducible apply Frame.via (Frame.grow (State.fetchFails_frame ..) (by decide))
    | split

theorem State.freeSpan_frame (s : State) (f idx : Nat) :
    Frame [.fabs] s (State.freeSpan s f idx) := by
  unfold State.freeSpan
  try dsimp only
  repeat' first
    | with_reducible exact Frame.refl
    | with_reducible apply Frame.via (Frame.grow (State.updFab_frame ..) (by decide))
    | split

theorem State.fabCount_frame (s : State) (p : Nat) (g : FPort → FPort) :
    Frame [.fabs] s (State.fabCount s p g) := by
  unfold State.fabCount
  repeat' first
    | with_reducible exact Frame.refl
    | with_reducible apply Frame.via (Frame.grow (State.updFab_frame ..) (by decide))
    | split
    | with_reducible refine State.unlessWritten_frame ?_ ?_

theorem State.spanEnds_frame (s : State) (m : InMsg) (l : FSlot) :
    Frame [.flt, .insts, .queues, .chans, .frags, .hold, .ports, .fabs, .walks, .walked] s (State.spanEnds s m l) := by
  unfold State.spanEnds
  try dsimp only
  repeat' first
    | with_reducible exact Frame.refl
    | with_reducible apply Frame.via (Frame.grow (State.fabCount_frame ..) (by decide))
    | with_reducible apply Frame.via (Frame.grow (State.freeSpan_frame ..) (by decide))
    | with_reducible apply Frame.via (Frame.grow (State.spanOk_frame ..) (by decide))
    | with_reducible apply Frame.via (Frame.grow (State.spanFails_frame ..) (by decide))
    | with_reducible apply Frame.via (Frame.grow (State.raiseAt_frame ..) (by decide))
    | with_reducible apply Frame.via (Frame.grow (State.updFab_frame ..) (by decide))
    | split

theorem State.spanLate_frame (s : State) (l : FSlot) :
    Frame [.flt] s (State.spanLate s l) := by
  unfold State.spanLate
  repeat' first
    | with_reducible exact Frame.refl
    | with_reducible apply Frame.via (Frame.grow (State.raiseAt_frame ..) (by decide))
    | split

theorem State.inResponse_frame (s : State) (m : InMsg) (write : Bool) :
    Frame [.gls, .flt, .insts, .queues, .chans, .frags, .hold, .ports, .fabs, .walks, .walked] s (State.inResponse s m write) := by
  unfold State.inResponse
  try dsimp only
  repeat' first
    | with_reducible exact Frame.refl
    | with_reducible apply Frame.via (Frame.grow (State.spanLate_frame ..) (by decide))
    | with_reducible apply Frame.via (Frame.grow (State.spanEnds_frame ..) (by decide))
    | with_reducible apply Frame.via (Frame.grow (State.freeSpan_frame ..) (by decide))
    | with_reducible apply Frame.via (Frame.grow (State.received_frame ..) (by decide))
    | with_reducible apply Frame.via (Frame.grow (State.raise_frame ..) (by decide))
    | split

theorem doStray_frame (s : State) (m : InMsg) :
    Frame [.gls, .flt] s (doStray m s) := by
  unfold doStray
  repeat' first
    | with_reducible exact Frame.refl
    | with_reducible apply Frame.via (Frame.grow (State.received_frame ..) (by decide))
    | with_reducible apply Frame.via (Frame.grow (State.raise_frame ..) (by decide))
    | split

theorem doReissue_frame (s : State) (f idx : Nat) :
    Frame [.fabs] s (doReissue f idx s) := by
  unfold doReissue
  try dsimp only
  repeat' first
    | with_reducible exact Frame.refl
    | with_reducible apply Frame.via (Frame.grow (State.putTx_frame ..) (by decide))
    | with_reducible apply Frame.via (Frame.grow (State.updFab_frame ..) (by decide))
    | split

theorem State.spanTimeout_frame (s : State) (f : Nat) (l : FSlot) :
    Frame [.flt, .insts, .queues, .chans, .frags, .ports, .fabs, .walks, .walked] s (State.spanTimeout s f l) := by
  unfold State.spanTimeout
  try dsimp only
  repeat' first
    | with_reducible exact Frame.refl
    | with_reducible apply Frame.via (Frame.grow (State.fabCount_frame ..) (by decide))
    | with_reducible apply Frame.via (Frame.grow (State.freeSpan_frame ..) (by decide))
    | with_reducible apply Frame.via (Frame.grow (State.spanFails_frame ..) (by decide))
    | with_reducible apply Frame.via (Frame.grow (State.raiseAt_frame ..) (by decide))
    | with_reducible apply Frame.via (Frame.grow (State.raise_frame ..) (by decide))
    | with_reducible apply Frame.via (Frame.grow (State.updFab_frame ..) (by decide))
    | split

theorem doRemoteTimeout_frame (s : State) :
    Frame [.flt, .insts, .queues, .chans, .frags, .ports, .fabs, .walks, .walked] s (doRemoteTimeout s) := by
  unfold doRemoteTimeout
  try dsimp only
  repeat' first
    | with_reducible exact Frame.refl
    | with_reducible refine Frame.foldl (fun _ _ => ?_) ?_
    | with_reducible apply Frame.via (Frame.grow (State.spanTimeout_frame ..) (by decide))
    | split

theorem State.dropCtl_frame (s : State) (r : CtlReq) :
    Frame [.ports] s (State.dropCtl s r) := by
  unfold State.dropCtl
  try dsimp only
  repeat' first
    | with_reducible exact Frame.refl
    | split
    | ((with_reducible refine Frame.flds ?_ ?_); (case refine_1 => (intro p hp; cases p <;> first | rfl | exact absurd (by decide) hp)))

theorem State.ctlNoLink_frame (s : State) (r : CtlReq) :
    Frame [.flt, .insts, .chans, .ports] s (State.ctlNoLink s r) := by
  unfold State.ctlNoLink
  repeat' first
    | with_reducible exact Frame.refl
    | with_reducible apply Frame.via (Frame.grow (State.dropCtl_frame ..) (by decide))
    | with_reducible apply Frame.via (Frame.grow (State.msiNoLink_frame ..) (by decide))
    | with_reducible apply Frame.via (Frame.grow (State.linkNoLink_frame ..) (by decide))
    | split

theorem doLinkup_frame (s : State) (f : Nat) (up : Bool) :
    Frame [.flt, .insts, .chans, .ports, .fabs] s (doLinkup f up s) := by
  unfold doLinkup
  try dsimp only
  repeat' first
    | with_reducible exact Frame.refl
    | with_reducible refine Frame.foldl (fun _ _ => ?_) ?_
    | with_reducible apply Frame.via (Frame.grow (State.ctlNoLink_frame ..) (by decide))
    | with_reducible apply Frame.via (Frame.grow (State.level_frame ..) (by decide))
    | with_reducible apply Frame.via (Frame.grow (State.updFab_frame ..) (by decide))
    | split

/-! ### Logbook -/

theorem State.updLine_frame (s : State) (i line base : Nat) (f : LogLine → LogLine) :
    Frame [.logc] s (State.updLine s i line base f) := by
  unfold State.updLine
  try dsimp only
  repeat' first
    | with_reducible exact Frame.refl
    | split
    | ((with_reducible refine Frame.flds ?_ ?_); (case refine_1 => (intro p hp; cases p <;> first | rfl | exact absurd (by decide) hp)))

theorem State.queueLines_frame (s : State) (which : LogLine → Bool) :
    Frame [.logc] s (State.queueLines s which) := by
  unfold State.queueLines
  try dsimp only
  repeat' first
    | with_reducible exact Frame.refl
    | split
    | ((with_reducible refine Frame.flds ?_ ?_); (case refine_1 => (intro p hp; cases p <;> first | rfl | exact absurd (by decide) hp)))

theorem State.logCtl_frame (s : State) (owner : Owner) (write : Bool) (addr : Nat) (data : List Byte) :
    Frame [.ports] s (State.logCtl s owner write addr data) := by
  unfold State.logCtl
  repeat' first
    | with_reducible exact Frame.refl
    | with_reducible apply Frame.via (Frame.grow (State.putCtl_frame ..) (by decide))
    | split

theorem doLogFlush_frame (s : State) :
    Frame [.ports, .logc] s (doLogFlush s) := by
  unfold doLogFlush
  try dsimp only
  repeat' first
    | with_reducible exact Frame.refl
    | with_reducible apply Frame.via (Frame.grow (State.logCtl_frame ..) (by decide))
    | with_reducible apply Frame.via (Frame.grow (State.updLine_frame ..) (by decide))
    | split

theorem State.swapAsked_frame (s : State) :
    Frame [.clk, .glb] s (State.swapAsked s) := by
  unfold State.swapAsked
  try dsimp only
  repeat' first
    | with_reducible exact Frame.refl
    | with_reducible apply Frame.via (Frame.grow (State.noteSet_frame ..) (by decide))
    | split
    | ((with_reducible refine Frame.flds ?_ ?_); (case refine_1 => (intro p hp; cases p <;> first | rfl | exact absurd (by decide) hp)))

theorem State.swapEnds_frame (s : State) :
    Frame [.clk, .glb] s (State.swapEnds s) := by
  unfold State.swapEnds
  try dsimp only
  repeat' first
    | with_reducible exact Frame.refl
    | with_reducible apply Frame.via (Frame.grow (State.swapAsked_frame ..) (by decide))
    | split
    | ((with_reducible refine Frame.flds ?_ ?_); (case refine_1 => (intro p hp; cases p <;> first | rfl | exact absurd (by decide) hp)))

theorem State.logFails_frame (s : State) (i line base st : Nat) :
    Frame [.clk, .glb, .flt, .pur, .logc] s (State.logFails s i line base st) := by
  unfold State.logFails
  try dsimp only
  repeat' first
    | with_reducible exact Frame.refl
    | with_reducible apply Frame.via (Frame.grow (State.swapEnds_frame ..) (by decide))
    | with_reducible apply Frame.via (Frame.grow (State.updLine_frame ..) (by decide))
    | with_reducible apply Frame.via (Frame.grow (State.raise_frame ..) (by decide))
    | with_reducible apply Frame.via (Frame.grow (State.noteSet_frame ..) (by decide))
    | split
    | ((with_reducible refine Frame.flds ?_ ?_); (case refine_1 => (intro p hp; cases p <;> first | rfl | exact absurd (by decide) hp)))

theorem State.logRead_frame (s : State) (i line base st : Nat) (d : Option (List Byte)) :
    Frame [.clk, .glb, .flt, .pur, .ports, .logc] s (State.logRead s i line base st d) := by
  unfold State.logRead
  try dsimp only
  repeat' first
    | with_reducible exact Frame.refl
    | with_reducible apply Frame.via (Frame.grow (State.logFails_frame ..) (by decide))
    | with_reducible apply Frame.via (Frame.grow (State.logCtl_frame ..) (by decide))
    | with_reducible apply Frame.via (Frame.grow (State.updLine_frame ..) (by decide))
    | split

theorem State.logWritten_frame (s : State) (i line base st : Nat) :
    Frame [.clk, .glb, .flt, .pur, .logc] s (State.logWritten s i line base st) := by
  unfold State.logWritten
  try dsimp only
  repeat' first
    | with_reducible exact Frame.refl
    | with_reducible apply Frame.via (Frame.grow (State.logFails_frame ..) (by decide))
    | with_reducible apply Frame.via (Frame.grow (State.updLine_frame ..) (by decide))
    | split
    | ((with_reducible refine Frame.flds ?_ ?_); (case refine_1 => (intro p hp; cases p <;> first | rfl | exact absurd (by decide) hp)))

theorem State.logOff_frame (s : State) (i : Nat) :
    Frame [.insts, .logc] s (State.logOff s i) := by
  unfold State.logOff
  try dsimp only
  repeat' first
    | with_reducible exact Frame.refl
    | with_reducible apply Frame.via (Frame.grow (State.updInst_frame ..) (by decide))
    | split
    | ((with_reducible refine Frame.flds ?_ ?_); (case refine_1 => (intro p hp; cases p <;> first | rfl | exact absurd (by decide) hp)))

theorem doLogSwap_frame (s : State) (v : Word) :
    Frame [.clk, .glb] s (doLogSwap v s) := by
  unfold doLogSwap
  try dsimp only
  repeat' first
    | with_reducible exact Frame.refl
    | with_reducible apply Frame.via (Frame.grow (State.swapAsked_frame ..) (by decide))
    | with_reducible apply Frame.via (Frame.grow (State.noteWrite_frame ..) (by decide))
    | split
    | ((with_reducible refine Frame.flds ?_ ?_); (case refine_1 => (intro p hp; cases p <;> first | rfl | exact absurd (by decide) hp)))

theorem State.swapBell_frame (s : State) :
    Frame [.glb, .insts] s (State.swapBell s) := by
  unfold State.swapBell
  try dsimp only
  repeat' first
    | with_reducible exact Frame.refl
    | with_reducible apply Frame.via (Frame.grow (State.updInst_frame ..) (by decide))
    | split
    | ((with_reducible refine Frame.flds ?_ ?_); (case refine_1 => (intro p hp; cases p <;> first | rfl | exact absurd (by decide) hp)))

theorem doSwapDone_frame (s : State) :
    Frame [.clk, .glb] s (doSwapDone s) := by
  unfold doSwapDone
  repeat' first
    | with_reducible exact Frame.refl
    | with_reducible apply Frame.via (Frame.grow (State.swapEnds_frame ..) (by decide))
    | split

/-! ### Arbiter -/

theorem State.admitFirst_frame (s : State) (id : Nat) :
    Frame [.insts, .frags, .nextId, .cc, .walked] s (State.admitFirst s id) := by
  unfold State.admitFirst
  repeat' first
    | with_reducible exact Frame.refl
    | with_reducible apply Frame.via (Frame.grow (State.admitFrag_frame ..) (by decide))
    | split

theorem State.purIssued_frame (s : State) :
    Frame [.pur, .ports, .cc, .walked] s (State.purIssued s) := by
  unfold State.purIssued
  try dsimp only
  repeat' first
    | with_reducible exact Frame.refl
    | with_reducible apply Frame.via (Frame.grow (State.purGo_frame ..) (by decide))
    | with_reducible apply Frame.via (Frame.grow (State.updAcs_frame ..) (by decide))
    | split

theorem State.grantCtl_frame (s : State) (c : Nat) (r : CtlReq) :
    Frame [.clk, .glb, .gls, .flt, .pur, .insts, .queues, .ports, .fabs, .cc, .walked, .logc] s (State.grantCtl s c r) := by
  unfold State.grantCtl
  try dsimp only
  repeat' first
    | with_reducible exact Frame.refl
    | with_reducible apply Frame.via (Frame.grow (State.purIssued_frame ..) (by decide))
    | with_reducible apply Frame.via (Frame.grow (State.ovrIssued_frame ..) (by decide))
    | with_reducible apply Frame.via (Frame.grow (State.charge_frame ..) (by decide))
    | with_reducible apply Frame.via (Frame.grow (State.issueSpan_frame ..) (by decide))
    | with_reducible apply Frame.via (Frame.grow (State.issueWrite_frame ..) (by decide))
    | with_reducible apply Frame.via (Frame.grow (State.issueRead_frame ..) (by decide))
    | with_reducible apply Frame.via (Frame.grow (State.logAccess_frame ..) (by decide))
    | with_reducible apply Frame.via (Frame.grow (State.updAcc_frame ..) (by decide))
    | with_reducible apply Frame.via (Frame.grow (State.updPort_frame ..) (by decide))
    | split

theorem State.grantInb_frame (s : State) (id : Nat) :
    Frame [.gls, .ports, .inbs] s (State.grantInb s id) := by
  unfold State.grantInb
  try dsimp only
  repeat' first
    | with_reducible exact Frame.refl
    | with_reducible apply Frame.via (Frame.grow (State.updInb_frame ..) (by decide))
    | with_reducible apply Frame.via (Frame.grow (State.issueWrite_frame ..) (by decide))
    | with_reducible apply Frame.via (Frame.grow (State.issueRead_frame ..) (by decide))
    | with_reducible apply Frame.via (Frame.grow (State.updPort_frame ..) (by decide))
    | split

theorem State.grantTx_frame (s : State) (f : Nat) (t : TxMsg) :
    Frame [.gls, .fabs] s (State.grantTx s f t) := by
  unfold State.grantTx
  try dsimp only
  repeat' first
    | with_reducible exact Frame.refl
    | with_reducible apply Frame.via (Frame.grow (State.countFab_frame ..) (by decide))
    | with_reducible apply Frame.via (Frame.grow (State.updFab_frame ..) (by decide))
    | split

theorem State.setRr_frame (s : State) (p : ArbPort) (o : Offer) :
    Frame [.ports, .fabs] s (State.setRr s p o) := by
  unfold State.setRr
  try dsimp only
  repeat' first
    | with_reducible exact Frame.refl
    | with_reducible apply Frame.via (Frame.grow (State.updFab_frame ..) (by decide))
    | with_reducible apply Frame.via (Frame.grow (State.updPort_frame ..) (by decide))
    | split

theorem State.countWaits_frame (s : State) :
    Frame [.glb, .flt, .frags] s (State.countWaits s) := by
  unfold State.countWaits
  try dsimp only
  repeat' first
    | with_reducible exact Frame.refl
    | with_reducible refine Frame.foldl (fun _ _ => ?_) ?_
    | with_reducible apply Frame.via (Frame.grow (State.logWaits_frame ..) (by decide))
    | with_reducible apply Frame.via (Frame.grow (State.updFrag_frame ..) (by decide))
    | split

theorem State.countCtlWaits_frame (s : State) (c : Nat) :
    Frame [.glb, .flt, .ports] s (State.countCtlWaits s c) := by
  unfold State.countCtlWaits
  try dsimp only
  repeat' first
    | with_reducible exact Frame.refl
    | with_reducible refine Frame.foldl (fun _ _ => ?_) ?_
    | with_reducible apply Frame.via (Frame.grow (State.logWaits_frame ..) (by decide))
    | with_reducible apply Frame.via (Frame.grow (State.updPort_frame ..) (by decide))
    | split

theorem State.countAllWaits_frame (s : State) :
    Frame [.glb, .flt, .frags, .ports] s (State.countAllWaits s) := by
  unfold State.countAllWaits
  repeat' first
    | with_reducible exact Frame.refl
    | with_reducible refine Frame.foldl (fun _ _ => ?_) ?_
    | with_reducible apply Frame.via (Frame.grow (State.countCtlWaits_frame ..) (by decide))
    | with_reducible apply Frame.via (Frame.grow (State.countWaits_frame ..) (by decide))
    | split

theorem State.grant_frame (s : State) (p : ArbPort) (par : List (Nat × OutPar)) (o : Offer) :
    Frame [.clk, .glb, .gls, .flt, .pur, .insts, .queues, .chans, .frags, .nextId, .ports, .fabs, .inbs, .cc, .walks, .walked, .logc] s (State.grant s p par o) := by
  unfold State.grant
  try dsimp only
  repeat' first
    | with_reducible exact Frame.refl
    | with_reducible apply Frame.via (Frame.grow (State.setRr_frame ..) (by decide))
    | with_reducible apply Frame.via (Frame.grow (State.grantTx_frame ..) (by decide))
    | with_reducible apply Frame.via (Frame.grow (State.grantInb_frame ..) (by decide))
    | with_reducible apply Frame.via (Frame.grow (State.grantCtl_frame ..) (by decide))
    | with_reducible apply Frame.via (Frame.grow (State.admitFirst_frame ..) (by decide))
    | with_reducible apply Frame.via (Frame.grow (State.fragWrite_frame ..) (by decide))
    | with_reducible apply Frame.via (Frame.grow (State.fragRead_frame ..) (by decide))
    | split

theorem doGrant_frame (s : State) (p : ArbPort) (par : List (Nat × OutPar)) :
    Frame [.clk, .glb, .gls, .flt, .pur, .insts, .queues, .chans, .frags, .nextId, .ports, .fabs, .inbs, .cc, .walks, .walked, .logc] s (doGrant p par s) := by
  unfold doGrant
  try dsimp only
  repeat' first
    | with_reducible exact Frame.refl
    | with_reducible apply Frame.via (Frame.grow (State.grant_frame ..) (by decide))
    | with_reducible apply Frame.via (Frame.grow (State.countAllWaits_frame ..) (by decide))
    | split

theorem State.tryGrant_frame (s : State) (f : Frag) (par : List (Nat × OutPar)) :
    Frame [.clk, .glb, .gls, .flt, .pur, .insts, .queues, .chans, .frags, .nextId, .ports, .fabs, .inbs, .cc, .walks, .walked, .logc] s (State.tryGrant s f par) := by
  unfold State.tryGrant
  repeat' first
    | with_reducible exact Frame.refl
    | with_reducible apply Frame.via (Frame.grow (State.grant_frame ..) (by decide))
    | split

theorem State.admitNow_frame (s : State) (f : Frag) (par : List (Nat × OutPar)) :
    Frame [.clk, .glb, .gls, .flt, .pur, .insts, .queues, .chans, .frags, .nextId, .ports, .fabs, .inbs, .cc, .walks, .walked, .logc] s (State.admitNow s f par) := by
  unfold State.admitNow
  repeat' first
    | with_reducible exact Frame.refl
    | with_reducible apply Frame.via (Frame.grow (State.tryGrant_frame ..) (by decide))
    | with_reducible apply Frame.via (Frame.grow (State.fragNoLink_frame ..) (by decide))
    | with_reducible apply Frame.via (Frame.grow (State.fragXfail_frame ..) (by decide))
    | with_reducible apply Frame.via (Frame.grow (State.giveBack_frame ..) (by decide))
    | split

theorem doAdmission_frame (s : State) (id : Nat) :
    Frame [.clk, .glb, .gls, .flt, .pur, .insts, .queues, .chans, .frags, .nextId, .ports, .fabs, .inbs, .cc, .walks, .walked, .logc] s (doAdmission id s) := by
  unfold doAdmission
  try dsimp only
  repeat' first
    | with_reducible exact Frame.refl
    | with_reducible apply Frame.via (Frame.grow (State.admitNow_frame ..) (by decide))
    | with_reducible apply Frame.via (Frame.grow (State.countAllWaits_frame ..) (by decide))
    | split

theorem doWriteStart_frame (s : State) (id : Nat) (par : List (Nat × OutPar)) :
    Frame [.clk, .glb, .gls, .flt, .pur, .insts, .queues, .chans, .frags, .nextId, .ports, .fabs, .inbs, .cc, .walks, .walked, .logc] s (doWriteStart id par s) := by
  unfold doWriteStart
  try dsimp only
  repeat' first
    | with_reducible exact Frame.refl
    | with_reducible apply Frame.via (Frame.grow (State.admitNow_frame ..) (by decide))
    | with_reducible apply Frame.via (Frame.grow (State.tryGrant_frame ..) (by decide))
    | with_reducible apply Frame.via (Frame.grow (State.countAllWaits_frame ..) (by decide))
    | split

theorem State.deliver_frame (s : State) (r : RdOut) (b : RBeat) (last : Bool) :
    Frame [.clk, .glb, .flt, .pur, .insts, .queues, .chans, .frags, .hold, .ports, .inbs, .cc, .walks, .walked, .logc] s (State.deliver s r b last) := by
  unfold State.deliver
  try dsimp only
  repeat' first
    | with_reducible exact Frame.refl
    | with_reducible apply Frame.via (Frame.grow (State.logRead_frame ..) (by decide))
    | with_reducible apply Frame.via (Frame.grow (State.updInb_frame ..) (by decide))
    | with_reducible apply Frame.via (Frame.grow (State.chartData_frame ..) (by decide))
    | with_reducible apply Frame.via (Frame.grow (State.purData_frame ..) (by decide))
    | with_reducible apply Frame.via (Frame.grow (State.recData_frame ..) (by decide))
    | with_reducible apply Frame.via (Frame.grow (State.recFails_frame ..) (by decide))
    | with_reducible apply Frame.via (Frame.grow (State.pollData_frame ..) (by decide))
    | with_reducible apply Frame.via (Frame.grow (State.fragReadEnds_frame ..) (by decide))
    | with_reducible apply Frame.via (Frame.grow (State.fragSrcFails_frame ..) (by decide))
    | with_reducible apply Frame.via (Frame.grow (State.placeBytes_frame ..) (by decide))
    | with_reducible apply Frame.via (Frame.grow (State.fetchData_frame ..) (by decide))
    | with_reducible apply Frame.via (Frame.grow (State.fetchFails_frame ..) (by decide))
    | with_reducible apply Frame.via (Frame.grow (State.raiseAt_frame ..) (by decide))
    | with_reducible apply Frame.via (Frame.grow (State.updFrag_frame ..) (by decide))
    | split

theorem State.beatCounts_frame (s : State) (c : Nat) (b : RBeat) :
    Frame [.ports] s (State.beatCounts s c b) := by
  unfold State.beatCounts
  try dsimp only
  repeat' first
    | with_reducible exact Frame.refl
    | with_reducible apply Frame.via (Frame.grow (State.updPort_frame ..) (by decide))
    | split
    | with_reducible refine State.unlessWritten_frame ?_ ?_

theorem State.beatFaults_frame (s : State) (c : Nat) (b : RBeat) (r : RdOut) :
    Frame [.flt] s (State.beatFaults s c b r) := by
  unfold State.beatFaults
  try dsimp only
  repeat' first
    | with_reducible exact Frame.refl
    | with_reducible apply Frame.via (Frame.grow (State.raiseAt_frame ..) (by decide))
    | with_reducible apply Frame.via (Frame.grow (State.raise_frame ..) (by decide))
    | split

theorem State.beatSlot_frame (s : State) (c : Nat) (n : Nat) (last : Bool) (r : RdOut) :
    Frame [.ports] s (State.beatSlot s c n last r) := by
  unfold State.beatSlot
  try dsimp only
  repeat' first
    | with_reducible exact Frame.refl
    | with_reducible apply Frame.via (Frame.grow (State.updPort_frame ..) (by decide))
    | split

theorem State.beatSeen_frame (s : State) (c : Nat) (b : RBeat) :
    Frame [.gls, .ports] s (State.beatSeen s c b) := by
  unfold State.beatSeen
  try dsimp only
  repeat' first
    | with_reducible exact Frame.refl
    | with_reducible apply Frame.via (Frame.grow (State.beatCounts_frame ..) (by decide))
    | with_reducible apply Frame.via (Frame.grow (State.updAcc_frame ..) (by decide))
    | split

theorem State.beatTaken_frame (s : State) (c : Nat) (n : Nat) (r : RdOut) :
    Frame [.gls, .ports] s (State.beatTaken s c n r) := by
  unfold State.beatTaken
  try dsimp only
  repeat' first
    | with_reducible exact Frame.refl
    | with_reducible apply Frame.via (Frame.grow (State.beatSlot_frame ..) (by decide))
    | with_reducible apply Frame.via (Frame.grow (State.updAcc_frame ..) (by decide))
    | split

theorem State.beat_frame (s : State) (c : Nat) (b : RBeat) :
    Frame [.clk, .glb, .gls, .flt, .pur, .insts, .queues, .chans, .frags, .hold, .ports, .inbs, .cc, .walks, .walked, .logc] s (State.beat s c b) := by
  unfold State.beat
  try dsimp only
  repeat' first
    | with_reducible exact Frame.refl
    | with_reducible apply Frame.via (Frame.grow (State.beatTaken_frame ..) (by decide))
    | with_reducible apply Frame.via (Frame.grow (State.beatSeen_frame ..) (by decide))
    | with_reducible apply Frame.via (Frame.grow (State.beatSlot_frame ..) (by decide))
    | with_reducible apply Frame.via (Frame.grow (State.beatFaults_frame ..) (by decide))
    | with_reducible apply Frame.via (Frame.grow (State.deliver_frame ..) (by decide))
    | with_reducible apply Frame.via (Frame.grow (State.raise_frame ..) (by decide))
    | with_reducible apply Frame.via (Frame.grow (State.updPort_frame ..) (by decide))
    | split

theorem doWriteData_frame (s : State) (c : Nat) (par : OutPar) :
    Frame [.gls, .flt, .insts, .queues, .chans, .frags, .ports, .walks, .walked] s (doWriteData c par s) := by
  unfold doWriteData
  try dsimp only
  repeat' first
    | with_reducible exact Frame.refl
    | with_reducible apply Frame.via (Frame.grow (State.outParity_frame ..) (by decide))
    | with_reducible apply Frame.via (Frame.grow (State.writesOver_frame ..) (by decide))
    | with_reducible apply Frame.via (Frame.grow (State.updFrag_frame ..) (by decide))
    | with_reducible apply Frame.via (Frame.grow (State.updAcc_frame ..) (by decide))
    | with_reducible apply Frame.via (Frame.grow (State.updPort_frame ..) (by decide))
    | split

theorem State.acked_frame (s : State) (w : WrOut) (st : Nat) :
    Frame [.clk, .glb, .flt, .pur, .insts, .queues, .chans, .frags, .ports, .inbs, .cc, .walks, .walked, .logc] s (State.acked s w st) := by
  unfold State.acked
  try dsimp only
  repeat' first
    | with_reducible exact Frame.refl
    | with_reducible apply Frame.via (Frame.grow (State.logWritten_frame ..) (by decide))
    | with_reducible apply Frame.via (Frame.grow (State.updInb_frame ..) (by decide))
    | with_reducible apply Frame.via (Frame.grow (State.purEnds_frame ..) (by decide))
    | with_reducible apply Frame.via (Frame.grow (State.msiEnds_frame ..) (by decide))
    | with_reducible apply Frame.via (Frame.grow (State.ovrDone_frame ..) (by decide))
    | with_reducible apply Frame.via (Frame.grow (State.fragWriteEnds_frame ..) (by decide))
    | with_reducible apply Frame.via (Frame.grow (State.fragDstFails_frame ..) (by decide))
    | with_reducible apply Frame.via (Frame.grow (State.recordFails_frame ..) (by decide))
    | with_reducible apply Frame.via (Frame.grow (State.recordDone_frame ..) (by decide))
    | split

theorem doWriteAck_frame (s : State) (c : Nat) (tag : Tag) (stat : BitVec 2) :
    Frame [.clk, .glb, .flt, .pur, .insts, .queues, .chans, .frags, .ports, .inbs, .cc, .walks, .walked, .logc] s (doWriteAck c tag stat s) := by
  unfold doWriteAck
  try dsimp only
  repeat' first
    | with_reducible exact Frame.refl
    | with_reducible apply Frame.via (Frame.grow (State.acked_frame ..) (by decide))
    | with_reducible apply Frame.via (Frame.grow (State.raise_frame ..) (by decide))
    | with_reducible apply Frame.via (Frame.grow (State.updPort_frame ..) (by decide))
    | split
    | with_reducible refine State.unlessWritten_frame ?_ ?_

/-! ### Instance -/

theorem State.stopRequests_frame (s : State) (i : Nat) (reset : Bool) :
    Frame [.ports, .walks] s (State.stopRequests s i reset) := by
  unfold State.stopRequests
  try dsimp only
  repeat' first
    | with_reducible exact Frame.refl
    | split
    | ((with_reducible refine Frame.flds ?_ ?_); (case refine_1 => (intro p hp; cases p <;> first | rfl | exact absurd (by decide) hp)))

theorem State.disownReads_frame (s : State) (i : Nat) (reset : Bool) (lost : List Nat) :
    Frame [.ports, .fabs] s (State.disownReads s i reset lost) := by
  unfold State.disownReads
  try dsimp only
  repeat' first
    | with_reducible exact Frame.refl
    | split
    | ((with_reducible refine Frame.flds ?_ ?_); (case refine_1 => (intro p hp; cases p <;> first | rfl | exact absurd (by decide) hp)))

theorem State.burstCut_frame (s : State) (f : Frag) :
    Frame [.chans] s (State.burstCut s f) := by
  unfold State.burstCut
  try dsimp only
  repeat' first
    | with_reducible exact Frame.refl
    | with_reducible apply Frame.via (Frame.grow (State.updChan_frame ..) (by decide))
    | split

theorem State.discard_frame (s : State) (i : Nat) (reset : Bool) :
    Frame [.chans, .frags, .ports, .fabs, .walks, .walked] s (State.discard s i reset) := by
  unfold State.discard
  try dsimp only
  repeat' first
    | with_reducible exact Frame.refl
    | with_reducible refine Frame.foldl (fun _ _ => ?_) ?_
    | with_reducible apply Frame.via (Frame.grow (State.burstCut_frame ..) (by decide))
    | with_reducible apply Frame.via (Frame.grow (State.disownReads_frame ..) (by decide))
    | with_reducible apply Frame.via (Frame.grow (State.stopRequests_frame ..) (by decide))
    | with_reducible apply Frame.via (Frame.grow (State.dropWalks_frame ..) (by decide))
    | split
    | ((with_reducible refine Frame.flds ?_ ?_); (case refine_1 => (intro p hp; cases p <;> first | rfl | exact absurd (by decide) hp)))

theorem State.cutsOver_frame (s : State) (i : Nat) :
    Frame [.flt, .insts, .queues, .chans, .frags, .ports, .walks, .walked] s (State.cutsOver s i) := by
  unfold State.cutsOver
  repeat' first
    | with_reducible exact Frame.refl
    | with_reducible refine Frame.foldl (fun _ _ => ?_) ?_
    | with_reducible apply Frame.via (Frame.grow (State.writesOver_frame ..) (by decide))
    | split

theorem State.stopEvents_frame (s : State) (i : Nat) :
    Frame [.insts] s (State.stopEvents s i) := by
  unfold State.stopEvents
  try dsimp only
  repeat' first
    | with_reducible exact Frame.refl
    | with_reducible apply Frame.via (Frame.grow (State.updInst_frame ..) (by decide))
    | split

theorem State.stopWork_frame (s : State) (i : Nat) (reset : Bool) :
    Frame [.flt, .insts, .queues, .chans, .frags, .ports, .fabs, .walks, .walked] s (State.stopWork s i reset) := by
  unfold State.stopWork
  try dsimp only
  repeat' first
    | with_reducible exact Frame.refl
    | with_reducible refine Frame.foldl (fun _ _ => ?_) ?_
    | with_reducible apply Frame.via (Frame.grow (State.stopEvents_frame ..) (by decide))
    | with_reducible apply Frame.via (Frame.grow (State.cutsOver_frame ..) (by decide))
    | with_reducible apply Frame.via (Frame.grow (State.discard_frame ..) (by decide))
    | with_reducible apply Frame.via (Frame.grow (State.settleBegins_frame ..) (by decide))
    | with_reducible apply Frame.via (Frame.grow (State.chContain_frame ..) (by decide))
    | with_reducible apply Frame.via (Frame.grow (State.chHalt_frame ..) (by decide))
    | with_reducible apply Frame.via (Frame.grow (State.updQueue_frame ..) (by decide))
    | with_reducible apply Frame.via (Frame.grow (State.updInst_frame ..) (by decide))
    | split

theorem State.beginReset_frame (s : State) (i : Nat) (removing : Bool) :
    Frame [.flt, .insts, .queues, .chans, .frags, .ports, .fabs, .walks, .walked] s (State.beginReset s i removing) := by
  unfold State.beginReset
  try dsimp only
  repeat' first
    | with_reducible exact Frame.refl
    | with_reducible apply Frame.via (Frame.grow (State.stopWork_frame ..) (by decide))
    | with_reducible apply Frame.via (Frame.grow (State.updInst_frame ..) (by decide))
    | split

theorem State.contain_frame (s : State) (i : Nat) :
    Frame [.flt, .insts, .queues, .chans, .frags, .ports, .fabs, .walks, .walked] s (State.contain s i) := by
  unfold State.contain
  try dsimp only
  repeat' first
    | with_reducible exact Frame.refl
    | with_reducible apply Frame.via (Frame.grow (State.stopWork_frame ..) (by decide))
    | with_reducible apply Frame.via (Frame.grow (State.updInst_frame ..) (by decide))
    | split

theorem State.newGen_frame (s : State) (i : Nat) :
    Frame [.insts, .queues, .chans, .frags, .ports, .fabs, .cc, .walks, .walked] s (State.newGen s i) := by
  unfold State.newGen
  try dsimp only
  repeat' first
    | with_reducible exact Frame.refl
    | with_reducible refine Frame.foldl (fun _ _ => ?_) ?_
    | with_reducible apply Frame.via (Frame.grow (State.updQueue_frame ..) (by decide))
    | with_reducible apply Frame.via (Frame.grow (State.updChan_frame ..) (by decide))
    | with_reducible apply Frame.via (Frame.grow (State.updInst_frame ..) (by decide))
    | split
    | ((with_reducible refine Frame.flds ?_ ?_); (case refine_1 => (intro p hp; cases p <;> first | rfl | exact absurd (by decide) hp)))

theorem doSettleEnd_frame (s : State) (i : Nat) :
    Frame [.insts, .queues, .chans, .frags, .ports, .fabs, .cc, .walks, .walked] s (doSettleEnd i s) := by
  unfold doSettleEnd
  try dsimp only
  repeat' first
    | with_reducible exact Frame.refl
    | with_reducible apply Frame.via (Frame.grow (State.newGen_frame ..) (by decide))
    | with_reducible apply Frame.via (Frame.grow (State.updInst_frame ..) (by decide))
    | split

theorem doSettleTmo_frame (s : State) (c slot : Nat) :
    Frame [.flt, .insts, .queues, .chans, .frags, .ports, .walks, .walked] s (doSettleTmo c slot s) := by
  unfold doSettleTmo
  try dsimp only
  repeat' first
    | with_reducible exact Frame.refl
    | with_reducible apply Frame.via (Frame.grow (State.ovrDone_frame ..) (by decide))
    | with_reducible apply Frame.via (Frame.grow (State.fragWriteEnds_frame ..) (by decide))
    | with_reducible apply Frame.via (Frame.grow (State.raise_frame ..) (by decide))
    | with_reducible apply Frame.via (Frame.grow (State.updPort_frame ..) (by decide))
    | split

theorem doContained_frame (s : State) (i : Nat) :
    Frame [.insts] s (doContained i s) := by
  unfold doContained
  try dsimp only
  repeat' first
    | with_reducible exact Frame.refl
    | with_reducible apply Frame.via (Frame.grow (State.updInst_frame ..) (by decide))
    | split

theorem State.ccStart_frame (s : State) :
    Frame [.glb, .ports, .cc, .walks, .walked] s (State.ccStart s) := by
  unfold State.ccStart
  try dsimp only
  repeat' first
    | with_reducible exact Frame.refl
    | split
    | ((with_reducible refine Frame.flds ?_ ?_); (case refine_1 => (intro p hp; cases p <;> first | rfl | exact absurd (by decide) hp)))

theorem State.ccInvalidate_frame (s : State) (v : Word) :
    Frame [.clk, .pwr, .glb, .ports, .cc, .walks, .walked] s (State.ccInvalidate s v) := by
  unfold State.ccInvalidate
  try dsimp only
  repeat' first
    | with_reducible exact Frame.refl
    | with_reducible apply Frame.via (Frame.grow (State.ccStart_frame ..) (by decide))
    | with_reducible apply Frame.via (Frame.grow (State.noteWrite_frame ..) (by decide))
    | split
    | with_reducible refine State.steer_frame ?_ ?_ (by decide)
    | ((with_reducible refine Frame.flds ?_ ?_); (case refine_1 => (intro p hp; cases p <;> first | rfl | exact absurd (by decide) hp)))

theorem doCcDone_frame (s : State) :
    Frame [.glb, .ports, .cc, .walks, .walked] s (doCcDone s) := by
  unfold doCcDone
  try dsimp only
  repeat' first
    | with_reducible exact Frame.refl
    | with_reducible apply Frame.via (Frame.grow (State.ccStart_frame ..) (by decide))
    | split
    | ((with_reducible refine Frame.flds ?_ ?_); (case refine_1 => (intro p hp; cases p <;> first | rfl | exact absurd (by decide) hp)))

/-! ### Fault -/

theorem State.stopUnit_frame (s : State) (d : Detection) :
    Frame [.flt, .pur, .insts, .queues, .chans, .engs, .frags, .ports, .fabs, .walks, .walked] s (State.stopUnit s d) := by
  unfold State.stopUnit
  try dsimp only
  repeat' first
    | with_reducible exact Frame.refl
    | with_reducible apply Frame.via (Frame.grow (State.writeEnable_frame ..) (by decide))
    | with_reducible apply Frame.via (Frame.grow (State.haltEngine_frame ..) (by decide))
    | with_reducible apply Frame.via (Frame.grow (State.chStop_frame ..) (by decide))
    | with_reducible apply Frame.via (Frame.grow (State.haltPurser_frame ..) (by decide))
    | split

theorem State.act_frame (s : State) (d : Detection) (cls : Nat) :
    Frame [.pwr, .flt, .pur, .insts, .queues, .chans, .engs, .frags, .ports, .fabs, .walks, .walked] s (State.act s d cls) := by
  unfold State.act
  try dsimp only
  repeat' first
    | with_reducible exact Frame.refl
    | with_reducible apply Frame.via (Frame.grow (State.stopUnit_frame ..) (by decide))
    | with_reducible apply Frame.via (Frame.grow (State.contain_frame ..) (by decide))
    | with_reducible apply Frame.via (Frame.grow (State.haltPurser_frame ..) (by decide))
    | split
    | ((with_reducible refine Frame.flds ?_ ?_); (case refine_1 => (intro p hp; cases p <;> first | rfl | exact absurd (by decide) hp)))

theorem State.viewCount_frame (s : State) (i : Nat) (d : Detection) :
    Frame [.insts] s (State.viewCount s i d) := by
  unfold State.viewCount
  try dsimp only
  repeat' first
    | with_reducible exact Frame.refl
    | with_reducible apply Frame.via (Frame.grow (State.fvCount_frame ..) (by decide))
    | split

theorem State.view_frame (s : State) (d : Detection) (cls : Nat) :
    Frame [.insts] s (State.view s d cls) := by
  unfold State.view
  try dsimp only
  repeat' first
    | with_reducible exact Frame.refl
    | with_reducible apply Frame.via (Frame.grow (State.viewCount_frame ..) (by decide))
    | with_reducible apply Frame.via (Frame.grow (State.updInst_frame ..) (by decide))
    | split

theorem State.notice_frame (s : State) (i code : Nat) (load : List Byte) :
    Frame [.flt, .insts] s (State.notice s i code load) := by
  unfold State.notice
  repeat' first
    | with_reducible exact Frame.refl
    | with_reducible apply Frame.via (Frame.grow (State.post_frame ..) (by decide))
    | split

theorem State.openRecord_frame (s : State) (r : Report) :
    Frame [.flt] s (State.openRecord s r) := by
  unfold State.openRecord
  try dsimp only
  repeat' first
    | with_reducible exact Frame.refl
    | split
    | ((with_reducible refine Frame.flds ?_ ?_); (case refine_1 => (intro p hp; cases p <;> first | rfl | exact absurd (by decide) hp)))

theorem State.afterClock_frame (s : State) (ds : List Detection) :
    Frame [.clk, .glb, .flt] s (State.afterClock s ds) := by
  unfold State.afterClock
  try dsimp only
  repeat' first
    | with_reducible exact Frame.refl
    | with_reducible refine Frame.foldl (fun _ _ => ?_) ?_
    | with_reducible apply Frame.via (Frame.grow (State.updSrc_frame ..) (by decide))
    | split
    | ((with_reducible refine Frame.flds ?_ ?_); (case refine_1 => (intro p hp; cases p <;> first | rfl | exact absurd (by decide) hp)))

theorem State.tally_frame (s : State) (r : Report) :
    Frame [.clk, .pwr, .flt] s (State.tally s r) := by
  unfold State.tally
  try dsimp only
  repeat' first
    | with_reducible exact Frame.refl
    | with_reducible apply Frame.via (Frame.grow (State.wakeBy_frame ..) (by decide))
    | with_reducible apply Frame.via (Frame.grow (State.updSrc_frame ..) (by decide))
    | with_reducible apply Frame.via (Frame.grow (State.noteSet_frame ..) (by decide))
    | split
    | with_reducible refine State.unlessWritten_frame ?_ ?_
    | ((with_reducible refine Frame.flds ?_ ?_); (case refine_1 => (intro p hp; cases p <;> first | rfl | exact absurd (by decide) hp)))

theorem State.repair_frame (s : State) (d : Detection) :
    Frame [.queues, .chans, .cc] s (State.repair s d) := by
  unfold State.repair
  try dsimp only
  repeat' first
    | with_reducible exact Frame.refl
    | with_reducible apply Frame.via (Frame.grow (State.updQueue_frame ..) (by decide))
    | with_reducible apply Frame.via (Frame.grow (State.updChan_frame ..) (by decide))
    | split
    | ((with_reducible refine Frame.flds ?_ ?_); (case refine_1 => (intro p hp; cases p <;> first | rfl | exact absurd (by decide) hp)))

theorem State.viewAll_frame (s : State) (ps : List (Detection × Nat × Bool)) :
    Frame [.insts] s (State.viewAll s ps) := by
  unfold State.viewAll
  try dsimp only
  repeat' first
    | with_reducible exact Frame.refl
    | with_reducible refine Frame.foldl (fun _ _ => ?_) ?_
    | with_reducible apply Frame.via (Frame.grow (State.view_frame ..) (by decide))
    | split

theorem State.viewNotices_frame (s before : State) : Frame [.flt, .insts] s (State.viewNotices s before) := by
  unfold State.viewNotices
  refine Frame.foldl (fun _ _ => ?_) Frame.refl
  exact Frame.trans (Frame.grow (State.updInst_frame _ _ _) (by decide)) (State.notice_frame _ _ _ _)

theorem State.mergeAll_frame (s : State) (rs : List Report) : Frame [.flt] s (s.mergeAll rs).1 := by
  induction rs generalizing s with
  | nil => exact Frame.refl
  | cons r rest ih =>
    refine Frame.trans (t := (s.mergeOne r).1) (Frame.intro fun p hp => ?_) (ih _)
    cases p <;> first | rfl | exact absurd (by decide) hp

theorem State.toRecord_frame (s : State) (rs : List Report) : Frame [.flt] s (s.toRecord rs).1 := by
  unfold State.toRecord
  dsimp only
  split
  · exact State.mergeAll_frame _ _
  split
  · exact Frame.refl
  · exact Frame.trans (State.openRecord_frame _ _) (State.mergeAll_frame _ _)

theorem State.actAll_frame (s : State) (ps : List (Detection × Nat × Bool)) : Frame [.clk, .pwr, .flt, .pur, .insts, .queues, .chans, .engs, .frags, .ports, .fabs, .cc, .walks, .walked] s (s.actAll ps).1 := by
  induction ps generalizing s with
  | nil => exact Frame.refl
  | cons x rest ih =>
    refine Frame.trans ?_ (ih _)
    refine Frame.trans ?_ (Frame.grow (State.act_frame _ _ _) (by decide))
    split
    · exact Frame.grow (State.repair_frame _ _) (by decide)
    · exact Frame.refl

theorem State.detect_frame (s : State) (found : List Detection) :
    Frame [.clk, .pwr, .glb, .flt, .pur, .insts, .queues, .chans, .engs, .frags, .ports, .fabs, .cc, .walks, .walked] s (State.detect s found) := by
  unfold State.detect
  dsimp only
  split
  · exact Frame.refl
  refine Frame.trans ?_ (Frame.grow (State.viewNotices_frame _ _) (by decide))
  refine Frame.foldl (fun _ _ => Frame.grow (State.notice_frame _ _ _ _) (by decide)) ?_
  refine Frame.trans ?_ (Frame.grow (State.actAll_frame _ _) (by decide))
  refine Frame.trans ?_ (Frame.grow (State.viewAll_frame _ _) (by decide))
  refine Frame.trans ?_ (Frame.grow (State.toRecord_frame _ _) (by decide))
  refine Frame.foldl (fun _ _ => Frame.grow (State.tally_frame _ _) (by decide)) ?_
  exact Frame.grow (State.afterClock_frame _ _) (by decide)

theorem State.stall_frame (s : State) (source kind unit : Nat) (present : Bool) :
    Frame [.flt] s (State.stall s source kind unit present) := by
  unfold State.stall
  repeat' first
    | with_reducible exact Frame.refl
    | with_reducible apply Frame.via (Frame.grow (State.level_frame ..) (by decide))
    | split

theorem State.closeRecord_frame (s : State) :
    Frame [.flt] s (State.closeRecord s) := by
  unfold State.closeRecord
  try dsimp only
  repeat' first
    | with_reducible exact Frame.refl
    | split
    | ((with_reducible refine Frame.flds ?_ ?_); (case refine_1 => (intro p hp; cases p <;> first | rfl | exact absurd (by decide) hp)))

theorem State.scrubFound_frame (s : State) (f : ScrubFind) :
    Frame [.flt] s (State.scrubFound s f) := by
  unfold State.scrubFound
  try dsimp only
  repeat' first
    | with_reducible exact Frame.refl
    | split
    | ((with_reducible refine Frame.flds ?_ ?_); (case refine_1 => (intro p hp; cases p <;> first | rfl | exact absurd (by decide) hp)))

theorem doScrub_frame (s : State) (found : List ScrubFind) :
    Frame [.flt] s (doScrub found s) := by
  unfold doScrub
  try dsimp only
  repeat' first
    | with_reducible exact Frame.refl
    | with_reducible refine Frame.foldl (fun _ _ => ?_) ?_
    | with_reducible apply Frame.via (Frame.grow (State.scrubFound_frame ..) (by decide))
    | split
    | ((with_reducible refine Frame.flds ?_ ?_); (case refine_1 => (intro p hp; cases p <;> first | rfl | exact absurd (by decide) hp)))

theorem doHoldScrub_frame (s : State) (parityError : Bool) :
    Frame [.flt, .hold] s (doHoldScrub parityError s) := by
  unfold doHoldScrub
  try dsimp only
  repeat' first
    | with_reducible exact Frame.refl
    | with_reducible apply Frame.via (Frame.grow (State.raise_frame ..) (by decide))
    | split
    | ((with_reducible refine Frame.flds ?_ ?_); (case refine_1 => (intro p hp; cases p <;> first | rfl | exact absurd (by decide) hp)))

theorem State.scrubBell_frame (s : State) :
    Frame [.flt] s (State.scrubBell s) := by
  unfold State.scrubBell
  try dsimp only
  repeat' first
    | with_reducible exact Frame.refl
    | split
    | ((with_reducible refine Frame.flds ?_ ?_); (case refine_1 => (intro p hp; cases p <;> first | rfl | exact absurd (by decide) hp)))

/-! ### Purser -/

theorem State.answer_frame (s : State) (src : CmdSrc) (bytes : List Byte) :
    Frame [.clk, .mbs, .queues] s (State.answer s src bytes) := by
  unfold State.answer
  try dsimp only
  repeat' first
    | with_reducible exact Frame.refl
    | with_reducible apply Frame.via (Frame.grow (State.noteSet_frame ..) (by decide))
    | with_reducible apply Frame.via (Frame.grow (State.updEntry_frame ..) (by decide))
    | with_reducible apply Frame.via (Frame.grow (State.updMb_frame ..) (by decide))
    | split

theorem State.accepts_frame (s : State) :
    Frame [.pur] s (State.accepts s) := by
  unfold State.accepts
  try dsimp only
  repeat' first
    | with_reducible exact Frame.refl
    | split
    | ((with_reducible refine Frame.flds ?_ ?_); (case refine_1 => (intro p hp; cases p <;> first | rfl | exact absurd (by decide) hp)))

theorem State.curEnds_frame (s : State) :
    Frame [.pur] s (State.curEnds s) := by
  unfold State.curEnds
  try dsimp only
  repeat' first
    | with_reducible exact Frame.refl
    | split
    | ((with_reducible refine Frame.flds ?_ ?_); (case refine_1 => (intro p hp; cases p <;> first | rfl | exact absurd (by decide) hp)))

theorem State.stepEnds_frame (s : State) :
    Frame [.pur] s (State.stepEnds s) := by
  unfold State.stepEnds
  repeat' first
    | with_reducible exact Frame.refl
    | with_reducible apply Frame.via (Frame.grow (State.curEnds_frame ..) (by decide))
    | with_reducible apply Frame.via (Frame.grow (State.accepts_frame ..) (by decide))
    | split

theorem State.done_frame (s : State) (c : Cmd) (effect : Nat) (ret : List Byte) :
    Frame [.clk, .mbs, .pur, .queues] s (State.done s c effect ret) := by
  unfold State.done
  repeat' first
    | with_reducible exact Frame.refl
    | with_reducible apply Frame.via (Frame.grow (State.stepEnds_frame ..) (by decide))
    | with_reducible apply Frame.via (Frame.grow (State.answer_frame ..) (by decide))
    | split

theorem State.refuse_frame (s : State) (c : Cmd) (r : Refuse) :
    Frame [.clk, .mbs, .pur, .queues] s (State.refuse s c r) := by
  unfold State.refuse
  repeat' first
    | with_reducible exact Frame.refl
    | with_reducible apply Frame.via (Frame.grow (State.stepEnds_frame ..) (by decide))
    | with_reducible apply Frame.via (Frame.grow (State.answer_frame ..) (by decide))
    | split

theorem State.deferCmd_frame (s : State) (c : Cmd) (inst : Nat) (lines : List (Nat × Nat × Nat)) :
    Frame [.pur] s (State.deferCmd s c inst lines) := by
  unfold State.deferCmd
  try dsimp only
  repeat' first
    | with_reducible exact Frame.refl
    | with_reducible apply Frame.via (Frame.grow (State.stepEnds_frame ..) (by decide))
    | split
    | ((with_reducible refine Frame.flds ?_ ?_); (case refine_1 => (intro p hp; cases p <;> first | rfl | exact absurd (by decide) hp)))

theorem State.checked_frame {ps : List Part} (s : State) (c : Cmd) (rs : List Refuse) (go : State) (h : Frame ps s go)
    (hs : [Part.clk, .mbs, .pur, .queues].all ps.contains = true) : Frame ps s (State.checked s c rs go) := by
  unfold State.checked
  split
  · exact Frame.grow (State.refuse_frame _ _ _) hs
  · exact h

theorem State.purMemErr_frame (s : State) (c : Cmd) :
    Frame [.flt] s (State.purMemErr s c) := by
  unfold State.purMemErr
  repeat' first
    | with_reducible exact Frame.refl
    | with_reducible apply Frame.via (Frame.grow (State.raise_frame ..) (by decide))
    | split

theorem State.accEnds_frame (s : State) :
    Frame [.pur, .ports, .walks, .walked] s (State.accEnds s) := by
  unfold State.accEnds
  try dsimp only
  repeat' first
    | with_reducible exact Frame.refl
    | with_reducible apply Frame.via (Frame.grow (State.dropWalks_frame ..) (by decide))
    | with_reducible apply Frame.via (Frame.grow (State.dropPur_frame ..) (by decide))
    | split
    | ((with_reducible refine Frame.flds ?_ ?_); (case refine_1 => (intro p hp; cases p <;> first | rfl | exact absurd (by decide) hp)))

theorem State.purRead_frame {ps : List Part} (s : State) (c : Cmd) (addr n : Nat) (early : List Refuse) (go : List Byte → State → State)
    (h : ∀ b u, Frame ps u (go b u)) (hs : [Part.clk, .flt, .mbs, .pur, .queues, .ports, .cc, .walks, .walked].all ps.contains = true) :
    Frame ps s (s.purRead c addr n early go) := by
  have he : Frame ps s s.accEnds := Frame.grow (Frame.grow (qs := [.clk, .flt, .mbs, .pur, .queues, .ports, .cc, .walks, .walked]) (State.accEnds_frame s) (by decide)) hs
  have hm : Frame ps s (s.accEnds.purMemErr c) :=
    he.trans (Frame.grow (Frame.grow (qs := [.clk, .flt, .mbs, .pur, .queues, .ports, .cc, .walks, .walked]) (State.purMemErr_frame _ c) (by decide)) hs)
  have hc : [Part.clk, .mbs, .pur, .queues].all ps.contains = true := by
    simp only [List.all_cons, List.all_nil, Bool.and_true, Bool.and_eq_true] at hs ⊢
    exact ⟨hs.1, hs.2.2.1, hs.2.2.2.1, hs.2.2.2.2.1⟩
  unfold State.purRead
  split
  · exact State.checked_frame _ _ _ _ (Frame.grow (Frame.grow (qs := [.clk, .flt, .mbs, .pur, .queues, .ports, .cc, .walks, .walked]) (State.purBegin_frame s _ _ _ _) (by decide)) hs) hc
  split
  · exact Frame.refl
  split
  · dsimp only
    split
    · exact hm
    · exact hm.trans (Frame.grow (State.refuse_frame _ _ _) hc)
  · exact he.trans (State.checked_frame _ _ _ _ (h _ _) hc)

theorem State.purWrite_frame (s : State) (c : Cmd) (addr : Nat) (early : List Refuse) (bytes : List Byte) :
    Frame [.clk, .flt, .mbs, .pur, .queues, .ports, .cc, .walks, .walked] s (State.purWrite s c addr early bytes) := by
  unfold State.purWrite
  try dsimp only
  repeat' first
    | with_reducible exact Frame.refl
    | with_reducible apply Frame.via (Frame.grow (State.accEnds_frame ..) (by decide))
    | with_reducible apply Frame.via (Frame.grow (State.purMemErr_frame ..) (by decide))
    | with_reducible apply Frame.via (Frame.grow (State.curEnds_frame ..) (by decide))
    | with_reducible apply Frame.via (Frame.grow (State.accepts_frame ..) (by decide))
    | with_reducible apply Frame.via (Frame.grow (State.answer_frame ..) (by decide))
    | with_reducible apply Frame.via (Frame.grow (State.purBegin_frame ..) (by decide))
    | ((with_reducible apply State.checked_frame); (case hs => decide))
    | split

theorem State.mbCtl_frame (s : State) (m : Nat) (irqEn go : Bool) :
    Frame [.mbs] s (State.mbCtl s m irqEn go) := by
  unfold State.mbCtl
  try dsimp only
  repeat' first
    | with_reducible exact Frame.refl
    | with_reducible apply Frame.via (Frame.grow (State.updMb_frame ..) (by decide))
    | split

theorem doCommandStart_frame (s : State) :
    Frame [.clk, .mbs, .pur, .queues] s (doCommandStart s) := by
  unfold doCommandStart
  try dsimp only
  repeat' first
    | with_reducible exact Frame.refl
    | with_reducible apply Frame.via (Frame.grow (State.answer_frame ..) (by decide))
    | with_reducible apply Frame.via (Frame.grow (State.updEntry_frame ..) (by decide))
    | with_reducible apply Frame.via (Frame.grow (State.updMb_frame ..) (by decide))
    | split
    | ((with_reducible refine Frame.flds ?_ ?_); (case refine_1 => (intro p hp; cases p <;> first | rfl | exact absurd (by decide) hp)))

theorem doCmdTmo_frame (s : State) :
    Frame [.flt, .pur] s (doCmdTmo s) := by
  unfold doCmdTmo
  try dsimp only
  repeat' first
    | with_reducible exact Frame.refl
    | with_reducible apply Frame.via (Frame.grow (State.raise_frame ..) (by decide))
    | split
    | ((with_reducible refine Frame.flds ?_ ?_); (case refine_1 => (intro p hp; cases p <;> first | rfl | exact absurd (by decide) hp)))

end Sys2Proof.Machine
end

