-- ==== Sys2Proof/Laws/Frame3.lean ====
section
/-! SUPPORT. The parts of State that each shared operation may change: commands of the mailboxes, the glass, timers, the monitor, power, start-up, register writes and the tick. -/

namespace Sys2Proof.Machine

open Sys2Proof

theorem State.thawed_frame {ps : List Part} (s t : State) (h : Frame ps s t) (hs : ps.contains .bell = true) :
    Frame ps s (State.thawed s t) := by
  unfold State.thawed
  split
  · refine h.trans (Frame.intro fun p hp => ?_)
    cases p <;> first | rfl | exact absurd (by simpa using hs) hp
  · exact h

/-! ### Commands -/

theorem doQueryVersions_frame (s : State) (c : Cmd) :
    Frame [.clk, .mbs, .pur, .queues] s (doQueryVersions c s) := by
  unfold doQueryVersions
  repeat' first
    | with_reducible exact Frame.refl
    | with_reducible apply Frame.via (Frame.grow (State.done_frame ..) (by decide))
    | ((with_reducible apply State.checked_frame); (case hs => decide))
    | split

theorem doQueryInstance_frame (s : State) (c : Cmd) :
    Frame [.clk, .flt, .mbs, .pur, .queues, .ports, .cc, .walks, .walked] s (doQueryInstance c s) := by
  unfold doQueryInstance
  repeat' first
    | with_reducible exact Frame.refl
    | with_reducible apply Frame.via (Frame.grow (State.purWrite_frame ..) (by decide))
    | split

theorem doQueryPool_frame (s : State) (c : Cmd) :
    Frame [.clk, .flt, .mbs, .pur, .queues, .ports, .cc, .walks, .walked] s (doQueryPool c s) := by
  unfold doQueryPool
  repeat' first
    | with_reducible exact Frame.refl
    | with_reducible apply Frame.via (Frame.grow (State.purWrite_frame ..) (by decide))
    | split

theorem State.instCreate_frame (s : State) (c : Cmd) (r : List Byte) :
    Frame [.clk, .mbs, .pur, .led, .insts, .queues] s (State.instCreate s c r) := by
  unfold State.instCreate
  try dsimp only
  repeat' first
    | with_reducible exact Frame.refl
    | with_reducible apply Frame.via (Frame.grow (State.done_frame ..) (by decide))
    | with_reducible apply Frame.via (Frame.grow (State.updInst_frame ..) (by decide))
    | ((with_reducible apply State.checked_frame); (case hs => decide))
    | split

theorem doInstCreate_frame (s : State) (c : Cmd) :
    Frame [.clk, .flt, .mbs, .pur, .led, .insts, .queues, .ports, .cc, .walks, .walked] s (doInstCreate c s) := by
  unfold doInstCreate
  try dsimp only
  repeat' first
    | with_reducible exact Frame.refl
    | with_reducible apply Frame.via (Frame.grow (State.instCreate_frame ..) (by decide))
    | with_reducible refine State.purRead_frame _ _ _ _ _ _ (fun _ _ => ?_) (by decide)
    | split

theorem doInstEnd_frame (s : State) (removing : Bool) (c : Cmd) :
    Frame [.clk, .flt, .mbs, .pur, .insts, .queues, .chans, .frags, .ports, .fabs, .walks, .walked] s (doInstEnd removing c s) := by
  unfold doInstEnd
  repeat' first
    | with_reducible exact Frame.refl
    | with_reducible apply Frame.via (Frame.grow (State.deferCmd_frame ..) (by decide))
    | with_reducible apply Frame.via (Frame.grow (State.beginReset_frame ..) (by decide))
    | ((with_reducible apply State.checked_frame); (case hs => decide))
    | split

theorem State.setSusp_frame (s : State) (i : Nat) (on : Bool) :
    Frame [.flt, .insts, .queues, .chans] s (State.setSusp s i on) := by
  unfold State.setSusp
  try dsimp only
  repeat' first
    | with_reducible exact Frame.refl
    | with_reducible refine Frame.foldl (fun _ _ => ?_) ?_
    | with_reducible apply Frame.via (Frame.grow (State.chResume_frame ..) (by decide))
    | with_reducible apply Frame.via (Frame.grow (State.chHold_frame ..) (by decide))
    | with_reducible apply Frame.via (Frame.grow (State.updQueue_frame ..) (by decide))
    | with_reducible apply Frame.via (Frame.grow (State.updChan_frame ..) (by decide))
    | split

theorem doSuspend_frame (s : State) (c : Cmd) :
    Frame [.clk, .flt, .mbs, .pur, .insts, .queues, .chans] s (doSuspend c s) := by
  unfold doSuspend
  try dsimp only
  repeat' first
    | with_reducible exact Frame.refl
    | with_reducible apply Frame.via (Frame.grow (State.setSusp_frame ..) (by decide))
    | with_reducible apply Frame.via (Frame.grow (State.deferCmd_frame ..) (by decide))
    | with_reducible apply Frame.via (Frame.grow (State.updInst_frame ..) (by decide))
    | ((with_reducible apply State.checked_frame); (case hs => decide))
    | split

theorem doResume_frame (s : State) (c : Cmd) :
    Frame [.clk, .flt, .mbs, .pur, .insts, .queues, .chans] s (doResume c s) := by
  unfold doResume
  try dsimp only
  repeat' first
    | with_reducible exact Frame.refl
    | with_reducible apply Frame.via (Frame.grow (State.setSusp_frame ..) (by decide))
    | with_reducible apply Frame.via (Frame.grow (State.done_frame ..) (by decide))
    | with_reducible apply Frame.via (Frame.grow (State.updInst_frame ..) (by decide))
    | ((with_reducible apply State.checked_frame); (case hs => decide))
    | split

theorem State.shareSet_frame (s : State) (c : Cmd) (r : List Byte) :
    Frame [.clk, .mbs, .pur, .led, .insts, .queues] s (State.shareSet s c r) := by
  unfold State.shareSet
  try dsimp only
  repeat' first
    | with_reducible exact Frame.refl
    | with_reducible apply Frame.via (Frame.grow (State.done_frame ..) (by decide))
    | with_reducible apply Frame.via (Frame.grow (State.updInst_frame ..) (by decide))
    | ((with_reducible apply State.checked_frame); (case hs => decide))
    | split

theorem doShareSet_frame (s : State) (c : Cmd) :
    Frame [.clk, .flt, .mbs, .pur, .led, .insts, .queues, .ports, .cc, .walks, .walked] s (doShareSet c s) := by
  unfold doShareSet
  repeat' first
    | with_reducible exact Frame.refl
    | with_reducible apply Frame.via (Frame.grow (State.shareSet_frame ..) (by decide))
    | with_reducible refine State.purRead_frame _ _ _ _ _ _ (fun _ _ => ?_) (by decide)
    | split

theorem doQCreate_frame (s : State) (c : Cmd) :
    Frame [.clk, .mbs, .pur, .queues] s (doQCreate c s) := by
  unfold doQCreate
  try dsimp only
  repeat' first
    | with_reducible exact Frame.refl
    | with_reducible apply Frame.via (Frame.grow (State.done_frame ..) (by decide))
    | ((with_reducible apply State.checked_frame); (case hs => decide))
    | split
    | ((with_reducible refine Frame.flds ?_ ?_); (case refine_1 => (intro p hp; cases p <;> first | rfl | exact absurd (by decide) hp)))

theorem doQResize_frame (s : State) (c : Cmd) :
    Frame [.clk, .mbs, .pur, .queues] s (doQResize c s) := by
  unfold doQResize
  try dsimp only
  repeat' first
    | with_reducible exact Frame.refl
    | with_reducible apply Frame.via (Frame.grow (State.done_frame ..) (by decide))
    | with_reducible apply Frame.via (Frame.grow (State.updQueue_frame ..) (by decide))
    | ((with_reducible apply State.checked_frame); (case hs => decide))
    | split

theorem doQDestroy_frame (s : State) (c : Cmd) :
    Frame [.clk, .mbs, .pur, .queues] s (doQDestroy c s) := by
  unfold doQDestroy
  try dsimp only
  repeat' first
    | with_reducible exact Frame.refl
    | with_reducible apply Frame.via (Frame.grow (State.deferCmd_frame ..) (by decide))
    | with_reducible apply Frame.via (Frame.grow (State.updQueue_frame ..) (by decide))
    | ((with_reducible apply State.checked_frame); (case hs => decide))
    | split

theorem doQReadCtx_frame (s : State) (c : Cmd) :
    Frame [.clk, .mbs, .pur, .queues] s (doQReadCtx c s) := by
  unfold doQReadCtx
  try dsimp only
  repeat' first
    | with_reducible exact Frame.refl
    | with_reducible apply Frame.via (Frame.grow (State.done_frame ..) (by decide))
    | ((with_reducible apply State.checked_frame); (case hs => decide))
    | split

theorem doQStrict_frame (s : State) (grant : Bool) (c : Cmd) :
    Frame [.clk, .glb, .gls, .flt, .mbs, .pur, .insts, .queues, .chans, .frags, .nextId, .ports, .fabs, .inbs, .cc, .walks, .walked, .logc] s (doQStrict grant c s) := by
  unfold doQStrict
  try dsimp only
  repeat' first
    | with_reducible exact Frame.refl
    | with_reducible apply Frame.via (Frame.grow (State.done_frame ..) (by decide))
    | with_reducible apply Frame.via (Frame.grow (State.grant_frame ..) (by decide))
    | with_reducible apply Frame.via (Frame.grow (State.updQueue_frame ..) (by decide))
    | ((with_reducible apply State.checked_frame); (case hs => decide))
    | split

theorem doAdminInit_frame (s : State) (c : Cmd) :
    Frame [.clk, .mbs, .pur, .insts, .queues] s (doAdminInit c s) := by
  unfold doAdminInit
  try dsimp only
  repeat' first
    | with_reducible exact Frame.refl
    | with_reducible apply Frame.via (Frame.grow (State.done_frame ..) (by decide))
    | with_reducible apply Frame.via (Frame.grow (State.updInst_frame ..) (by decide))
    | ((with_reducible apply State.checked_frame); (case hs => decide))
    | split
    | ((with_reducible refine Frame.flds ?_ ?_); (case refine_1 => (intro p hp; cases p <;> first | rfl | exact absurd (by decide) hp)))

theorem State.giveChan_frame (s : State) (n i : Nat) :
    Frame [.chans] s (State.giveChan s n i) := by
  unfold State.giveChan
  try dsimp only
  repeat' first
    | with_reducible exact Frame.refl
    | with_reducible apply Frame.via (Frame.grow (State.updChan_frame ..) (by decide))
    | split

theorem doChBind_frame (s : State) (c : Cmd) :
    Frame [.clk, .mbs, .pur, .queues, .chans] s (doChBind c s) := by
  unfold doChBind
  try dsimp only
  repeat' first
    | with_reducible exact Frame.refl
    | with_reducible apply Frame.via (Frame.grow (State.giveChan_frame ..) (by decide))
    | with_reducible apply Frame.via (Frame.grow (State.done_frame ..) (by decide))
    | ((with_reducible apply State.checked_frame); (case hs => decide))
    | split

theorem doChUnbind_frame (s : State) (c : Cmd) :
    Frame [.clk, .mbs, .pur, .queues, .chans] s (doChUnbind c s) := by
  unfold doChUnbind
  try dsimp only
  repeat' first
    | with_reducible exact Frame.refl
    | with_reducible apply Frame.via (Frame.grow (State.giveChan_frame ..) (by decide))
    | with_reducible apply Frame.via (Frame.grow (State.done_frame ..) (by decide))
    | ((with_reducible apply State.checked_frame); (case hs => decide))
    | split

theorem doLogOn_frame (s : State) (c : Cmd) :
    Frame [.clk, .mbs, .pur, .insts, .queues] s (doLogOn c s) := by
  unfold doLogOn
  try dsimp only
  repeat' first
    | with_reducible exact Frame.refl
    | with_reducible apply Frame.via (Frame.grow (State.deferCmd_frame ..) (by decide))
    | with_reducible apply Frame.via (Frame.grow (State.updInst_frame ..) (by decide))
    | ((with_reducible apply State.checked_frame); (case hs => decide))
    | split

theorem doLogOff_frame (s : State) (c : Cmd) :
    Frame [.clk, .mbs, .pur, .insts, .queues] s (doLogOff c s) := by
  unfold doLogOff
  try dsimp only
  repeat' first
    | with_reducible exact Frame.refl
    | with_reducible apply Frame.via (Frame.grow (State.deferCmd_frame ..) (by decide))
    | with_reducible apply Frame.via (Frame.grow (State.updInst_frame ..) (by decide))
    | ((with_reducible apply State.checked_frame); (case hs => decide))
    | split

theorem doLogFlushCmd_frame (s : State) (c : Cmd) :
    Frame [.clk, .mbs, .pur, .queues, .logc] s (doLogFlushCmd c s) := by
  unfold doLogFlushCmd
  try dsimp only
  repeat' first
    | with_reducible exact Frame.refl
    | with_reducible apply Frame.via (Frame.grow (State.deferCmd_frame ..) (by decide))
    | with_reducible apply Frame.via (Frame.grow (State.queueLines_frame ..) (by decide))
    | ((with_reducible apply State.checked_frame); (case hs => decide))
    | split

theorem State.planLoad_frame (s : State) (c : Cmd) (r : List Byte) :
    Frame [.clk, .mbs, .pur, .led, .queues] s (State.planLoad s c r) := by
  unfold State.planLoad
  try dsimp only
  repeat' first
    | with_reducible exact Frame.refl
    | with_reducible apply Frame.via (Frame.grow (State.done_frame ..) (by decide))
    | ((with_reducible apply State.checked_frame); (case hs => decide))
    | split
    | ((with_reducible refine Frame.flds ?_ ?_); (case refine_1 => (intro p hp; cases p <;> first | rfl | exact absurd (by decide) hp)))

theorem doPlanLoad_frame (s : State) (c : Cmd) :
    Frame [.clk, .flt, .mbs, .pur, .led, .queues, .ports, .cc, .walks, .walked] s (doPlanLoad c s) := by
  unfold doPlanLoad
  repeat' first
    | with_reducible exact Frame.refl
    | with_reducible apply Frame.via (Frame.grow (State.planLoad_frame ..) (by decide))
    | with_reducible refine State.purRead_frame _ _ _ _ _ _ (fun _ _ => ?_) (by decide)
    | split

theorem doPlanCancel_frame (s : State) (c : Cmd) :
    Frame [.clk, .mbs, .pur, .led, .queues] s (doPlanCancel c s) := by
  unfold doPlanCancel
  try dsimp only
  repeat' first
    | with_reducible exact Frame.refl
    | with_reducible apply Frame.via (Frame.grow (State.done_frame ..) (by decide))
    | ((with_reducible apply State.checked_frame); (case hs => decide))
    | split
    | ((with_reducible refine Frame.flds ?_ ?_); (case refine_1 => (intro p hp; cases p <;> first | rfl | exact absurd (by decide) hp)))

theorem State.dismantle_frame (s : State) (i : Nat) :
    Frame [.insts, .queues, .chans] s (State.dismantle s i) := by
  unfold State.dismantle
  try dsimp only
  repeat' first
    | with_reducible exact Frame.refl
    | with_reducible refine Frame.foldl (fun _ _ => ?_) ?_
    | with_reducible apply Frame.via (Frame.grow (State.giveChan_frame ..) (by decide))
    | with_reducible apply Frame.via (Frame.grow (State.updInst_frame ..) (by decide))
    | split
    | ((with_reducible refine Frame.flds ?_ ?_); (case refine_1 => (intro p hp; cases p <;> first | rfl | exact absurd (by decide) hp)))

theorem State.suspended_frame (s : State) :
    Frame [.insts] s (State.suspended s) := by
  unfold State.suspended
  try dsimp only
  repeat' first
    | with_reducible exact Frame.refl
    | split
    | ((with_reducible refine Frame.flds ?_ ?_); (case refine_1 => (intro p hp; cases p <;> first | rfl | exact absurd (by decide) hp)))

theorem State.finish_frame (s : State) (d : Deferred) :
    Frame [.led, .insts, .queues, .logc] s (State.finish s d) := by
  unfold State.finish
  try dsimp only
  repeat' first
    | with_reducible exact Frame.refl
    | with_reducible apply Frame.via (Frame.grow (State.suspended_frame ..) (by decide))
    | with_reducible apply Frame.via (Frame.grow (State.logOff_frame ..) (by decide))
    | with_reducible apply Frame.via (Frame.grow (State.updInst_frame ..) (by decide))
    | split
    | ((with_reducible refine Frame.flds ?_ ?_); (case refine_1 => (intro p hp; cases p <;> first | rfl | exact absurd (by decide) hp)))

theorem State.removals_frame (s : State) :
    Frame [.insts, .queues, .chans] s (State.removals s) := by
  unfold State.removals
  repeat' first
    | with_reducible exact Frame.refl
    | with_reducible refine Frame.foldl (fun _ _ => ?_) ?_
    | with_reducible apply Frame.via (Frame.grow (State.dismantle_frame ..) (by decide))
    | split

theorem doCompletion_frame (s : State) :
    Frame [.clk, .mbs, .pur, .led, .insts, .queues, .chans, .logc] s (doCompletion s) := by
  unfold doCompletion
  try dsimp only
  repeat' first
    | with_reducible exact Frame.refl
    | with_reducible apply Frame.via (Frame.grow (State.removals_frame ..) (by decide))
    | with_reducible apply Frame.via (Frame.grow (State.finish_frame ..) (by decide))
    | with_reducible apply Frame.via (Frame.grow (State.answer_frame ..) (by decide))
    | split
    | ((with_reducible refine Frame.flds ?_ ?_); (case refine_1 => (intro p hp; cases p <;> first | rfl | exact absurd (by decide) hp)))

/-! ### Bell -/

theorem State.cutClock_frame (s : State) :
    Frame [.gls] s (State.cutClock s) := by
  unfold State.cutClock
  try dsimp only
  repeat' first
    | with_reducible exact Frame.refl
    | split
    | ((with_reducible refine Frame.flds ?_ ?_); (case refine_1 => (intro p hp; cases p <;> first | rfl | exact absurd (by decide) hp)))

theorem State.addCarry_frame (s : State) (f : Frag) :
    Frame [.insts] s (State.addCarry s f) := by
  unfold State.addCarry
  try dsimp only
  repeat' first
    | with_reducible exact Frame.refl
    | with_reducible apply Frame.via (Frame.grow (State.updInst_frame ..) (by decide))
    | split

theorem State.carries_frame (s : State) :
    Frame [.insts] s (State.carries s) := by
  unfold State.carries
  repeat' first
    | with_reducible exact Frame.refl
    | with_reducible refine Frame.foldl (fun _ _ => ?_) ?_
    | with_reducible apply Frame.via (Frame.grow (State.addCarry_frame ..) (by decide))
    | split

theorem State.newGlass_frame (s : State) :
    Frame [.gls] s (State.newGlass s) := by
  unfold State.newGlass
  try dsimp only
  repeat' first
    | with_reducible exact Frame.refl
    | split
    | ((with_reducible refine Frame.flds ?_ ?_); (case refine_1 => (intro p hp; cases p <;> first | rfl | exact absurd (by decide) hp)))

theorem State.publish_frame (s : State) :
    Frame [.gls, .flt, .logc] s (State.publish s) := by
  unfold State.publish
  try dsimp only
  repeat' first
    | with_reducible exact Frame.refl
    | with_reducible apply Frame.via (Frame.grow (State.queueLines_frame ..) (by decide))
    | split
    | ((with_reducible refine Frame.flds ?_ ?_); (case refine_1 => (intro p hp; cases p <;> first | rfl | exact absurd (by decide) hp)))

theorem State.planTakes_frame (s : State) (p : Plan) :
    Frame [.bell, .gls, .flt, .led, .insts] s (State.planTakes s p) := by
  unfold State.planTakes
  try dsimp only
  repeat' first
    | with_reducible exact Frame.refl
    | with_reducible refine Frame.foldl (fun _ _ => ?_) ?_
    | with_reducible apply Frame.via (Frame.grow (State.raise_frame ..) (by decide))
    | split
    | ((with_reducible refine Frame.flds ?_ ?_); (case refine_1 => (intro p hp; cases p <;> first | rfl | exact absurd (by decide) hp)))

theorem State.planBell_frame (s : State) (g : Nat) :
    Frame [.bell, .gls, .flt, .led, .insts] s (State.planBell s g) := by
  unfold State.planBell
  repeat' first
    | with_reducible exact Frame.refl
    | with_reducible apply Frame.via (Frame.grow (State.planTakes_frame ..) (by decide))
    | split

theorem State.loadGlass_frame (s : State) :
    Frame [.gls, .insts] s (State.loadGlass s) := by
  unfold State.loadGlass
  try dsimp only
  repeat' first
    | with_reducible exact Frame.refl
    | split
    | ((with_reducible refine Frame.flds ?_ ?_); (case refine_1 => (intro p hp; cases p <;> first | rfl | exact absurd (by decide) hp)))

theorem State.glassEnds_frame (s : State) (aligned : Bool) :
    Frame [.glb, .bell, .gls, .flt, .led, .insts] s (State.glassEnds s aligned) := by
  unfold State.glassEnds
  try dsimp only
  repeat' first
    | with_reducible exact Frame.refl
    | with_reducible apply Frame.via (Frame.grow (State.loadGlass_frame ..) (by decide))
    | with_reducible apply Frame.via (Frame.grow (State.planBell_frame ..) (by decide))
    | with_reducible apply Frame.via (Frame.grow (State.carries_frame ..) (by decide))
    | with_reducible apply Frame.via (Frame.grow (State.scrubBell_frame ..) (by decide))
    | with_reducible apply Frame.via (Frame.grow (State.swapBell_frame ..) (by decide))
    | split
    | ((with_reducible refine Frame.flds ?_ ?_); (case refine_1 => (intro p hp; cases p <;> first | rfl | exact absurd (by decide) hp)))

theorem State.ring_frame (s : State) (aligned : Bool) :
    Frame [.glb, .bell, .gls, .flt, .droop, .led, .insts] s (State.ring s aligned) := by
  unfold State.ring
  try dsimp only
  repeat' first
    | with_reducible exact Frame.refl
    | with_reducible apply Frame.via (Frame.grow (State.glassEnds_frame ..) (by decide))
    | with_reducible apply Frame.via (Frame.grow (State.planBell_frame ..) (by decide))
    | with_reducible apply Frame.via (Frame.grow (State.newGlass_frame ..) (by decide))
    | with_reducible apply Frame.via (Frame.grow (State.scrubBell_frame ..) (by decide))
    | split
    | ((with_reducible refine Frame.flds ?_ ?_); (case refine_1 => (intro p hp; cases p <;> first | rfl | exact absurd (by decide) hp)))

theorem doBell_frame (s : State) :
    Frame [.clk, .glb, .bell, .gls, .flt, .droop, .led, .insts] s (doBell s) := by
  unfold doBell
  try dsimp only
  repeat' first
    | with_reducible exact Frame.refl
    | with_reducible apply Frame.via (Frame.grow (State.ring_frame ..) (by decide))
    | split
    | ((with_reducible refine Frame.flds ?_ ?_); (case refine_1 => (intro p hp; cases p <;> first | rfl | exact absurd (by decide) hp)))

theorem doEdge_frame (s : State) :
    Frame [.clk, .glb, .bell, .gls, .flt, .droop, .led, .insts] s (doEdge s) := by
  unfold doEdge
  try dsimp only
  repeat' first
    | with_reducible exact Frame.refl
    | with_reducible apply Frame.via (Frame.grow (State.ring_frame ..) (by decide))
    | with_reducible apply Frame.via (Frame.grow (State.raise_frame ..) (by decide))
    | with_reducible apply Frame.via (Frame.grow (State.noteSet_frame ..) (by decide))
    | split
    | ((with_reducible refine Frame.flds ?_ ?_); (case refine_1 => (intro p hp; cases p <;> first | rfl | exact absurd (by decide) hp)))

theorem State.tellMiss_frame (s : State) (lost : Bool) :
    Frame [.clk, .flt] s (State.tellMiss s lost) := by
  unfold State.tellMiss
  try dsimp only
  repeat' first
    | with_reducible exact Frame.refl
    | with_reducible apply Frame.via (Frame.grow (State.raise_frame ..) (by decide))
    | with_reducible apply Frame.via (Frame.grow (State.noteSet_frame ..) (by decide))
    | split

theorem doMiss_frame (s : State) :
    Frame [.clk, .glb, .bell, .gls, .flt, .droop, .led, .insts] s (doMiss s) := by
  unfold doMiss
  try dsimp only
  repeat' first
    | with_reducible exact Frame.refl
    | with_reducible apply Frame.via (Frame.grow (State.tellMiss_frame ..) (by decide))
    | with_reducible apply Frame.via (Frame.grow (State.ring_frame ..) (by decide))
    | split
    | ((with_reducible refine Frame.flds ?_ ?_); (case refine_1 => (intro p hp; cases p <;> first | rfl | exact absurd (by decide) hp)))

theorem doAcquire_frame (s : State) :
    Frame [.glb, .bell, .gls, .flt, .droop, .led, .insts] s (doAcquire s) := by
  unfold doAcquire
  try dsimp only
  repeat' first
    | with_reducible exact Frame.refl
    | with_reducible apply Frame.via (Frame.grow (State.ring_frame ..) (by decide))
    | split
    | ((with_reducible refine Frame.flds ?_ ?_); (case refine_1 => (intro p hp; cases p <;> first | rfl | exact absurd (by decide) hp)))

/-! ### Timer -/

theorem State.noteCounter_frame (s : State) (n : Nat) :
    Frame [.clk] s (State.noteCounter s n) := by
  unfold State.noteCounter
  try dsimp only
  repeat' first
    | with_reducible exact Frame.refl
    | split
    | ((with_reducible refine Frame.flds ?_ ?_); (case refine_1 => (intro p hp; cases p <;> first | rfl | exact absurd (by decide) hp)))

theorem State.tickCounter_frame (s : State) (n : Nat) (new : Tmr) :
    Frame [.clk, .tmr] s (State.tickCounter s n new) := by
  unfold State.tickCounter
  try dsimp only
  repeat' first
    | with_reducible exact Frame.refl
    | with_reducible apply Frame.via (Frame.grow (State.noteCounter_frame ..) (by decide))
    | with_reducible apply Frame.via (Frame.grow (State.noteSet_frame ..) (by decide))
    | with_reducible apply Frame.via (Frame.grow (State.updCounter_frame ..) (by decide))
    | split

theorem doTimer_frame (s : State) (n : Nat) :
    Frame [.clk, .tmr] s (doTimer n s) := by
  unfold doTimer
  try dsimp only
  repeat' first
    | with_reducible exact Frame.refl
    | with_reducible apply Frame.via (Frame.grow (State.tickCounter_frame ..) (by decide))
    | split

theorem State.writeCnt_frame (s : State) (n v : Nat) :
    Frame [.clk, .tmr] s (State.writeCnt s n v) := by
  unfold State.writeCnt
  try dsimp only
  repeat' first
    | with_reducible exact Frame.refl
    | with_reducible apply Frame.via (Frame.grow (State.noteCounter_frame ..) (by decide))
    | with_reducible apply Frame.via (Frame.grow (State.noteWrite_frame ..) (by decide))
    | with_reducible apply Frame.via (Frame.grow (State.updCounter_frame ..) (by decide))
    | split

theorem State.writeTmrCtl_frame (s : State) (n : Nat) (v : Word) :
    Frame [.clk, .tmr] s (State.writeTmrCtl s n v) := by
  unfold State.writeTmrCtl
  try dsimp only
  repeat' first
    | with_reducible exact Frame.refl
    | with_reducible apply Frame.via (Frame.grow (State.noteCounter_frame ..) (by decide))
    | with_reducible apply Frame.via (Frame.grow (State.noteWrite_frame ..) (by decide))
    | with_reducible apply Frame.via (Frame.grow (State.updCounter_frame ..) (by decide))
    | split

theorem State.writeCmp_frame (s : State) (n v : Nat) :
    Frame [.clk, .tmr] s (State.writeCmp s n v) := by
  unfold State.writeCmp
  try dsimp only
  repeat' first
    | with_reducible exact Frame.refl
    | with_reducible apply Frame.via (Frame.grow (State.noteCounter_frame ..) (by decide))
    | with_reducible apply Frame.via (Frame.grow (State.updCounter_frame ..) (by decide))
    | split

theorem State.clearTmr_frame (s : State) (n : Nat) (w : Word) :
    Frame [.clk, .tmr] s (State.clearTmr s n w) := by
  unfold State.clearTmr
  try dsimp only
  repeat' first
    | with_reducible exact Frame.refl
    | with_reducible apply Frame.via (Frame.grow (State.noteCounter_frame ..) (by decide))
    | with_reducible apply Frame.via (Frame.grow (State.updCounter_frame ..) (by decide))
    | split

theorem State.changeCap_frame (s : State) (i : Nat) (f : Cap → Cap) :
    Frame [.clk, .tmr] s (State.changeCap s i f) := by
  unfold State.changeCap
  try dsimp only
  repeat' first
    | with_reducible exact Frame.refl
    | with_reducible apply Frame.via (Frame.grow (State.updCapture_frame ..) (by decide))
    | split
    | ((with_reducible refine Frame.flds ?_ ?_); (case refine_1 => (intro p hp; cases p <;> first | rfl | exact absurd (by decide) hp)))

theorem State.sampleCap_frame (s : State) (i : Nat) (y : Bool) :
    Frame [.tmr] s (State.sampleCap s i y) := by
  unfold State.sampleCap
  try dsimp only
  repeat' first
    | with_reducible exact Frame.refl
    | with_reducible apply Frame.via (Frame.grow (State.updCapture_frame ..) (by decide))
    | split

theorem State.qualify_frame (s : State) (i : Nat) :
    Frame [.pending, .clk, .tmr, .flt] s (State.qualify s i) := by
  unfold State.qualify
  try dsimp only
  repeat' first
    | with_reducible exact Frame.refl
    | with_reducible apply Frame.via (Frame.grow (State.changeCap_frame ..) (by decide))
    | with_reducible apply Frame.via (Frame.grow (State.raise_frame ..) (by decide))
    | with_reducible apply Frame.via (Frame.grow (State.noteSet_frame ..) (by decide))
    | split
    | ((with_reducible refine Frame.flds ?_ ?_); (case refine_1 => (intro p hp; cases p <;> first | rfl | exact absurd (by decide) hp)))

theorem doCapture_frame (s : State) (i : Nat) (level : Bool) :
    Frame [.pending, .clk, .tmr, .flt] s (doCapture i level s) := by
  unfold doCapture
  try dsimp only
  repeat' first
    | with_reducible exact Frame.refl
    | with_reducible apply Frame.via (Frame.grow (State.qualify_frame ..) (by decide))
    | with_reducible apply Frame.via (Frame.grow (State.sampleCap_frame ..) (by decide))
    | split

theorem doFiltered_frame (s : State) (i : Nat) (level : Bool) :
    Frame [.clk, .tmr] s (doFiltered i level s) := by
  unfold doFiltered
  try dsimp only
  repeat' first
    | with_reducible exact Frame.refl
    | with_reducible apply Frame.via (Frame.grow (State.sampleCap_frame ..) (by decide))
    | with_reducible apply Frame.via (Frame.grow (State.changeCap_frame ..) (by decide))
    | split

theorem State.capRead_frame (s : State) (i : Nat) :
    Frame [.pending, .clk, .tmr, .flt] s (State.capRead s i) := by
  unfold State.capRead
  try dsimp only
  repeat' first
    | with_reducible exact Frame.refl
    | with_reducible apply Frame.via (Frame.grow (State.changeCap_frame ..) (by decide))
    | with_reducible apply Frame.via (Frame.grow (State.updCapture_frame ..) (by decide))
    | split
    | ((with_reducible refine Frame.flds ?_ ?_); (case refine_1 => (intro p hp; cases p <;> first | rfl | exact absurd (by decide) hp)))

theorem State.writeCapCtl_frame (s : State) (i : Nat) (v : Word) :
    Frame [.pending, .clk, .tmr] s (State.writeCapCtl s i v) := by
  unfold State.writeCapCtl
  try dsimp only
  repeat' first
    | with_reducible exact Frame.refl
    | with_reducible apply Frame.via (Frame.grow (State.changeCap_frame ..) (by decide))
    | split

theorem State.clearCap_frame (s : State) (i : Nat) (w : Word) :
    Frame [.clk, .tmr] s (State.clearCap s i w) := by
  unfold State.clearCap
  try dsimp only
  repeat' first
    | with_reducible exact Frame.refl
    | with_reducible apply Frame.via (Frame.grow (State.changeCap_frame ..) (by decide))
    | split

theorem State.setHalt_frame (s : State) (v : Bool) :
    Frame [.clk, .glb, .bell] s (State.setHalt s v) := by
  unfold State.setHalt
  split
  case isFalse => exact Frame.refl
  refine State.thawed_frame _ _ ?_ (by decide)
  intro p hp
  cases p <;> first | rfl | exact absurd (by decide) hp

theorem State.setFreeze_frame (s : State) (v : Bool) :
    Frame [.clk, .glb, .bell] s (State.setFreeze s v) := by
  unfold State.setFreeze
  refine State.thawed_frame _ _ ?_ (by decide)
  intro p hp
  cases p <;> first | rfl | exact absurd (by decide) hp

theorem State.makeUpTimers_frame (s : State) (e : Nat) :
    Frame [.clk, .tmr] s (State.makeUpTimers s e) := by
  unfold State.makeUpTimers
  try dsimp only
  repeat' first
    | with_reducible exact Frame.refl
    | with_reducible refine Frame.foldl (fun _ _ => ?_) ?_
    | with_reducible apply Frame.via (Frame.grow (State.tickCounter_frame ..) (by decide))
    | split

theorem State.restartCaps_frame (s : State) (levels : BitVec 8) :
    Frame [.clk, .tmr] s (State.restartCaps s levels) := by
  unfold State.restartCaps
  try dsimp only
  repeat' first
    | with_reducible exact Frame.refl
    | with_reducible refine Frame.foldl (fun _ _ => ?_) ?_
    | with_reducible apply Frame.via (Frame.grow (State.sampleCap_frame ..) (by decide))
    | with_reducible apply Frame.via (Frame.grow (State.changeCap_frame ..) (by decide))
    | split

theorem State.caughtUp_frame (s : State) (e : Nat) (caps : BitVec 8) :
    Frame [.clk, .tmr] s (State.caughtUp s e caps) := by
  unfold State.caughtUp
  repeat' first
    | with_reducible exact Frame.refl
    | with_reducible apply Frame.via (Frame.grow (State.restartCaps_frame ..) (by decide))
    | with_reducible apply Frame.via (Frame.grow (State.makeUpTimers_frame ..) (by decide))
    | split

theorem State.makeUpBell_frame (s : State) (e : Nat) :
    Frame [.bell, .gls] s (State.makeUpBell s e) := by
  unfold State.makeUpBell
  try dsimp only
  repeat' first
    | with_reducible exact Frame.refl
    | with_reducible apply Frame.via (Frame.grow (State.newGlass_frame ..) (by decide))
    | split
    | ((with_reducible refine Frame.flds ?_ ?_); (case refine_1 => (intro p hp; cases p <;> first | rfl | exact absurd (by decide) hp)))

theorem State.atExit_frame (s : State) (slow x : Nat) (edge : Bool) :
    Frame [.clk, .pwr, .bell, .gls, .tmr, .queues] s (State.atExit s slow x edge) := by
  unfold State.atExit
  try dsimp only
  repeat' first
    | with_reducible exact Frame.refl
    | with_reducible apply Frame.via (Frame.grow (State.makeUpBell_frame ..) (by decide))
    | split
    | ((with_reducible refine Frame.flds ?_ ?_); (case refine_1 => (intro p hp; cases p <;> first | rfl | exact absurd (by decide) hp)))

theorem doReckoning_frame (s : State) (edges : Nat) (edge : Bool) (caps : BitVec 8) :
    Frame [.clk, .pwr, .bell, .gls, .tmr, .flt, .queues] s (doReckoning edges edge caps s) := by
  unfold doReckoning
  try dsimp only
  repeat' first
    | with_reducible exact Frame.refl
    | with_reducible apply Frame.via (Frame.grow (State.atExit_frame ..) (by decide))
    | with_reducible apply Frame.via (Frame.grow (State.caughtUp_frame ..) (by decide))
    | with_reducible apply Frame.via (Frame.grow (State.raise_frame ..) (by decide))
    | split

/-! ### Power -/

theorem State.targetLow_frame (s : State) (t : Nat) :
    Frame [.pwr, .queues, .logc] s (State.targetLow s t) := by
  unfold State.targetLow
  try dsimp only
  repeat' first
    | with_reducible exact Frame.refl
    | with_reducible apply Frame.via (Frame.grow (State.queueLines_frame ..) (by decide))
    | split
    | ((with_reducible refine Frame.flds ?_ ?_); (case refine_1 => (intro p hp; cases p <;> first | rfl | exact absurd (by decide) hp)))

theorem State.targetRun_frame (s : State) :
    Frame [.pwr] s (State.targetRun s) := by
  unfold State.targetRun
  try dsimp only
  repeat' first
    | with_reducible exact Frame.refl
    | split
    | ((with_reducible refine Frame.flds ?_ ?_); (case refine_1 => (intro p hp; cases p <;> first | rfl | exact absurd (by decide) hp)))

theorem State.writeTarget_frame (s : State) (t : Nat) :
    Frame [.pwr, .queues, .logc] s (State.writeTarget s t) := by
  unfold State.writeTarget
  repeat' first
    | with_reducible exact Frame.refl
    | with_reducible apply Frame.via (Frame.grow (State.targetRun_frame ..) (by decide))
    | with_reducible apply Frame.via (Frame.grow (State.targetLow_frame ..) (by decide))
    | split

theorem doQuiesce_frame (s : State) :
    Frame [.pwr] s (doQuiesce s) := by
  unfold doQuiesce
  try dsimp only
  repeat' first
    | with_reducible exact Frame.refl
    | split
    | ((with_reducible refine Frame.flds ?_ ?_); (case refine_1 => (intro p hp; cases p <;> first | rfl | exact absurd (by decide) hp)))

theorem doEntryEdge_frame (s : State) (edge : Bool) :
    Frame [.pwr] s (doEntryEdge edge s) := by
  unfold doEntryEdge
  try dsimp only
  repeat' first
    | with_reducible exact Frame.refl
    | split
    | ((with_reducible refine Frame.flds ?_ ?_); (case refine_1 => (intro p hp; cases p <;> first | rfl | exact absurd (by decide) hp)))

theorem doWake_frame (s : State) (c : WakeCause) (port : Nat) :
    Frame [.pwr] s (doWake c port s) := by
  unfold doWake
  repeat' first
    | with_reducible exact Frame.refl
    | with_reducible apply Frame.via (Frame.grow (State.wakeBy_frame ..) (by decide))
    | split

theorem State.clearHolds_frame (s : State) :
    Frame [.engs, .hold] s (State.clearHolds s) := by
  unfold State.clearHolds
  try dsimp only
  repeat' first
    | with_reducible exact Frame.refl
    | split
    | ((with_reducible refine Frame.flds ?_ ?_); (case refine_1 => (intro p hp; cases p <;> first | rfl | exact absurd (by decide) hp)))

theorem State.clearsGoOn_frame (s : State) :
    Frame [.engs] s (State.clearsGoOn s) := by
  unfold State.clearsGoOn
  try dsimp only
  repeat' first
    | with_reducible exact Frame.refl
    | split
    | ((with_reducible refine Frame.flds ?_ ?_); (case refine_1 => (intro p hp; cases p <;> first | rfl | exact absurd (by decide) hp)))

theorem State.toStep_frame (s : State) (n : Nat) :
    Frame [.pwr] s (State.toStep s n) := by
  unfold State.toStep
  try dsimp only
  repeat' first
    | with_reducible exact Frame.refl
    | split
    | ((with_reducible refine Frame.flds ?_ ?_); (case refine_1 => (intro p hp; cases p <;> first | rfl | exact absurd (by decide) hp)))

theorem State.purState_frame (s : State) (n : Nat) :
    Frame [.pur] s (State.purState s n) := by
  unfold State.purState
  try dsimp only
  repeat' first
    | with_reducible exact Frame.refl
    | split
    | ((with_reducible refine Frame.flds ?_ ?_); (case refine_1 => (intro p hp; cases p <;> first | rfl | exact absurd (by decide) hp)))

theorem State.startLoad_frame (s : State) :
    Frame [.pwr, .pur, .ports, .cc, .walked] s (State.startLoad s) := by
  unfold State.startLoad
  try dsimp only
  repeat' first
    | with_reducible exact Frame.refl
    | with_reducible apply Frame.via (Frame.grow (State.purState_frame ..) (by decide))
    | with_reducible apply Frame.via (Frame.grow (State.toStep_frame ..) (by decide))
    | with_reducible apply Frame.via (Frame.grow (State.purGo_frame ..) (by decide))
    | split
    | ((with_reducible refine Frame.flds ?_ ?_); (case refine_1 => (intro p hp; cases p <;> first | rfl | exact absurd (by decide) hp)))

theorem State.runLater_frame (s : State) (l : Later) :
    Frame [.pwr, .glb, .flt, .pur, .insts, .queues, .chans, .frags, .ports, .fabs, .cc, .walks, .walked] s (s.runLater l) := by
  cases l with
  | pause n => exact Frame.grow (State.pauseActs_frame _ _) (by decide)
  | chCmd n a v => exact Frame.grow (State.chCmd_frame _ _ _ _) (by decide)
  | enable i q on => exact Frame.grow (doEnable_frame _ _ _ _) (by decide)
  | load => exact Frame.grow (State.startLoad_frame _) (by decide)
  | release i q k => cases k
                     · exact Frame.grow (doRetry_frame _ _ _) (by decide)
                     · exact Frame.grow (doSkip_frame _ _ _) (by decide)
  | invalidate =>
    show Frame _ s (if s.glb.ccGo then s.ccStart else s)
    split
    · exact Frame.grow (State.ccStart_frame _) (by decide)
    · exact Frame.refl

theorem State.reachRun_frame (s : State) :
    Frame [.pwr, .bell] s (State.reachRun s) := by
  unfold State.reachRun
  try dsimp only
  repeat' first
    | with_reducible exact Frame.refl
    | split
    | ((with_reducible refine Frame.flds ?_ ?_); (case refine_1 => (intro p hp; cases p <;> first | rfl | exact absurd (by decide) hp)))

theorem doWakeComplete_frame (s : State) (levels : List (Fin 512 × BitVec 12)) :
    Frame [.pwr, .glb, .bell, .flt, .pur, .insts, .queues, .chans, .engs, .frags, .hold, .ports, .fabs, .cc, .walks, .walked] s (doWakeComplete levels s) := by
  unfold doWakeComplete
  try dsimp only
  repeat' first
    | with_reducible exact Frame.refl
    | with_reducible refine Frame.foldl (fun _ _ => ?_) ?_
    | with_reducible apply Frame.via (Frame.grow (State.reachRun_frame ..) (by decide))
    | with_reducible apply Frame.via (Frame.grow (State.runLater_frame ..) (by decide))
    | with_reducible apply Frame.via (Frame.grow (State.clearsGoOn_frame ..) (by decide))
    | with_reducible apply Frame.via (Frame.grow (State.clearHolds_frame ..) (by decide))
    | with_reducible apply Frame.via (Frame.grow (State.chLevel_frame ..) (by decide))
    | split

theorem doLevel_frame (s : State) (n level : Nat) :
    Frame [.chans] s (doLevel n level s) := by
  unfold doLevel
  repeat' first
    | with_reducible exact Frame.refl
    | with_reducible apply Frame.via (Frame.grow (State.chLevel_frame ..) (by decide))
    | split

theorem State.writeOfs_frame (s : State) (k : Nat) (v : Word) :
    Frame [.flt, .droop] s (State.writeOfs s k v) := by
  unfold State.writeOfs
  try dsimp only
  repeat' first
    | with_reducible exact Frame.refl
    | with_reducible apply Frame.via (Frame.grow (State.raise_frame ..) (by decide))
    | split
    | ((with_reducible refine Frame.flds ?_ ?_); (case refine_1 => (intro p hp; cases p <;> first | rfl | exact absurd (by decide) hp)))

theorem State.stepLevels_frame (s : State) (before after : Nat) :
    Frame [.flt] s (State.stepLevels s before after) := by
  unfold State.stepLevels
  repeat' first
    | with_reducible exact Frame.refl
    | with_reducible refine Frame.foldl (fun _ _ => ?_) ?_
    | with_reducible apply Frame.via (Frame.grow (State.level_frame ..) (by decide))
    | split

theorem State.setStep_frame (s : State) (n : Nat) :
    Frame [.gls, .flt, .droop] s (State.setStep s n) := by
  unfold State.setStep
  try dsimp only
  repeat' first
    | with_reducible exact Frame.refl
    | with_reducible apply Frame.via (Frame.grow (State.stepLevels_frame ..) (by decide))
    | split
    | ((with_reducible refine Frame.flds ?_ ?_); (case refine_1 => (intro p hp; cases p <;> first | rfl | exact absurd (by decide) hp)))

theorem doDroop_frame (s : State) (rail vref : Nat) :
    Frame [.gls, .flt, .droop] s (doDroop rail vref s) := by
  unfold doDroop
  try dsimp only
  repeat' first
    | with_reducible exact Frame.refl
    | with_reducible apply Frame.via (Frame.grow (State.setStep_frame ..) (by decide))
    | with_reducible apply Frame.via (Frame.grow (State.level_frame ..) (by decide))
    | split
    | with_reducible refine State.unlessWritten_frame ?_ ?_
    | ((with_reducible refine Frame.flds ?_ ?_); (case refine_1 => (intro p hp; cases p <;> first | rfl | exact absurd (by decide) hp)))

theorem doStepRise_frame (s : State) :
    Frame [.gls, .flt, .droop] s (doStepRise s) := by
  unfold doStepRise
  repeat' first
    | with_reducible exact Frame.refl
    | with_reducible apply Frame.via (Frame.grow (State.setStep_frame ..) (by decide))
    | split

theorem doSelfTrim_frame (s : State) (c : Int) :
    Frame [.flt, .droop] s (doSelfTrim c s) := by
  unfold doSelfTrim
  try dsimp only
  repeat' first
    | with_reducible exact Frame.refl
    | with_reducible apply Frame.via (Frame.grow (State.raise_frame ..) (by decide))
    | split
    | ((with_reducible refine Frame.flds ?_ ?_); (case refine_1 => (intro p hp; cases p <;> first | rfl | exact absurd (by decide) hp)))

theorem doTemp_frame (s : State) (t : BitVec 8) :
    Frame [.pwr, .flt] s (doTemp t s) := by
  unfold doTemp
  try dsimp only
  repeat' first
    | with_reducible exact Frame.refl
    | with_reducible apply Frame.via (Frame.grow (State.level_frame ..) (by decide))
    | with_reducible apply Frame.via (Frame.grow (State.raise_frame ..) (by decide))
    | split
    | ((with_reducible refine Frame.flds ?_ ?_); (case refine_1 => (intro p hp; cases p <;> first | rfl | exact absurd (by decide) hp)))

theorem doRecheck_frame (s : State) (same : Bool) :
    Frame [.flt, .droop] s (doRecheck same s) := by
  unfold doRecheck
  try dsimp only
  repeat' first
    | with_reducible exact Frame.refl
    | with_reducible apply Frame.via (Frame.grow (State.raise_frame ..) (by decide))
    | split
    | ((with_reducible refine Frame.flds ?_ ?_); (case refine_1 => (intro p hp; cases p <;> first | rfl | exact absurd (by decide) hp)))

/-! ### Startup -/

theorem doPgoodRise_frame (s : State) :
    Frame [.pwr] s (doPgoodRise s) := by
  unfold doPgoodRise
  try dsimp only
  repeat' first
    | with_reducible exact Frame.refl
    | split
    | ((with_reducible refine Frame.flds ?_ ?_); (case refine_1 => (intro p hp; cases p <;> first | rfl | exact absurd (by decide) hp)))

theorem doRelease__frame (s : State) (absent : Bool) :
    Frame [.pwr] s (doRelease_ absent s) := by
  unfold doRelease_
  try dsimp only
  repeat' first
    | with_reducible exact Frame.refl
    | split
    | ((with_reducible refine Frame.flds ?_ ?_); (case refine_1 => (intro p hp; cases p <;> first | rfl | exact absurd (by decide) hp)))

theorem State.startFails_frame (s : State) (code : Nat) :
    Frame [.pwr, .pur] s (State.startFails s code) := by
  unfold State.startFails
  try dsimp only
  repeat' first
    | with_reducible exact Frame.refl
    | with_reducible apply Frame.via (Frame.grow (State.purState_frame ..) (by decide))
    | with_reducible apply Frame.via (Frame.grow (State.toStep_frame ..) (by decide))
    | split
    | ((with_reducible refine Frame.flds ?_ ?_); (case refine_1 => (intro p hp; cases p <;> first | rfl | exact absurd (by decide) hp)))

theorem doFuse_frame (s : State) (primary copy : Fuses) (checkOk : Bool) :
    Frame [.clk, .pwr, .glb, .flt, .droop, .pur, .insts, .queues, .chans, .engs, .frags, .ports, .fabs, .cc, .walks, .walked] s (doFuse primary copy checkOk s) := by
  unfold doFuse
  try dsimp only
  repeat' first
    | with_reducible exact Frame.refl
    | with_reducible apply Frame.via (Frame.grow (State.stepLevels_frame ..) (by decide))
    | with_reducible apply Frame.via (Frame.grow (State.toStep_frame ..) (by decide))
    | with_reducible apply Frame.via (Frame.grow (State.detect_frame ..) (by decide))
    | with_reducible apply Frame.via (Frame.grow (State.raise_frame ..) (by decide))
    | split
    | ((with_reducible refine Frame.flds ?_ ?_); (case refine_1 => (intro p hp; cases p <;> first | rfl | exact absurd (by decide) hp)))

theorem doMeminit_frame (s : State) (failed : Fin 8) :
    Frame [.pwr, .bell, .gls, .pur] s (doMeminit failed s) := by
  unfold doMeminit
  try dsimp only
  repeat' first
    | with_reducible exact Frame.refl
    | with_reducible apply Frame.via (Frame.grow (State.startFails_frame ..) (by decide))
    | with_reducible apply Frame.via (Frame.grow (State.toStep_frame ..) (by decide))
    | with_reducible apply Frame.via (Frame.grow (State.newGlass_frame ..) (by decide))
    | split
    | ((with_reducible refine Frame.flds ?_ ?_); (case refine_1 => (intro p hp; cases p <;> first | rfl | exact absurd (by decide) hp)))

theorem State.loadEnds_frame (s : State) :
    Frame [.pur, .ports, .fabs, .walks, .walked] s (State.loadEnds s) := by
  unfold State.loadEnds
  repeat' first
    | with_reducible exact Frame.refl
    | with_reducible apply Frame.via (Frame.grow (State.accEnds_frame ..) (by decide))
    | with_reducible apply Frame.via (Frame.grow (State.disown_frame ..) (by decide))
    | split

theorem doLoad_frame (s : State) :
    Frame [.pwr, .pur, .ports, .fabs, .walks, .walked] s (doLoad s) := by
  unfold doLoad
  try dsimp only
  repeat' first
    | with_reducible exact Frame.refl
    | with_reducible apply Frame.via (Frame.grow (State.loadEnds_frame ..) (by decide))
    | with_reducible apply Frame.via (Frame.grow (State.startFails_frame ..) (by decide))
    | with_reducible apply Frame.via (Frame.grow (State.purState_frame ..) (by decide))
    | with_reducible apply Frame.via (Frame.grow (State.toStep_frame ..) (by decide))
    | split
    | ((with_reducible refine Frame.flds ?_ ?_); (case refine_1 => (intro p hp; cases p <;> first | rfl | exact absurd (by decide) hp)))

theorem doVerify_frame (s : State) :
    Frame [.pwr, .pur] s (doVerify s) := by
  unfold doVerify
  repeat' first
    | with_reducible exact Frame.refl
    | with_reducible apply Frame.via (Frame.grow (State.startFails_frame ..) (by decide))
    | with_reducible apply Frame.via (Frame.grow (State.toStep_frame ..) (by decide))
    | split

theorem State.ready_frame (s : State) :
    Frame [.pwr, .droop, .pur, .led, .insts] s (State.ready s) := by
  unfold State.ready
  try dsimp only
  repeat' first
    | with_reducible exact Frame.refl
    | with_reducible apply Frame.via (Frame.grow (State.purState_frame ..) (by decide))
    | with_reducible apply Frame.via (Frame.grow (State.toStep_frame ..) (by decide))
    | split
    | ((with_reducible refine Frame.flds ?_ ?_); (case refine_1 => (intro p hp; cases p <;> first | rfl | exact absurd (by decide) hp)))

theorem doFwinit_frame (s : State) (done : Bool) :
    Frame [.pwr, .droop, .pur, .led, .insts] s (doFwinit done s) := by
  unfold doFwinit
  repeat' first
    | with_reducible exact Frame.refl
    | with_reducible apply Frame.via (Frame.grow (State.ready_frame ..) (by decide))
    | with_reducible apply Frame.via (Frame.grow (State.startFails_frame ..) (by decide))
    | split

theorem State.portDone_frame (s : State) (data : Word) :
    Frame [.glb] s (State.portDone s data) := by
  unfold State.portDone
  try dsimp only
  repeat' first
    | with_reducible exact Frame.refl
    | split
    | ((with_reducible refine Frame.flds ?_ ?_); (case refine_1 => (intro p hp; cases p <;> first | rfl | exact absurd (by decide) hp)))

/-! ### RegWrite -/

theorem State.setGlob_frame (s : State) (f : Glob → Glob) :
    Frame [.glb] s (State.setGlob s f) := by
  unfold State.setGlob
  try dsimp only
  repeat' first
    | with_reducible exact Frame.refl
    | split
    | ((with_reducible refine Frame.flds ?_ ?_); (case refine_1 => (intro p hp; cases p <;> first | rfl | exact absurd (by decide) hp)))

theorem State.writeChCtl_frame (s : State) (n : Nat) (v : Word) :
    Frame [.pwr, .flt, .insts, .chans] s (State.writeChCtl s n v) := by
  unfold State.writeChCtl
  try dsimp only
  repeat' first
    | with_reducible exact Frame.refl
    | with_reducible apply Frame.via (Frame.grow (State.pauseActs_frame ..) (by decide))
    | with_reducible apply Frame.via (Frame.grow (State.updChan_frame ..) (by decide))
    | split
    | with_reducible refine State.steer_frame ?_ ?_ (by decide)

theorem State.writePause_frame (s : State) (n : Nat) (v : Bool) :
    Frame [.pwr, .flt, .insts, .chans] s (State.writePause s n v) := by
  unfold State.writePause
  repeat' first
    | with_reducible exact Frame.refl
    | with_reducible apply Frame.via (Frame.grow (State.writeChCtl_frame ..) (by decide))
    | split

theorem State.writeChCmd_frame (s : State) (n : Nat) (all : Bool) (v : Word) :
    Frame [.pwr, .flt, .insts, .chans, .frags, .ports, .fabs, .walks, .walked] s (State.writeChCmd s n all v) := by
  unfold State.writeChCmd
  repeat' first
    | with_reducible exact Frame.refl
    | with_reducible apply Frame.via (Frame.grow (State.chCmd_frame ..) (by decide))
    | split
    | with_reducible refine State.steer_frame ?_ ?_ (by decide)

theorem State.writeCh_frame (s : State) (n : Nat) (r : ChReg) (v : Word) :
    Frame [.clk, .pwr, .flt, .pur, .insts, .queues, .chans, .engs, .frags, .ports, .fabs, .walks, .walked] s (State.writeCh s n r v) := by
  unfold State.writeCh
  try dsimp only
  repeat' first
    | with_reducible exact Frame.refl
    | with_reducible apply Frame.via (Frame.grow (State.writeChCmd_frame ..) (by decide))
    | with_reducible apply Frame.via (Frame.grow (State.writeChCtl_frame ..) (by decide))
    | with_reducible apply Frame.via (Frame.grow (State.act_frame ..) (by decide))
    | with_reducible apply Frame.via (Frame.grow (State.chLevel_frame ..) (by decide))
    | with_reducible apply Frame.via (Frame.grow (State.level_frame ..) (by decide))
    | with_reducible apply Frame.via (Frame.grow (State.noteWrite_frame ..) (by decide))
    | with_reducible apply Frame.via (Frame.grow (State.updChan_frame ..) (by decide))
    | split

theorem State.writeChManager_frame (s : State) (n : Nat) (r : ChReg) (v : Word) :
    Frame [.clk, .pwr, .flt, .pur, .insts, .queues, .chans, .engs, .frags, .ports, .fabs, .walks, .walked] s (State.writeChManager s n r v) := by
  unfold State.writeChManager
  repeat' first
    | with_reducible exact Frame.refl
    | with_reducible apply Frame.via (Frame.grow (State.writeCh_frame ..) (by decide))
    | with_reducible apply Frame.via (Frame.grow (State.writeChCmd_frame ..) (by decide))
    | split

theorem State.writeQctl_frame (s : State) (i q : Nat) (v : Word) :
    Frame [.pwr, .flt, .insts, .queues] s (State.writeQctl s i q v) := by
  unfold State.writeQctl
  try dsimp only
  repeat' first
    | with_reducible exact Frame.refl
    | with_reducible apply Frame.via (Frame.grow (State.setRelease_frame ..) (by decide))
    | with_reducible apply Frame.via (Frame.grow (State.setEnable_frame ..) (by decide))
    | split

theorem State.writeIntCtl_frame (s : State) (i : Nat) (v : Word) :
    Frame [.insts] s (State.writeIntCtl s i v) := by
  unfold State.writeIntCtl
  try dsimp only
  repeat' first
    | with_reducible exact Frame.refl
    | with_reducible apply Frame.via (Frame.grow (State.withIrq_frame ..) (by decide))
    | split

theorem State.writePage_frame (s : State) (i : Nat) (r : PageReg) (v : Word) :
    Frame [.clk, .pwr, .flt, .insts, .queues] s (State.writePage s i r v) := by
  unfold State.writePage
  try dsimp only
  repeat' first
    | with_reducible exact Frame.refl
    | with_reducible apply Frame.via (Frame.grow (State.writeIntCtl_frame ..) (by decide))
    | with_reducible apply Frame.via (Frame.grow (State.writeQctl_frame ..) (by decide))
    | with_reducible apply Frame.via (Frame.grow (State.writeEvtCtl_frame ..) (by decide))
    | with_reducible apply Frame.via (Frame.grow (State.writeHead_frame ..) (by decide))
    | with_reducible apply Frame.via (Frame.grow (State.noteWrite_frame ..) (by decide))
    | with_reducible apply Frame.via (Frame.grow (State.updInst_frame ..) (by decide))
    | split

theorem State.writeSrc_frame (s : State) (k : Nat) (v : Word) :
    Frame [.flt] s (State.writeSrc s k v) := by
  unfold State.writeSrc
  try dsimp only
  repeat' first
    | with_reducible exact Frame.refl
    | with_reducible apply Frame.via (Frame.grow (State.updSrc_frame ..) (by decide))
    | split

theorem State.writeFrecCtl_frame (s : State) (v : Word) :
    Frame [.flt] s (State.writeFrecCtl s v) := by
  unfold State.writeFrecCtl
  try dsimp only
  repeat' first
    | with_reducible exact Frame.refl
    | with_reducible apply Frame.via (Frame.grow (State.closeRecord_frame ..) (by decide))
    | split
    | ((with_reducible refine Frame.flds ?_ ?_); (case refine_1 => (intro p hp; cases p <;> first | rfl | exact absurd (by decide) hp)))

theorem State.writeInj_frame (s : State) (v : Word) :
    Frame [.clk, .glb] s (State.writeInj s v) := by
  unfold State.writeInj
  try dsimp only
  repeat' first
    | with_reducible exact Frame.refl
    | with_reducible apply Frame.via (Frame.grow (State.setGlob_frame ..) (by decide))
    | with_reducible apply Frame.via (Frame.grow (State.noteWrite_frame ..) (by decide))
    | split

theorem State.writeGlob_frame (s : State) (r : Reg) (v : Word) :
    Frame [.clk, .pwr, .glb, .bell, .flt, .ports, .fabs, .cc, .walks, .walked] s (State.writeGlob s r v) := by
  unfold State.writeGlob
  try dsimp only
  repeat' first
    | with_reducible exact Frame.refl
    | with_reducible apply Frame.via (Frame.grow (State.writeInj_frame ..) (by decide))
    | with_reducible apply Frame.via (Frame.grow (State.setGlob_frame ..) (by decide))
    | with_reducible apply Frame.via (Frame.grow (State.setFreeze_frame ..) (by decide))
    | with_reducible apply Frame.via (Frame.grow (State.ccInvalidate_frame ..) (by decide))
    | with_reducible apply Frame.via (Frame.grow (doLogSwap_frame ..) (by decide))
    | with_reducible apply Frame.via (Frame.grow (State.logWaits_frame ..) (by decide))
    | with_reducible apply Frame.via (Frame.grow (State.noteWrite_frame ..) (by decide))
    | with_reducible apply Frame.via (Frame.grow (State.updFab_frame ..) (by decide))
    | split

theorem State.writeTime_frame (s : State) (r : Reg) (v : Word) :
    Frame [.pending, .clk, .bell, .gls, .tmr, .flt] s (State.writeTime s r v) := by
  unfold State.writeTime
  try dsimp only
  repeat' first
    | with_reducible exact Frame.refl
    | with_reducible apply Frame.via (Frame.grow (State.writeFrecCtl_frame ..) (by decide))
    | with_reducible apply Frame.via (Frame.grow (State.writeSrc_frame ..) (by decide))
    | with_reducible apply Frame.via (Frame.grow (State.clearCap_frame ..) (by decide))
    | with_reducible apply Frame.via (Frame.grow (State.writeCapCtl_frame ..) (by decide))
    | with_reducible apply Frame.via (Frame.grow (State.clearTmr_frame ..) (by decide))
    | with_reducible apply Frame.via (Frame.grow (State.writeCmp_frame ..) (by decide))
    | with_reducible apply Frame.via (Frame.grow (State.writeTmrCtl_frame ..) (by decide))
    | with_reducible apply Frame.via (Frame.grow (State.writeCnt_frame ..) (by decide))
    | with_reducible apply Frame.via (Frame.grow (State.noteWrite_frame ..) (by decide))
    | split
    | ((with_reducible refine Frame.flds ?_ ?_); (case refine_1 => (intro p hp; cases p <;> first | rfl | exact absurd (by decide) hp)))

theorem State.writePower_frame (s : State) (r : Reg) (v : Word) :
    Frame [.clk, .pwr, .flt, .droop, .mbs, .pur, .queues, .engs, .ports, .cc, .walked, .logc] s (State.writePower s r v) := by
  unfold State.writePower
  try dsimp only
  repeat' first
    | with_reducible exact Frame.refl
    | with_reducible apply Frame.via (Frame.grow (State.writeOfs_frame ..) (by decide))
    | with_reducible apply Frame.via (Frame.grow (State.startLoad_frame ..) (by decide))
    | with_reducible apply Frame.via (Frame.grow (State.writeTarget_frame ..) (by decide))
    | with_reducible apply Frame.via (Frame.grow (State.mbCtl_frame ..) (by decide))
    | with_reducible apply Frame.via (Frame.grow (State.done_frame ..) (by decide))
    | with_reducible apply Frame.via (Frame.grow (doRelease_frame ..) (by decide))
    | with_reducible apply Frame.via (Frame.grow (State.noteWrite_frame ..) (by decide))
    | with_reducible apply Frame.via (Frame.grow (State.updMb_frame ..) (by decide))
    | with_reducible apply Frame.via (Frame.grow (State.updPort_frame ..) (by decide))
    | split
    | with_reducible refine State.steer_frame ?_ ?_ (by decide)
    | ((with_reducible refine Frame.flds ?_ ?_); (case refine_1 => (intro p hp; cases p <;> first | rfl | exact absurd (by decide) hp)))

theorem State.writeReg_frame (s : State) (r : Reg) (v : Word) :
    Frame [.pending, .clk, .pwr, .glb, .bell, .gls, .tmr, .flt, .droop, .mbs, .pur, .insts, .queues, .chans, .engs, .frags, .ports, .fabs, .cc, .walks, .walked, .logc] s (State.writeReg s r v) := by
  unfold State.writeReg
  repeat' first
    | with_reducible exact Frame.refl
    | with_reducible apply Frame.via (Frame.grow (State.writePower_frame ..) (by decide))
    | with_reducible apply Frame.via (Frame.grow (State.writeTime_frame ..) (by decide))
    | with_reducible apply Frame.via (Frame.grow (State.writeGlob_frame ..) (by decide))
    | with_reducible apply Frame.via (Frame.grow (State.writePage_frame ..) (by decide))
    | with_reducible apply Frame.via (Frame.grow (State.writeChManager_frame ..) (by decide))
    | with_reducible apply Frame.via (Frame.grow (State.writeCh_frame ..) (by decide))
    | split

theorem State.portRead_frame (s : State) (off : Nat) :
    Frame [.pending, .clk, .glb, .tmr, .flt] s (State.portRead s off) := by
  unfold State.portRead
  try dsimp only
  repeat' first
    | with_reducible exact Frame.refl
    | with_reducible apply Frame.via (Frame.grow (State.portDone_frame ..) (by decide))
    | with_reducible apply Frame.via (Frame.grow (State.capRead_frame ..) (by decide))
    | split

theorem doCapRead_frame (s : State) (i : Nat) :
    Frame [.pending, .clk, .glb, .tmr, .flt] s (doCapRead i s) := by
  unfold doCapRead
  repeat' first
    | with_reducible exact Frame.refl
    | with_reducible apply Frame.via (Frame.grow (State.portRead_frame ..) (by decide))
    | split

theorem doRpTmo_frame (s : State) (write : Bool) (off : Nat) :
    Frame [.pwr, .glb, .flt] s (doRpTmo write off s) := by
  unfold doRpTmo
  try dsimp only
  repeat' first
    | with_reducible exact Frame.refl
    | with_reducible apply Frame.via (Frame.grow (State.portDone_frame ..) (by decide))
    | with_reducible apply Frame.via (Frame.grow (State.wakeBy_frame ..) (by decide))
    | with_reducible apply Frame.via (Frame.grow (State.raise_frame ..) (by decide))
    | split

theorem State.enableCap_frame (s : State) (i : Nat) (y : Bool) :
    Frame [.pending, .clk, .tmr] s (State.enableCap s i y) := by
  unfold State.enableCap
  try dsimp only
  repeat' first
    | with_reducible exact Frame.refl
    | with_reducible apply Frame.via (Frame.grow (State.writeCapCtl_frame ..) (by decide))
    | with_reducible apply Frame.via (Frame.grow (State.sampleCap_frame ..) (by decide))
    | split

/-! ### Tick -/

theorem State.clocks_frame (s : State) :
    Frame [.now, .age, .clk, .glb] s (State.clocks s) := by
  unfold State.clocks
  try dsimp only
  repeat' first
    | with_reducible exact Frame.refl
    | split
    | ((with_reducible refine Frame.flds ?_ ?_); (case refine_1 => (intro p hp; cases p <;> first | rfl | exact absurd (by decide) hp)))

theorem State.pulsesEnd_frame (s : State) :
    Frame [.bell, .flt] s (State.pulsesEnd s) := by
  unfold State.pulsesEnd
  try dsimp only
  repeat' first
    | with_reducible exact Frame.refl
    | split
    | ((with_reducible refine Frame.flds ?_ ?_); (case refine_1 => (intro p hp; cases p <;> first | rfl | exact absurd (by decide) hp)))

theorem State.bellClock_frame (s : State) :
    Frame [.bell, .gls] s (State.bellClock s) := by
  unfold State.bellClock
  try dsimp only
  repeat' first
    | with_reducible exact Frame.refl
    | with_reducible apply Frame.via (Frame.grow (State.cutClock_frame ..) (by decide))
    | split
    | ((with_reducible refine Frame.flds ?_ ?_); (case refine_1 => (intro p hp; cases p <;> first | rfl | exact absurd (by decide) hp)))

theorem State.wakeClock_frame (s : State) :
    Frame [.pwr] s (State.wakeClock s) := by
  unfold State.wakeClock
  try dsimp only
  repeat' first
    | with_reducible exact Frame.refl
    | split
    | ((with_reducible refine Frame.flds ?_ ?_); (case refine_1 => (intro p hp; cases p <;> first | rfl | exact absurd (by decide) hp)))

theorem State.workClock_frame (s : State) :
    Frame [.insts, .chans, .logc] s (State.workClock s) := by
  unfold State.workClock
  try dsimp only
  repeat' first
    | with_reducible exact Frame.refl
    | with_reducible refine Frame.foldl (fun _ _ => ?_) ?_
    | with_reducible apply Frame.via (Frame.grow (State.suspended_frame ..) (by decide))
    | with_reducible apply Frame.via (Frame.grow (State.queueLines_frame ..) (by decide))
    | with_reducible apply Frame.via (Frame.grow (State.chLevel_frame ..) (by decide))
    | split

theorem State.alarmClock_frame (s : State) :
    Frame [.flt] s (State.alarmClock s) := by
  unfold State.alarmClock
  try dsimp only
  repeat' first
    | with_reducible exact Frame.refl
    | split
    | ((with_reducible refine Frame.flds ?_ ?_); (case refine_1 => (intro p hp; cases p <;> first | rfl | exact absurd (by decide) hp)))

theorem State.droopClock_frame (s : State) :
    Frame [.droop] s (State.droopClock s) := by
  unfold State.droopClock
  try dsimp only
  repeat' first
    | with_reducible exact Frame.refl
    | split
    | ((with_reducible refine Frame.flds ?_ ?_); (case refine_1 => (intro p hp; cases p <;> first | rfl | exact absurd (by decide) hp)))

end Sys2Proof.Machine
end

