-- ==== Sys2Proof/Laws/Keep.lean ====
section
/-! SUPPORT. What every change of the block but a reset keeps: the form of the stores, and the flags that only a reset
clears. One lemma per operation says it once. -/

namespace Sys2Proof.Machine

open Sys2Proof

/-- The stores keep their form, LOCK, Fatal and Lockdown stay set (R445 to R447, R496), and the factory values stay as step
FUSE loaded them (R485). -/
structure Keeps (s t : State) : Prop where
  fuses    : t.droop.fuses = s.droop.fuses
  canon    : s.Canon → t.Canon
  lock     : s.glb.lock = true → t.glb.lock = true
  fatal    : s.pwr.fatal = true → t.pwr.fatal = true
  lockdown : s.pwr.lockdown = true → t.pwr.lockdown = true

theorem Keeps.rfl_ {s : State} : Keeps s s := ⟨rfl, id, id, id, id⟩

theorem Keeps.trans {a b c : State} (h : Keeps a b) (g : Keeps b c) : Keeps a c :=
  ⟨g.fuses.trans h.fuses, fun x => g.canon (h.canon x), fun x => g.lock (h.lock x), fun x => g.fatal (h.fatal x), fun x => g.lockdown (h.lockdown x)⟩

/-- A change of fields that are no store, and of flags that only get set. -/
theorem Keeps.flds {a s : State} {p n ag ck w g b gl tm fl dr pu le x0 x1 x2 x3 x4 x5 x6 x7 x8} (h : Keeps a s)
    (hl : g.lock = s.glb.lock) (hw : w.fatal = s.pwr.fatal) (hd : w.lockdown = s.pwr.lockdown)
    (hc : tm.cnt = s.tmr.cnt) (hp : tm.cap = s.tmr.cap) (hf : fl.srcs = s.flt.srcs)
    (hu : dr.fuses = s.droop.fuses) :
    Keeps a (State.mk p n ag ck w g b gl tm fl dr s.mbs pu le s.insts s.queues s.chans s.engs x0 x1 s.hold s.ports s.fabs
      x2 x3 x4 x5 x6 x7 x8) := by
  refine ⟨hu.trans h.fuses, fun q => ?_, fun q => hl ▸ h.lock q, fun q => hw ▸ h.fatal q, fun q => hd ▸ h.lockdown q⟩
  have c := h.canon q
  refine ⟨c.hold, c.insts, c.queues, c.chans, c.engs, c.ports, c.fabs, c.mbs, ?_, ?_, ?_⟩
  · exact hc ▸ c.cnt
  · exact hp ▸ c.cap
  · intro k
    have := c.sev k
    simp only [State.src] at this ⊢
    rw [hf]; exact this

/-- The fatal flags may also be set. -/
theorem Keeps.pwr {a s : State} (w : Power) (h : Keeps a s) (hw : s.pwr.fatal = true → w.fatal = true)
    (hd : s.pwr.lockdown = true → w.lockdown = true) : Keeps a { s with pwr := w } :=
  ⟨h.fuses, fun q => let c := h.canon q
    ⟨c.hold, c.insts, c.queues, c.chans, c.engs, c.ports, c.fabs, c.mbs, c.cnt, c.cap, c.sev⟩,
   h.lock, fun q => hw (h.fatal q), fun q => hd (h.lockdown q)⟩

theorem Keeps.glb {a s : State} (g : Glob) (h : Keeps a s) (hl : s.glb.lock = true → g.lock = true) :
    Keeps a { s with glb := g } :=
  ⟨h.fuses, fun q => let c := h.canon q
    ⟨c.hold, c.insts, c.queues, c.chans, c.engs, c.ports, c.fabs, c.mbs, c.cnt, c.cap, c.sev⟩,
   fun q => hl (h.lock q), h.fatal, h.lockdown⟩

theorem Keeps.insts {a s : State} (t : List (Nat × Inst)) (h : Keeps a s) (ht : tabWf s.insts → tabWf t) :
    Keeps a { s with insts := t } :=
  ⟨h.fuses, fun q => let c := h.canon q
    ⟨c.hold, ht c.insts, c.queues, c.chans, c.engs, c.ports, c.fabs, c.mbs, c.cnt, c.cap, c.sev⟩, h.lock, h.fatal, h.lockdown⟩

theorem Keeps.queues {a s : State} (t : List (Nat × Queue)) (h : Keeps a s) (ht : tabWf s.queues → tabWf t) :
    Keeps a { s with queues := t } :=
  ⟨h.fuses, fun q => let c := h.canon q
    ⟨c.hold, c.insts, ht c.queues, c.chans, c.engs, c.ports, c.fabs, c.mbs, c.cnt, c.cap, c.sev⟩, h.lock, h.fatal, h.lockdown⟩

theorem Keeps.chans {a s : State} (t : List (Nat × Chan)) (h : Keeps a s) (ht : tabWf s.chans → tabWf t) :
    Keeps a { s with chans := t } :=
  ⟨h.fuses, fun q => let c := h.canon q
    ⟨c.hold, c.insts, c.queues, ht c.chans, c.engs, c.ports, c.fabs, c.mbs, c.cnt, c.cap, c.sev⟩, h.lock, h.fatal, h.lockdown⟩

theorem Keeps.engs {a s : State} (t : List (Nat × Eng)) (h : Keeps a s) (ht : tabWf s.engs → tabWf t) :
    Keeps a { s with engs := t } :=
  ⟨h.fuses, fun q => let c := h.canon q
    ⟨c.hold, c.insts, c.queues, c.chans, ht c.engs, c.ports, c.fabs, c.mbs, c.cnt, c.cap, c.sev⟩, h.lock, h.fatal, h.lockdown⟩

theorem Keeps.ports {a s : State} (t : List (Nat × MPort)) (h : Keeps a s) (ht : tabWf s.ports → tabWf t) :
    Keeps a { s with ports := t } :=
  ⟨h.fuses, fun q => let c := h.canon q
    ⟨c.hold, c.insts, c.queues, c.chans, c.engs, ht c.ports, c.fabs, c.mbs, c.cnt, c.cap, c.sev⟩, h.lock, h.fatal, h.lockdown⟩

theorem Keeps.fabs {a s : State} (t : List (Nat × FPort)) (h : Keeps a s) (ht : tabWf s.fabs → tabWf t) :
    Keeps a { s with fabs := t } :=
  ⟨h.fuses, fun q => let c := h.canon q
    ⟨c.hold, c.insts, c.queues, c.chans, c.engs, c.ports, ht c.fabs, c.mbs, c.cnt, c.cap, c.sev⟩, h.lock, h.fatal, h.lockdown⟩

theorem Keeps.hold {a s : State} (m : List Host.Cell) (h : Keeps a s) (hm : Memory.wf s.hold → Memory.wf m) :
    Keeps a { s with hold := m } :=
  ⟨h.fuses, fun q => let c := h.canon q
    ⟨hm c.hold, c.insts, c.queues, c.chans, c.engs, c.ports, c.fabs, c.mbs, c.cnt, c.cap, c.sev⟩, h.lock, h.fatal, h.lockdown⟩

/-- A change made once for each element of a list. -/
theorem Keeps.foldl {a s : State} {α : Type} {f : State → α → State} {l : List α} (h : Keeps a s)
    (hf : ∀ s x, Keeps a s → Keeps a (f s x)) : Keeps a (l.foldl f s) := by
  induction l generalizing s with
  | nil => exact h
  | cons x xs ih => exact ih (hf s x h)

/-! ### Units by number -/

theorem State.updInst_keeps {a s : State} (h : Keeps a s) (i : Nat) (f : Inst → Inst) : Keeps a (s.updInst i f) :=
  h.insts _ (tabUpd_wf · i f)

theorem State.updChan_keeps {a s : State} (h : Keeps a s) (n : Nat) (f : Chan → Chan) : Keeps a (s.updChan n f) :=
  h.chans _ (tabUpd_wf · n f)

theorem State.updQueue_keeps {a s : State} (h : Keeps a s) (g : Nat) (f : Queue → Queue) : Keeps a (s.updQueue g f) := by
  unfold State.updQueue
  split
  · exact h.queues _ (tabSet_wf · g _)
  · exact h

theorem State.updEntry_keeps {a s : State} (h : Keeps a s) (g seq : Nat) (f : Entry → Entry) : Keeps a (s.updEntry g seq f) :=
  State.updQueue_keeps h g _

theorem State.updEng_keeps {a s : State} (h : Keeps a s) (e : Nat) (f : Eng → Eng) : Keeps a (s.updEng e f) :=
  h.engs _ (tabUpd_wf · e f)

theorem State.updPort_keeps {a s : State} (h : Keeps a s) (c : Nat) (f : MPort → MPort) : Keeps a (s.updPort c f) :=
  h.ports _ (tabUpd_wf · c f)

theorem State.updFab_keeps {a s : State} (h : Keeps a s) (f : Nat) (g : FPort → FPort) : Keeps a (s.updFab f g) :=
  h.fabs _ (tabUpd_wf · f g)

theorem State.updMb_keeps {a s : State} (h : Keeps a s) (m : Nat) (f : Mbox → Mbox) : Keeps a (s.updMb m f) :=
  ⟨h.fuses, fun q => let c := h.canon q
    ⟨c.hold, c.insts, c.queues, c.chans, c.engs, c.ports, c.fabs, tabUpd_wf c.mbs m f, c.cnt, c.cap, c.sev⟩,
   h.lock, h.fatal, h.lockdown⟩

theorem State.updCounter_keeps {a s : State} (h : Keeps a s) (n : Nat) (f : Tmr → Tmr) : Keeps a (s.updCounter n f) :=
  ⟨h.fuses, fun q => let c := h.canon q
    ⟨c.hold, c.insts, c.queues, c.chans, c.engs, c.ports, c.fabs, c.mbs, tabUpd_wf c.cnt n f, c.cap, c.sev⟩,
   h.lock, h.fatal, h.lockdown⟩

theorem State.updCapture_keeps {a s : State} (h : Keeps a s) (i : Nat) (f : Cap → Cap) : Keeps a (s.updCapture i f) :=
  ⟨h.fuses, fun q => let c := h.canon q
    ⟨c.hold, c.insts, c.queues, c.chans, c.engs, c.ports, c.fabs, c.mbs, c.cnt, tabUpd_wf c.cap i f, c.sev⟩,
   h.lock, h.fatal, h.lockdown⟩

/-- Every source's reset class lies within its bounds (R413, R525). -/
theorem srcFloor_le_default (k : Nat) : srcFloor k ≤ srcDefault k ∧ srcDefault k ≤ 5 := by
  by_cases h : k < 80
  · revert k; decide
  · have e1 : srcFloor k = 0 := by unfold srcFloor; simp only [List.mem_cons, List.not_mem_nil, or_false]; repeat' (split <;> try omega)
    have e2 : srcDefault k = 0 := by unfold srcDefault; simp only [List.mem_cons, List.not_mem_nil, or_false]; repeat' (split <;> try omega)
    omega

/-- A source's registers change and its SEV stays within its bounds. -/
theorem State.updSrc_keeps {a s : State} (h : Keeps a s) (k : Nat) (f : Src → Src)
    (hf : srcFloor k ≤ (s.src k).sev ∧ (s.src k).sev ≤ 5 → srcFloor k ≤ (f (s.src k)).sev ∧ (f (s.src k)).sev ≤ 5) :
    Keeps a (s.updSrc k f) := by
  refine ⟨h.fuses, fun q => ?_, h.lock, h.fatal, h.lockdown⟩
  have c := h.canon q
  refine ⟨c.hold, c.insts, c.queues, c.chans, c.engs, c.ports, c.fabs, c.mbs, c.cnt, c.cap, fun j => ?_⟩
  have hj := c.sev j
  have hk := hf (c.sev k)
  have e : (s.updSrc k f).src j = if j = k then f (s.src k) else s.src j := by
    simp only [State.src, State.updSrc]
    rw [tabGet_tabSet]
  rw [e]
  split
  · rename_i hjk; exact hjk ▸ hk
  · exact hj

/-- A counter's event, unless a write of this bus clock has overruled it. -/
theorem State.unlessWritten_keeps {a s : State} (h : Keeps a s) (off : Nat) (f : State → State) (hf : Keeps a (f s)) :
    Keeps a (s.unlessWritten off f) := by
  unfold State.unlessWritten
  split
  · exact h
  · exact hf

/-- The effect of a write, at once or kept for RUN. -/
theorem State.steer_keeps {a s : State} (h : Keeps a s) (l : Later) (f : State → State) (hf : Keeps a (f s)) :
    Keeps a (s.steer l f) := by
  unfold State.steer
  split
  · exact hf
  · exact Keeps.flds h rfl rfl rfl rfl rfl rfl rfl

end Sys2Proof.Machine
end

