-- ==== Sys2Proof/Laws/KeepWork.lean ====
section
/-! SUPPORT. What each operation keeps: Channel, engine and queue operations. -/

namespace Sys2Proof.Machine

open Sys2Proof

/-! ### Ops -/

theorem State.updAcc_keeps {a s : State} (h : Keeps a s) (c : Nat) (f : PortAcc → PortAcc) :
    Keeps a (State.updAcc s c f) := by
  unfold State.updAcc
  try dsimp only
  repeat' first
    | with_reducible assumption | split | with_reducible refine Keeps.flds ?_ rfl rfl rfl rfl rfl rfl rfl

theorem State.updFabAcc_keeps {a s : State} (h : Keeps a s) (f : Nat) (g : FabAcc → FabAcc) :
    Keeps a (State.updFabAcc s f g) := by
  unfold State.updFabAcc
  try dsimp only
  repeat' first
    | with_reducible assumption | split | with_reducible refine Keeps.flds ?_ rfl rfl rfl rfl rfl rfl rfl

theorem State.updFrag_keeps {a s : State} (h : Keeps a s) (id : Nat) (g : Frag → Frag) :
    Keeps a (State.updFrag s id g) := by
  unfold State.updFrag
  try dsimp only
  repeat' first
    | with_reducible assumption | split | with_reducible refine Keeps.flds ?_ rfl rfl rfl rfl rfl rfl rfl

theorem State.dropFrag_keeps {a s : State} (h : Keeps a s) (id : Nat) :
    Keeps a (State.dropFrag s id) := by
  unfold State.dropFrag
  try dsimp only
  repeat' first
    | with_reducible assumption | split | with_reducible refine Keeps.flds ?_ rfl rfl rfl rfl rfl rfl rfl

theorem State.noteDbg_keeps {a s : State} (h : Keeps a s) :
    Keeps a (State.noteDbg s) := by
  unfold State.noteDbg
  try dsimp only
  repeat' first
    | with_reducible assumption | split | with_reducible refine Keeps.flds ?_ rfl rfl rfl rfl rfl rfl rfl

theorem State.noteWrite_keeps {a s : State} (h : Keeps a s) (off : Nat) (v : Word) :
    Keeps a (State.noteWrite s off v) := by
  unfold State.noteWrite
  try dsimp only
  repeat' first
    | with_reducible assumption | split | with_reducible refine Keeps.flds ?_ rfl rfl rfl rfl rfl rfl rfl

theorem State.noteSet_keeps {a s : State} (h : Keeps a s) (off : Nat) (bits : Word) :
    Keeps a (State.noteSet s off bits) := by
  unfold State.noteSet
  try dsimp only
  repeat' first
    | with_reducible assumption | split | with_reducible refine Keeps.flds ?_ rfl rfl rfl rfl rfl rfl rfl

theorem State.raise_keeps {a s : State} (h : Keeps a s) (source kind unit : Nat) (inst : Option Nat) (detail : Word) (xcause : Option Nat) :
    Keeps a (State.raise s source kind unit inst detail xcause) := by
  unfold State.raise
  try dsimp only
  repeat' first
    | with_reducible assumption | split | with_reducible refine Keeps.flds ?_ rfl rfl rfl rfl rfl rfl rfl

theorem State.level_keeps {a s : State} (h : Keeps a s) (source kind unit : Nat) (present : Bool) :
    Keeps a (State.level s source kind unit present) := by
  unfold State.level
  try dsimp only
  repeat' first
    | with_reducible assumption | split | with_reducible refine Keeps.flds ?_ rfl rfl rfl rfl rfl rfl rfl

theorem State.raiseAt_keeps {a0 s : State} (h : Keeps a0 s) (source : Nat) (a : Attr) (detail : Word) (xcause : Option Nat) :
    Keeps a0 (State.raiseAt s source a detail xcause) := by
  unfold State.raiseAt
  repeat' first
    | with_reducible assumption | split | with_reducible apply State.raise_keeps

theorem State.dropPur_keeps {a s : State} (h : Keeps a s) : Keeps a (State.dropPur s) := by
  unfold State.dropPur
  exact Keeps.flds (h.ports _ (tabMap_wf · _)) rfl rfl rfl rfl rfl rfl rfl

theorem State.haltPurser_keeps {a s : State} (h : Keeps a s) :
    Keeps a (State.haltPurser s) := by
  unfold State.haltPurser
  try dsimp only
  repeat' first
    | with_reducible assumption | split | with_reducible apply State.dropPur_keeps
    | with_reducible refine Keeps.flds ?_ rfl rfl rfl rfl rfl rfl rfl

theorem State.wakeBy_keeps {a s : State} (h : Keeps a s) (c : WakeCause) :
    Keeps a (State.wakeBy s c) := by
  unfold State.wakeBy
  try dsimp only
  repeat' first
    | with_reducible assumption | split | with_reducible refine Keeps.flds ?_ rfl rfl rfl rfl rfl rfl rfl

theorem State.fvCount_keeps {a s : State} (h : Keeps a s) (i k hi lo : Nat) :
    Keeps a (State.fvCount s i k hi lo) := by
  unfold State.fvCount
  try dsimp only
  repeat' first
    | with_reducible assumption | split | intro _ | with_reducible apply State.unlessWritten_keeps
    | with_reducible apply State.updInst_keeps | with_reducible refine Keeps.flds ?_ rfl rfl rfl rfl rfl rfl rfl

/-! ### Events -/

theorem State.loseEvent_keeps {a s : State} (h : Keeps a s) (i : Nat) (n : Nat) :
    Keeps a (State.loseEvent s i n) := by
  unfold State.loseEvent
  try dsimp only
  repeat' first
    | with_reducible assumption | split | with_reducible apply State.raise_keeps
    | with_reducible apply State.updInst_keeps | with_reducible refine Keeps.flds ?_ rfl rfl rfl rfl rfl rfl rfl

theorem State.addLost_keeps {a s : State} (h : Keeps a s) (i : Nat) :
    Keeps a (State.addLost s i) := by
  unfold State.addLost
  try dsimp only
  repeat' first
    | with_reducible assumption | split | with_reducible apply State.updInst_keeps
    | with_reducible refine Keeps.flds ?_ rfl rfl rfl rfl rfl rfl rfl

theorem State.post_keeps {a s : State} (h : Keeps a s) (i : Nat) (r : EvRec) :
    Keeps a (State.post s i r) := by
  unfold State.post
  try dsimp only
  repeat' first
    | with_reducible assumption | split | with_reducible apply State.addLost_keeps
    | with_reducible apply State.loseEvent_keeps | with_reducible apply State.updInst_keeps
    | with_reducible refine Keeps.flds ?_ rfl rfl rfl rfl rfl rfl rfl

theorem State.msiTrigger_keeps {a s : State} (h : Keeps a s) (i port : Nat) (queue : Option Nat) :
    Keeps a (State.msiTrigger s i port queue) := by
  unfold State.msiTrigger
  try dsimp only
  repeat' first
    | with_reducible assumption | split | with_reducible apply State.updInst_keeps
    | with_reducible refine Keeps.flds ?_ rfl rfl rfl rfl rfl rfl rfl

theorem State.withIrq_keeps {a s : State} (h : Keeps a s) (i port : Nat) (queue : Option Nat) (f : Inst → Inst) :
    Keeps a (State.withIrq s i port queue f) := by
  unfold State.withIrq
  try dsimp only
  repeat' first
    | with_reducible assumption | split | with_reducible apply State.msiTrigger_keeps
    | with_reducible apply State.updInst_keeps

theorem State.dropped_keeps {a s : State} (h : Keeps a s) (i : Nat) :
    Keeps a (State.dropped s i) := by
  unfold State.dropped
  repeat' first
    | with_reducible assumption | split | with_reducible apply State.fvCount_keeps

theorem State.recordDone_keeps {a s : State} (h : Keeps a s) (i : Nat) :
    Keeps a (State.recordDone s i) := by
  unfold State.recordDone
  try dsimp only
  repeat' first
    | with_reducible assumption | split | intro _ | with_reducible apply State.withIrq_keeps
    | with_reducible refine Keeps.flds ?_ rfl rfl rfl rfl rfl rfl rfl

theorem State.recordFails_keeps {a s : State} (h : Keeps a s) (i : Nat) (addr : Nat) (xcause : Option Nat) :
    Keeps a (State.recordFails s i addr xcause) := by
  unfold State.recordFails
  try dsimp only
  repeat' first
    | with_reducible assumption | split | with_reducible apply State.dropped_keeps
    | with_reducible apply State.loseEvent_keeps | with_reducible apply State.raise_keeps
    | with_reducible apply State.updInst_keeps | with_reducible refine Keeps.flds ?_ rfl rfl rfl rfl rfl rfl rfl

theorem State.writeHead_keeps {a s : State} (h : Keeps a s) (i v : Nat) :
    Keeps a (State.writeHead s i v) := by
  unfold State.writeHead
  try dsimp only
  repeat' first
    | with_reducible assumption | split | with_reducible apply State.msiTrigger_keeps
    | with_reducible apply State.raise_keeps | with_reducible apply State.updInst_keeps
    | with_reducible refine Keeps.flds ?_ rfl rfl rfl rfl rfl rfl rfl

theorem State.writeEvtCtl_keeps {a s : State} (h : Keeps a s) (i : Nat) (v : Word) :
    Keeps a (State.writeEvtCtl s i v) := by
  unfold State.writeEvtCtl
  try dsimp only
  repeat' first
    | with_reducible assumption | split | with_reducible apply State.updInst_keeps
    | with_reducible refine Keeps.flds ?_ rfl rfl rfl rfl rfl rfl rfl

/-! ### Chart -/

theorem State.touch_keeps {a s : State} (h : Keeps a s) (i addr : Nat) :
    Keeps a (State.touch s i addr) := by
  unfold State.touch
  try dsimp only
  repeat' first
    | with_reducible assumption | split | with_reducible refine Keeps.flds ?_ rfl rfl rfl rfl rfl rfl rfl

theorem State.touchAll_keeps {a s : State} (h : Keeps a s) (i : Nat) (addrs : List Nat) :
    Keeps a (State.touchAll s i addrs) := by
  unfold State.touchAll
  repeat' first
    | with_reducible assumption | split | intro _ | with_reducible refine Keeps.foldl ?_ (fun _ _ _ => ?_)
    | with_reducible apply State.touch_keeps

theorem State.dropWalked_keeps {a s : State} (h : Keeps a s) (x : XCtx) :
    Keeps a (State.dropWalked s x) := by
  unfold State.dropWalked
  try dsimp only
  repeat' first
    | with_reducible assumption | split | with_reducible refine Keeps.flds ?_ rfl rfl rfl rfl rfl rfl rfl

theorem State.dropWalks_keeps {a s : State} (h : Keeps a s) (x : XCtx) :
    Keeps a (State.dropWalks s x) := by
  unfold State.dropWalks
  try dsimp only
  repeat' first
    | with_reducible assumption | split | with_reducible apply State.dropWalked_keeps
    | with_reducible refine Keeps.flds ?_ rfl rfl rfl rfl rfl rfl rfl

theorem State.cacheLeaf_keeps {a s : State} (h : Keeps a s) (r : Nat) (l : Leaf) :
    Keeps a (State.cacheLeaf s r l) := by
  unfold State.cacheLeaf
  try dsimp only
  repeat' first
    | with_reducible assumption | split | with_reducible refine Keeps.flds ?_ rfl rfl rfl rfl rfl rfl rfl

theorem State.walkEnds_keeps {a s : State} (h : Keeps a s) (w : Walk) (leaf : Option Leaf) (cause : Nat) :
    Keeps a (State.walkEnds s w leaf cause) := by
  unfold State.walkEnds
  try dsimp only
  repeat' first
    | with_reducible assumption | split | with_reducible apply State.cacheLeaf_keeps
    | with_reducible refine Keeps.flds ?_ rfl rfl rfl rfl rfl rfl rfl

theorem State.walkData_keeps {a s : State} (h : Keeps a s) (x : XCtx) (va : Nat) (e : Option Word) :
    Keeps a (State.walkData s x va e) := by
  unfold State.walkData
  try dsimp only
  repeat' first
    | with_reducible assumption | split | with_reducible apply State.walkEnds_keeps
    | with_reducible refine Keeps.flds ?_ rfl rfl rfl rfl rfl rfl rfl

/-! ### Port -/

theorem State.logAccess_keeps {a s : State} (h : Keeps a s) (i va : Nat) :
    Keeps a (State.logAccess s i va) := by
  unfold State.logAccess
  try dsimp only
  repeat' first
    | with_reducible assumption | split | with_reducible apply State.raise_keeps
    | with_reducible apply State.noteSet_keeps | with_reducible refine Keeps.flds ?_ rfl rfl rfl rfl rfl rfl rfl

theorem State.logWaits_keeps {a s : State} (h : Keeps a s) (i : Nat) :
    Keeps a (State.logWaits s i) := by
  unfold State.logWaits
  try dsimp only
  repeat' first
    | with_reducible assumption | split | intro _ | with_reducible apply State.raise_keeps
    | with_reducible apply State.unlessWritten_keeps | with_reducible refine Keeps.flds ?_ rfl rfl rfl rfl rfl rfl rfl

theorem State.issueRead_keeps {a s : State} (h : Keeps a s) (c : Nat) (owner : Owner) (inst gen : Nat) (q : Req) (top : Bool) (k : Acct) :
    Keeps a (State.issueRead s c owner inst gen q top k) := by
  unfold State.issueRead
  try dsimp only
  repeat' first
    | with_reducible assumption | split | with_reducible apply State.updAcc_keeps
    | with_reducible apply State.updPort_keeps | with_reducible refine Keeps.flds ?_ rfl rfl rfl rfl rfl rfl rfl

theorem State.issueWrite_keeps {a s : State} (h : Keeps a s) (c : Nat) (owner : Owner) (inst gen : Nat) (q : Req) (top : Bool) (k : Acct) (data : List Byte) (poison : List Nat) :
    Keeps a (State.issueWrite s c owner inst gen q top k data poison) := by
  unfold State.issueWrite
  try dsimp only
  repeat' first
    | with_reducible assumption | split | with_reducible apply State.updAcc_keeps
    | with_reducible apply State.updPort_keeps | with_reducible refine Keeps.flds ?_ rfl rfl rfl rfl rfl rfl rfl

theorem State.countFab_keeps {a s : State} (h : Keeps a s) (f : Nat) (sent firm : Bool) (n : Nat) :
    Keeps a (State.countFab s f sent firm n) := by
  unfold State.countFab
  try dsimp only
  repeat' first
    | with_reducible assumption | split | with_reducible apply State.updFabAcc_keeps
    | with_reducible refine Keeps.flds ?_ rfl rfl rfl rfl rfl rfl rfl

theorem State.issueSpan_keeps {a s : State} (h : Keeps a s) (f : Nat) (owner : Owner) (write : Bool) (inst gen : Nat) (q : Req) (cls : ArbClass) (cluster : Nat) (data : List Byte) (poison : Nat) :
    Keeps a (State.issueSpan s f owner write inst gen q cls cluster data poison) := by
  unfold State.issueSpan
  try dsimp only
  repeat' first
    | with_reducible assumption | split | with_reducible apply State.countFab_keeps
    | with_reducible apply State.updFab_keeps | with_reducible refine Keeps.flds ?_ rfl rfl rfl rfl rfl rfl rfl

/-! ### Hold -/

theorem State.charge_keeps {a s : State} (h : Keeps a s) (i c : Nat) (k : Charge) (bytes : Nat) (span : List (Nat × Nat × Nat)) :
    Keeps a (State.charge s i c k bytes span) := by
  unfold State.charge
  try dsimp only
  repeat' first
    | with_reducible assumption | split | with_reducible apply State.updInst_keeps
    | with_reducible refine Keeps.flds ?_ rfl rfl rfl rfl rfl rfl rfl

theorem State.cancelRecs_keeps {a s : State} (h : Keeps a s) (g seq : Nat) :
    Keeps a (State.cancelRecs s g seq) := by
  unfold State.cancelRecs
  try dsimp only
  repeat' first
    | with_reducible assumption | split | with_reducible apply State.dropWalks_keeps
    | with_reducible apply State.updEntry_keeps | with_reducible apply State.updPort_keeps
    | with_reducible refine Keeps.flds ?_ rfl rfl rfl rfl rfl rfl rfl

theorem State.manStops_keeps {a s : State} (h : Keeps a s) (g seq : Nat) (x : Stop) :
    Keeps a (State.manStops s g seq x) := by
  unfold State.manStops
  repeat' first
    | with_reducible assumption | split | with_reducible apply State.cancelRecs_keeps
    | with_reducible apply State.raise_keeps | with_reducible apply State.updEntry_keeps
    | with_reducible refine Keeps.flds ?_ rfl rfl rfl rfl rfl rfl rfl

theorem State.settleMan_keeps {a s : State} (h : Keeps a s) (g : Nat) :
    Keeps a (State.settleMan s g) := by
  unfold State.settleMan
  repeat' first
    | with_reducible assumption | split | with_reducible apply State.manStops_keeps
    | with_reducible refine Keeps.flds ?_ rfl rfl rfl rfl rfl rfl rfl

theorem State.assign_keeps {a s : State} (h : Keeps a s) (f : Frag) : Keeps a (State.assign s f) := by
  unfold State.assign
  split
  · exact h
  · rename_i e b slot hp
    generalize ({ f with id := s.nextId, eng := e, bank := b, slot := slot, asgAt := s.now, resv := s.bell.glass } : Frag) = f'
    have h2 : Keeps a ((({ s with nextId := s.nextId + 1 } : State).updEng e (fun x => { x with lastInst := f'.inst })).updPort
        f'.cluster (fun p => { p with drr := tabSet p.drr f'.charge.cls.rank (f'.ctx.order + 1) })) :=
      State.updPort_keeps (State.updEng_keeps (Keeps.flds h rfl rfl rfl rfl rfl rfl rfl) _ _) _ _
    revert h2
    dsimp only
    generalize (State.updPort _ _ _) = s2
    intro h2
    split
    · exact Keeps.flds (State.updChan_keeps h2 _ _) rfl rfl rfl rfl rfl rfl rfl
    · split
      · exact h2
      · split
        · exact h2
        · rename_i en hn
          have h3 : ∀ g : Frag, ∀ l : List Byte, Keeps a { s2 with frags := s2.frags ++ [g], hold := Memory.writes s2.hold g.at_ l } :=
            fun g l => Keeps.flds (h2.hold (Memory.writes s2.hold g.at_ l) (Memory.writes_wf · _ _)) rfl rfl rfl rfl rfl rfl rfl
          split
          · exact h3 _ _
          · exact State.settleMan_keeps (State.updEntry_keeps (h3 _ _) _ _ _) _

theorem doDispatch_keeps {a s : State} (h : Keeps a s) (c : Nat) :
    Keeps a (doDispatch c s) := by
  unfold doDispatch
  repeat' first
    | with_reducible assumption | split | with_reducible apply State.assign_keeps
    | with_reducible refine Keeps.flds ?_ rfl rfl rfl rfl rfl rfl rfl

/-! ### Channel -/

theorem State.chEvent_keeps {a s : State} (h : Keeps a s) (n code : Nat) (load : List Byte) :
    Keeps a (State.chEvent s n code load) := by
  unfold State.chEvent
  repeat' first
    | with_reducible assumption | split | with_reducible apply State.post_keeps

theorem State.chDone_keeps {a s : State} (h : Keeps a s) (n : Nat) :
    Keeps a (State.chDone s n) := by
  unfold State.chDone
  try dsimp only
  repeat' first
    | with_reducible assumption | split | with_reducible apply State.chEvent_keeps
    | with_reducible apply State.updChan_keeps | with_reducible refine Keeps.flds ?_ rfl rfl rfl rfl rfl rfl rfl

theorem State.chIdle_keeps {a s : State} (h : Keeps a s) (n endc : Nat) :
    Keeps a (State.chIdle s n endc) := by
  unfold State.chIdle
  try dsimp only
  repeat' first
    | with_reducible assumption | split | with_reducible apply State.chEvent_keeps
    | with_reducible apply State.updChan_keeps | with_reducible refine Keeps.flds ?_ rfl rfl rfl rfl rfl rfl rfl

theorem State.chError_keeps {a s : State} (h : Keeps a s) (n err : Nat) :
    Keeps a (State.chError s n err) := by
  unfold State.chError
  try dsimp only
  repeat' first
    | with_reducible assumption | split | with_reducible apply State.chEvent_keeps
    | with_reducible apply State.updChan_keeps | with_reducible refine Keeps.flds ?_ rfl rfl rfl rfl rfl rfl rfl

theorem State.badDesc_keeps {a s : State} (h : Keeps a s) (n : Nat) :
    Keeps a (State.badDesc s n) := by
  unfold State.badDesc
  try dsimp only
  repeat' first
    | with_reducible assumption | split | with_reducible apply State.chError_keeps
    | with_reducible apply State.raise_keeps | with_reducible apply State.updChan_keeps
    | with_reducible refine Keeps.flds ?_ rfl rfl rfl rfl rfl rfl rfl

theorem State.goOn_keeps {a s : State} (h : Keeps a s) (n : Nat) (next : Chan → ChState) :
    Keeps a (State.goOn s n next) := by
  unfold State.goOn
  try dsimp only
  repeat' first
    | with_reducible assumption | split | with_reducible apply State.updChan_keeps
    | with_reducible refine Keeps.flds ?_ rfl rfl rfl rfl rfl rfl rfl

theorem State.promote_keeps {a s : State} (h : Keeps a s) (n : Nat) :
    Keeps a (State.promote s n) := by
  unfold State.promote
  try dsimp only
  repeat' first
    | with_reducible assumption | split | with_reducible apply State.goOn_keeps
    | with_reducible apply State.badDesc_keeps | with_reducible apply State.updChan_keeps

theorem State.afterTransfer_keeps {a s : State} (h : Keeps a s) (n : Nat) :
    Keeps a (State.afterTransfer s n) := by
  unfold State.afterTransfer
  try dsimp only
  repeat' first
    | with_reducible assumption | split | with_reducible apply State.promote_keeps
    | with_reducible apply State.goOn_keeps | with_reducible apply State.chError_keeps
    | with_reducible apply State.chIdle_keeps | with_reducible apply State.updChan_keeps
    | with_reducible refine Keeps.flds ?_ rfl rfl rfl rfl rfl rfl rfl

theorem State.chCount_keeps {a s : State} (h : Keeps a s) (n : Nat) (f : Chan → Chan) :
    Keeps a (State.chCount s n f) := by
  unfold State.chCount
  repeat' first
    | with_reducible assumption | split | intro _ | with_reducible apply State.unlessWritten_keeps
    | with_reducible apply State.updChan_keeps

theorem State.countTransfer_keeps {a s : State} (h : Keeps a s) (n : Nat) :
    Keeps a (State.countTransfer s n) := by
  unfold State.countTransfer
  try dsimp only
  repeat' first
    | with_reducible assumption | split | with_reducible apply State.chCount_keeps
    | with_reducible apply State.chDone_keeps | with_reducible refine Keeps.flds ?_ rfl rfl rfl rfl rfl rfl rfl

theorem State.transferDone_keeps {a s : State} (h : Keeps a s) (n : Nat) :
    Keeps a (State.transferDone s n) := by
  unfold State.transferDone
  repeat' first
    | with_reducible assumption | split | with_reducible apply State.countTransfer_keeps
    | with_reducible apply State.afterTransfer_keeps

theorem State.asCalled_keeps {a s : State} (h : Keeps a s) (n : Nat) :
    Keeps a (State.asCalled s n) := by
  unfold State.asCalled
  try dsimp only
  repeat' first
    | with_reducible assumption | split | with_reducible apply State.afterTransfer_keeps
    | with_reducible apply State.badDesc_keeps | with_reducible apply State.updChan_keeps
    | with_reducible refine Keeps.flds ?_ rfl rfl rfl rfl rfl rfl rfl

theorem State.fetchFails_keeps {a s : State} (h : Keeps a s) (n err stat source : Nat) :
    Keeps a (State.fetchFails s n err stat source) := by
  unfold State.fetchFails
  try dsimp only
  repeat' first
    | with_reducible assumption | split | with_reducible apply State.afterTransfer_keeps
    | with_reducible apply State.raise_keeps | with_reducible apply State.updChan_keeps
    | with_reducible refine Keeps.flds ?_ rfl rfl rfl rfl rfl rfl rfl

theorem State.fetchData_keeps {a s : State} (h : Keeps a s) (n : Nat) (d : List Byte) :
    Keeps a (State.fetchData s n d) := by
  unfold State.fetchData
  try dsimp only
  repeat' first
    | with_reducible assumption | split | with_reducible apply State.fetchFails_keeps
    | with_reducible apply State.promote_keeps | with_reducible apply State.updChan_keeps
    | with_reducible refine Keeps.flds ?_ rfl rfl rfl rfl rfl rfl rfl

theorem State.disown_keeps {a s : State} (h : Keeps a s) (mine : Owner → Bool) (own : Owner) :
    Keeps a (State.disown s mine own) :=
  (h.ports _ (tabMap_wf · _)).fabs _ (tabMap_wf · _)

theorem State.retireFetch_keeps {a s : State} (h : Keeps a s) (n : Fin 512) :
    Keeps a (State.retireFetch s n) := by
  unfold State.retireFetch
  try dsimp only
  repeat' first
    | with_reducible assumption | split | with_reducible apply State.disown_keeps
    | with_reducible apply State.dropWalks_keeps | with_reducible apply State.updChan_keeps
    | with_reducible refine Keeps.flds ?_ rfl rfl rfl rfl rfl rfl rfl

theorem State.discardBursts_keeps {a s : State} (h : Keeps a s) (n : Nat) :
    Keeps a (State.discardBursts s n) := by
  unfold State.discardBursts
  try dsimp only
  repeat' first
    | with_reducible assumption | split | intro _ | with_reducible refine Keeps.foldl ?_ (fun _ _ _ => ?_)
    | with_reducible apply State.dropWalks_keeps | with_reducible apply State.updChan_keeps
    | with_reducible refine Keeps.flds ?_ rfl rfl rfl rfl rfl rfl rfl

theorem State.drained_keeps {a s : State} (h : Keeps a s) (n : Nat) :
    Keeps a (State.drained s n) := by
  unfold State.drained
  try dsimp only
  repeat' first
    | with_reducible assumption | split | with_reducible apply State.asCalled_keeps
    | with_reducible apply State.chError_keeps | with_reducible apply State.chIdle_keeps
    | with_reducible apply State.updChan_keeps | with_reducible refine Keeps.flds ?_ rfl rfl rfl rfl rfl rfl rfl

theorem State.ifDrained_keeps {a s : State} (h : Keeps a s) (n : Nat) :
    Keeps a (State.ifDrained s n) := by
  unfold State.ifDrained
  repeat' first
    | with_reducible assumption | split | with_reducible apply State.drained_keeps

theorem State.burstOk_keeps {a s : State} (h : Keeps a s) (n : Nat) (f : Frag) :
    Keeps a (State.burstOk s n f) := by
  unfold State.burstOk
  try dsimp only
  repeat' first
    | with_reducible assumption | split | with_reducible apply State.ifDrained_keeps
    | with_reducible apply State.transferDone_keeps | with_reducible apply State.countTransfer_keeps
    | with_reducible apply State.chCount_keeps | with_reducible apply State.updChan_keeps
    | with_reducible refine Keeps.flds ?_ rfl rfl rfl rfl rfl rfl rfl

theorem State.burstFailed_keeps {a s : State} (h : Keeps a s) (n : Nat) (f : Frag) (err side stat : Nat) (out late : Bool) :
    Keeps a (State.burstFailed s n f err side stat out late) := by
  unfold State.burstFailed
  try dsimp only
  repeat' first
    | with_reducible assumption | split | with_reducible apply State.ifDrained_keeps
    | with_reducible apply State.updChan_keeps | with_reducible refine Keeps.flds ?_ rfl rfl rfl rfl rfl rfl rfl

theorem State.chStart_keeps {a s : State} (h : Keeps a s) (n : Nat) :
    Keeps a (State.chStart s n) := by
  unfold State.chStart
  try dsimp only
  repeat' first
    | with_reducible assumption | split | with_reducible apply State.promote_keeps
    | with_reducible apply State.goOn_keeps | with_reducible apply State.badDesc_keeps
    | with_reducible apply State.updChan_keeps | with_reducible refine Keeps.flds ?_ rfl rfl rfl rfl rfl rfl rfl

theorem State.chHalt_keeps {a s : State} (h : Keeps a s) (n : Fin 512) (wish : StopWish) :
    Keeps a (State.chHalt s n wish) := by
  unfold State.chHalt
  cases hx : (s.chan n.val).state <;> simp only [hx] <;> repeat' first
    | with_reducible assumption
    | with_reducible apply State.chIdle_keeps | with_reducible apply State.ifDrained_keeps
    | with_reducible apply State.discardBursts_keeps | with_reducible apply State.retireFetch_keeps
    | with_reducible apply State.updChan_keeps

theorem State.chStop_keeps {a s : State} (h : Keeps a s) (n : Fin 512) :
    Keeps a (State.chStop s n) := by
  unfold State.chStop
  repeat' first
    | with_reducible assumption | split | with_reducible apply State.chHalt_keeps

theorem State.chContain_keeps {a s : State} (h : Keeps a s) (n : Fin 512) :
    Keeps a (State.chContain s n) := by
  unfold State.chContain
  cases (s.chan n.val).state <;> dsimp only <;> repeat' first
    | with_reducible assumption | split
    | with_reducible apply State.chError_keeps | with_reducible apply State.chHalt_keeps
    | with_reducible apply State.retireFetch_keeps | with_reducible apply State.updChan_keeps

theorem State.chLoad_keeps {a s : State} (h : Keeps a s) (n : Nat) :
    Keeps a (State.chLoad s n) := by
  unfold State.chLoad
  try dsimp only
  repeat' first
    | with_reducible assumption | split | with_reducible apply State.retireFetch_keeps
    | with_reducible apply State.promote_keeps | with_reducible apply State.updChan_keeps
    | with_reducible refine Keeps.flds ?_ rfl rfl rfl rfl rfl rfl rfl

theorem State.chDrop_keeps {a s : State} (h : Keeps a s) (n : Nat) :
    Keeps a (State.chDrop s n) := by
  unfold State.chDrop
  try dsimp only
  repeat' first
    | with_reducible assumption | split | with_reducible apply State.updChan_keeps
    | with_reducible refine Keeps.flds ?_ rfl rfl rfl rfl rfl rfl rfl

theorem State.chHold_keeps {a s : State} (h : Keeps a s) (n : Nat) :
    Keeps a (State.chHold s n) := by
  unfold State.chHold
  try dsimp only
  repeat' first
    | with_reducible assumption | split | with_reducible apply State.updChan_keeps
    | with_reducible refine Keeps.flds ?_ rfl rfl rfl rfl rfl rfl rfl

theorem State.chResume_keeps {a s : State} (h : Keeps a s) (n : Nat) :
    Keeps a (State.chResume s n) := by
  unfold State.chResume
  repeat' first
    | with_reducible assumption | split | with_reducible apply State.asCalled_keeps

theorem State.pauseActs_keeps {a s : State} (h : Keeps a s) (n : Nat) :
    Keeps a (State.pauseActs s n) := by
  unfold State.pauseActs
  repeat' first
    | with_reducible assumption | split | with_reducible apply State.chResume_keeps
    | with_reducible apply State.chHold_keeps

theorem State.chCmd_keeps {a s : State} (h : Keeps a s) (n : Nat) (all : Bool) (v : Word) :
    Keeps a (State.chCmd s n all v) := by
  unfold State.chCmd
  try dsimp only
  repeat' first
    | with_reducible assumption | split | with_reducible apply State.chDrop_keeps
    | with_reducible apply State.chLoad_keeps | with_reducible apply State.chStop_keeps
    | with_reducible apply State.chStart_keeps

theorem State.chLevel_keeps {a s : State} (h : Keeps a s) (n level : Nat) :
    Keeps a (State.chLevel s n level) := by
  unfold State.chLevel
  try dsimp only
  repeat' first
    | with_reducible assumption | split | with_reducible apply State.level_keeps
    | with_reducible apply State.updChan_keeps | with_reducible refine Keeps.flds ?_ rfl rfl rfl rfl rfl rfl rfl

/-! ### Engine -/

theorem State.burstEnds_keeps {a s : State} (h : Keeps a s) (n : Nat) (f : Frag) :
    Keeps a (State.burstEnds s n f) := by
  unfold State.burstEnds
  try dsimp only
  repeat' first
    | with_reducible assumption | split | with_reducible apply State.burstFailed_keeps
    | with_reducible apply State.burstOk_keeps | with_reducible apply State.ifDrained_keeps

theorem State.endFrag_keeps {a s : State} (h : Keeps a s) (id : Nat) :
    Keeps a (State.endFrag s id) := by
  unfold State.endFrag
  try dsimp only
  repeat' first
    | with_reducible assumption | split | with_reducible apply State.burstEnds_keeps
    | with_reducible apply State.cancelRecs_keeps | with_reducible apply State.dropWalks_keeps
    | with_reducible apply State.updEntry_keeps | with_reducible apply State.dropFrag_keeps
    | with_reducible refine Keeps.flds ?_ rfl rfl rfl rfl rfl rfl rfl

theorem State.readsOver_keeps {a s : State} (h : Keeps a s) (id : Nat) :
    Keeps a (State.readsOver s id) := by
  unfold State.readsOver
  try dsimp only
  repeat' first
    | with_reducible assumption | split | with_reducible apply State.endFrag_keeps
    | with_reducible apply State.updFrag_keeps | with_reducible refine Keeps.flds ?_ rfl rfl rfl rfl rfl rfl rfl

theorem State.writesOver_keeps {a s : State} (h : Keeps a s) (id : Nat) :
    Keeps a (State.writesOver s id) := by
  unfold State.writesOver
  try dsimp only
  repeat' first
    | with_reducible assumption | split | with_reducible apply State.endFrag_keeps
    | with_reducible apply State.updFrag_keeps | with_reducible refine Keeps.flds ?_ rfl rfl rfl rfl rfl rfl rfl

theorem State.admitFrag_keeps {a s : State} (h : Keeps a s) (f : Frag) (k : Charge) :
    Keeps a (State.admitFrag s f k) := by
  unfold State.admitFrag
  try dsimp only
  repeat' first
    | with_reducible assumption | split | with_reducible apply State.charge_keeps
    | with_reducible apply State.dropWalked_keeps | with_reducible apply State.touchAll_keeps
    | with_reducible apply State.updFrag_keeps | with_reducible refine Keeps.flds ?_ rfl rfl rfl rfl rfl rfl rfl

theorem State.unassign_keeps {a s : State} (h : Keeps a s) (f : Frag) :
    Keeps a (State.unassign s f) := by
  unfold State.unassign
  try dsimp only
  repeat' first
    | with_reducible assumption | split | with_reducible apply State.updEntry_keeps
    | with_reducible apply State.updChan_keeps | with_reducible refine Keeps.flds ?_ rfl rfl rfl rfl rfl rfl rfl

theorem State.giveBack_keeps {a s : State} (h : Keeps a s) (f : Frag) :
    Keeps a (State.giveBack s f) := by
  unfold State.giveBack
  try dsimp only
  repeat' first
    | with_reducible assumption | split | intro _ | with_reducible refine Keeps.foldl ?_ (fun _ _ _ => ?_)
    | with_reducible apply State.unassign_keeps | with_reducible apply State.ifDrained_keeps
    | with_reducible apply State.dropWalks_keeps | with_reducible refine Keeps.flds ?_ rfl rfl rfl rfl rfl rfl rfl

theorem State.fragXfail_keeps {a s : State} (h : Keeps a s) (f : Frag) (dst : Bool) (cause : Nat) :
    Keeps a (State.fragXfail s f dst cause) := by
  unfold State.fragXfail
  try dsimp only
  repeat' first
    | with_reducible assumption | split | with_reducible apply State.endFrag_keeps
    | with_reducible apply State.raiseAt_keeps | with_reducible apply State.updFrag_keeps
    | with_reducible refine Keeps.flds ?_ rfl rfl rfl rfl rfl rfl rfl

theorem State.fragNoLink_keeps {a s : State} (h : Keeps a s) (f : Frag) (dst : Bool) :
    Keeps a (State.fragNoLink s f dst) := by
  unfold State.fragNoLink
  try dsimp only
  repeat' first
    | with_reducible assumption | split | with_reducible apply State.endFrag_keeps
    | with_reducible apply State.raiseAt_keeps | with_reducible apply State.updFrag_keeps
    | with_reducible refine Keeps.flds ?_ rfl rfl rfl rfl rfl rfl rfl

theorem State.fragRead_keeps {a s : State} (h : Keeps a s) (id : Nat) :
    Keeps a (State.fragRead s id) := by
  unfold State.fragRead
  try dsimp only
  repeat' first
    | with_reducible assumption | split | with_reducible apply State.charge_keeps
    | with_reducible apply State.issueSpan_keeps | with_reducible apply State.issueRead_keeps
    | with_reducible apply State.updFrag_keeps | with_reducible apply State.updChan_keeps
    | with_reducible refine Keeps.flds ?_ rfl rfl rfl rfl rfl rfl rfl

theorem State.outParity_keeps {a s : State} (h : Keeps a s) (f : Frag) (va : Nat) (par : OutPar) :
    Keeps a (State.outParity s f va par) := by
  unfold State.outParity
  try dsimp only
  repeat' first
    | with_reducible assumption | split | intro _ | with_reducible apply State.raiseAt_keeps
    | with_reducible apply State.unlessWritten_keeps | with_reducible apply State.updFrag_keeps
    | with_reducible apply State.updPort_keeps | with_reducible refine Keeps.flds ?_ rfl rfl rfl rfl rfl rfl rfl

theorem State.fragWrite_keeps {a s : State} (h : Keeps a s) (id : Nat) (par : List (Nat × OutPar)) :
    Keeps a (State.fragWrite s id par) := by
  unfold State.fragWrite
  try dsimp only
  repeat' first
    | with_reducible assumption | split | intro _ | with_reducible refine Keeps.foldl ?_ (fun _ _ _ => ?_)
    | with_reducible apply State.outParity_keeps | with_reducible apply State.writesOver_keeps
    | with_reducible apply State.chDone_keeps | with_reducible apply State.charge_keeps
    | with_reducible apply State.issueSpan_keeps | with_reducible apply State.issueWrite_keeps
    | with_reducible apply State.logAccess_keeps | with_reducible apply State.updEntry_keeps
    | with_reducible apply State.updFrag_keeps | with_reducible apply State.updChan_keeps
    | with_reducible refine Keeps.flds ?_ rfl rfl rfl rfl rfl rfl rfl

theorem State.placeBytes_keeps {a s : State} (h : Keeps a s) (f : Frag) (off : Nat) (data : List Byte) (bad : List Nat) :
    Keeps a (State.placeBytes s f off data bad) := by
  unfold State.placeBytes
  dsimp only
  exact State.updFrag_keeps (h.hold _ (Memory.scatter_wf · _ _ _)) _ _

theorem State.fragSrcFails_keeps {a s : State} (h : Keeps a s) (f : Frag) (code stat source : Nat) :
    Keeps a (State.fragSrcFails s f code stat source) := by
  unfold State.fragSrcFails
  try dsimp only
  repeat' first
    | with_reducible assumption | split | with_reducible apply State.fvCount_keeps
    | with_reducible apply State.raiseAt_keeps | with_reducible apply State.updFrag_keeps
    | with_reducible refine Keeps.flds ?_ rfl rfl rfl rfl rfl rfl rfl

theorem State.fragDstFails_keeps {a s : State} (h : Keeps a s) (f : Frag) (code stat source : Nat) :
    Keeps a (State.fragDstFails s f code stat source) := by
  unfold State.fragDstFails
  try dsimp only
  repeat' first
    | with_reducible assumption | split | with_reducible apply State.fvCount_keeps
    | with_reducible apply State.raiseAt_keeps | with_reducible apply State.updFrag_keeps
    | with_reducible refine Keeps.flds ?_ rfl rfl rfl rfl rfl rfl rfl

theorem State.fragReadEnds_keeps {a s : State} (h : Keeps a s) (id : Nat) :
    Keeps a (State.fragReadEnds s id) := by
  unfold State.fragReadEnds
  try dsimp only
  repeat' first
    | with_reducible assumption | split | with_reducible apply State.readsOver_keeps
    | with_reducible apply State.updFrag_keeps | with_reducible refine Keeps.flds ?_ rfl rfl rfl rfl rfl rfl rfl

theorem State.fragWriteEnds_keeps {a s : State} (h : Keeps a s) (id : Nat) :
    Keeps a (State.fragWriteEnds s id) := by
  unfold State.fragWriteEnds
  try dsimp only
  repeat' first
    | with_reducible assumption | split | with_reducible apply State.writesOver_keeps
    | with_reducible apply State.updFrag_keeps | with_reducible refine Keeps.flds ?_ rfl rfl rfl rfl rfl rfl rfl

theorem State.stopFrag_keeps {a s : State} (h : Keeps a s) (id : Nat) (mark : Frag → Frag) :
    Keeps a (State.stopFrag s id mark) := by
  unfold State.stopFrag
  try dsimp only
  repeat' first
    | with_reducible assumption | split | with_reducible apply State.endFrag_keeps
    | with_reducible apply State.updFrag_keeps | with_reducible refine Keeps.flds ?_ rfl rfl rfl rfl rfl rfl rfl

theorem State.haltEngine_keeps {a s : State} (h : Keeps a s) (e : Nat) :
    Keeps a (State.haltEngine s e) := by
  unfold State.haltEngine
  try dsimp only
  repeat' first
    | with_reducible assumption | split | intro _ | with_reducible refine Keeps.foldl ?_ (fun _ _ _ => ?_)
    | with_reducible apply State.stopFrag_keeps | with_reducible apply State.updEng_keeps
    | with_reducible refine Keeps.flds ?_ rfl rfl rfl rfl rfl rfl rfl

theorem doRelease_keeps {a s : State} (h : Keeps a s) (e : Nat) :
    Keeps a (doRelease e s) := by
  unfold doRelease
  try dsimp only
  repeat' first
    | with_reducible assumption | split | with_reducible apply State.noteWrite_keeps
    | with_reducible apply State.updEng_keeps | with_reducible refine Keeps.flds ?_ rfl rfl rfl rfl rfl rfl rfl

theorem doClearDone_keeps {a s : State} (h : Keeps a s) (e : Nat) :
    Keeps a (doClearDone e s) := by
  unfold doClearDone
  dsimp only
  repeat' first
    | with_reducible assumption | split | with_reducible apply State.noteSet_keeps | with_reducible apply State.updEng_keeps
    | exact h.hold _ (Memory.filter_wf · _)

/-! ### Queue -/

theorem State.qEvent_keeps {a s : State} (h : Keeps a s) (g : Nat) (q : Queue) (code : Nat) (load : List Byte) :
    Keeps a (State.qEvent s g q code load) := by
  unfold State.qEvent
  repeat' first
    | with_reducible assumption | split | with_reducible apply State.post_keeps

theorem State.qOff_keeps {a s : State} (h : Keeps a s) (g : Nat) (q : Queue) :
    Keeps a (State.qOff s g q) := by
  unfold State.qOff
  try dsimp only
  repeat' first
    | with_reducible assumption | split | with_reducible apply State.qEvent_keeps
    | with_reducible apply State.updQueue_keeps | with_reducible refine Keeps.flds ?_ rfl rfl rfl rfl rfl rfl rfl

theorem State.qSettled_keeps {a s : State} (h : Keeps a s) (g : Nat) :
    Keeps a (State.qSettled s g) := by
  unfold State.qSettled
  try dsimp only
  repeat' first
    | with_reducible assumption | split | with_reducible apply State.qOff_keeps
    | with_reducible apply State.updQueue_keeps | with_reducible refine Keeps.flds ?_ rfl rfl rfl rfl rfl rfl rfl

theorem State.writeEnable_keeps {a s : State} (h : Keeps a s) (g : Nat) (en : Bool) :
    Keeps a (State.writeEnable s g en) := by
  unfold State.writeEnable
  try dsimp only
  repeat' first
    | with_reducible assumption | split | with_reducible apply State.qSettled_keeps
    | with_reducible apply State.updQueue_keeps | with_reducible refine Keeps.flds ?_ rfl rfl rfl rfl rfl rfl rfl

theorem State.strictHalt_keeps {a s : State} (h : Keeps a s) (g : Nat) (cause status : Nat) (raw : List Byte) (xcause : Option Nat) :
    Keeps a (State.strictHalt s g cause status raw xcause) := by
  unfold State.strictHalt
  try dsimp only
  repeat' first
    | with_reducible assumption | split | with_reducible apply State.qEvent_keeps
    | with_reducible apply State.fvCount_keeps | with_reducible apply State.raise_keeps
    | with_reducible apply State.updQueue_keeps | with_reducible refine Keeps.flds ?_ rfl rfl rfl rfl rfl rfl rfl

theorem State.pollFails_keeps {a s : State} (h : Keeps a s) (g : Nat) (xcause : Option Nat) :
    Keeps a (State.pollFails s g xcause) := by
  unfold State.pollFails
  try dsimp only
  repeat' first
    | with_reducible assumption | split | with_reducible apply State.strictHalt_keeps
    | with_reducible apply State.raise_keeps | with_reducible apply State.updQueue_keeps
    | with_reducible refine Keeps.flds ?_ rfl rfl rfl rfl rfl rfl rfl

theorem State.pollData_keeps {a s : State} (h : Keeps a s) (g : Nat) (d : Option (List Byte)) :
    Keeps a (State.pollData s g d) := by
  unfold State.pollData
  try dsimp only
  repeat' first
    | with_reducible assumption | split | with_reducible apply State.pollFails_keeps
    | with_reducible apply State.strictHalt_keeps | with_reducible apply State.qSettled_keeps
    | with_reducible apply State.raise_keeps | with_reducible apply State.updQueue_keeps
    | with_reducible refine Keeps.flds ?_ rfl rfl rfl rfl rfl rfl rfl

theorem State.retry_keeps {a s : State} (h : Keeps a s) (g : Nat) :
    Keeps a (State.retry s g) := by
  unfold State.retry
  try dsimp only
  repeat' first
    | with_reducible assumption | split | with_reducible apply State.updQueue_keeps
    | with_reducible refine Keeps.flds ?_ rfl rfl rfl rfl rfl rfl rfl

theorem State.skip_keeps {a s : State} (h : Keeps a s) (g : Nat) :
    Keeps a (State.skip s g) := by
  unfold State.skip
  try dsimp only
  repeat' first
    | with_reducible assumption | split | with_reducible apply State.updQueue_keeps
    | with_reducible refine Keeps.flds ?_ rfl rfl rfl rfl rfl rfl rfl

theorem State.settleBegins_keeps {a s : State} (h : Keeps a s) (i : Nat) :
    Keeps a (State.settleBegins s i) := by
  unfold State.settleBegins
  try dsimp only
  repeat' first
    | with_reducible assumption | split | with_reducible apply State.updInst_keeps
    | with_reducible refine Keeps.flds ?_ rfl rfl rfl rfl rfl rfl rfl

theorem State.ovrIssued_keeps {a s : State} (h : Keeps a s) (g seq : Nat) :
    Keeps a (State.ovrIssued s g seq) := by
  unfold State.ovrIssued
  try dsimp only
  repeat' first
    | with_reducible assumption | split | with_reducible apply State.settleBegins_keeps
    | with_reducible apply State.qEvent_keeps | with_reducible apply State.updEntry_keeps
    | with_reducible refine Keeps.flds ?_ rfl rfl rfl rfl rfl rfl rfl

theorem State.ovrDone_keeps {a s : State} (h : Keeps a s) (g seq : Nat) (ok : Bool) (xcause : Option Nat) :
    Keeps a (State.ovrDone s g seq ok xcause) := by
  unfold State.ovrDone
  try dsimp only
  repeat' first
    | with_reducible assumption | split | with_reducible apply State.qSettled_keeps
    | with_reducible apply State.dropped_keeps | with_reducible apply State.raise_keeps
    | with_reducible apply State.updQueue_keeps | with_reducible refine Keeps.flds ?_ rfl rfl rfl rfl rfl rfl rfl

theorem onLocal_keeps {a s : State} (h : Keeps a s) (i l : Nat) (f : Nat → State → State)
    (hf : ∀ g, Keeps a (f g s)) : Keeps a (onLocal i l f s) := by
  unfold onLocal
  split
  · exact hf _
  · exact h

theorem doEnable_keeps {a s : State} (h : Keeps a s) (i l : Nat) (en : Bool) :
    Keeps a (doEnable i l en s) := by
  unfold doEnable
  repeat' first
    | with_reducible assumption | split | intro _ | with_reducible apply onLocal_keeps
    | with_reducible apply State.writeEnable_keeps

theorem doRetry_keeps {a s : State} (h : Keeps a s) (i l : Nat) :
    Keeps a (doRetry i l s) := by
  unfold doRetry
  repeat' first
    | with_reducible assumption | split | intro _ | with_reducible apply onLocal_keeps
    | with_reducible apply State.retry_keeps

theorem doSkip_keeps {a s : State} (h : Keeps a s) (i l : Nat) :
    Keeps a (doSkip i l s) := by
  unfold doSkip
  repeat' first
    | with_reducible assumption | split | intro _ | with_reducible apply onLocal_keeps
    | with_reducible apply State.skip_keeps

theorem State.setEnable_keeps {a s : State} (h : Keeps a s) (i l : Nat) (en : Bool) :
    Keeps a (State.setEnable s i l en) := by
  unfold State.setEnable
  try dsimp only
  repeat' first
    | with_reducible assumption | split | intro _ | with_reducible apply doEnable_keeps
    | with_reducible apply onLocal_keeps | with_reducible apply State.steer_keeps
    | with_reducible apply State.updQueue_keeps | with_reducible refine Keeps.flds ?_ rfl rfl rfl rfl rfl rfl rfl

theorem State.setRelease_keeps {a s : State} (h : Keeps a s) (i l : Nat) (skip : Bool) :
    Keeps a (State.setRelease s i l skip) := by
  unfold State.setRelease
  repeat' first
    | with_reducible assumption | split | intro _ | with_reducible apply doSkip_keeps
    | with_reducible apply doRetry_keeps | with_reducible apply State.skip_keeps
    | with_reducible apply State.steer_keeps

theorem State.pollDue_keeps {a s : State} (h : Keeps a s) (g : Nat) :
    Keeps a (State.pollDue s g) := by
  unfold State.pollDue
  try dsimp only
  repeat' first
    | with_reducible assumption | split | with_reducible apply State.updQueue_keeps
    | with_reducible refine Keeps.flds ?_ rfl rfl rfl rfl rfl rfl rfl

end Sys2Proof.Machine
end

