-- ==== Sys2Proof/Laws/KeepAccess.lean ====
section
/-! SUPPORT. What each operation keeps: accesses, the span, the logbook, arbiters and instances. -/

namespace Sys2Proof.Machine

open Sys2Proof

/-! ### Access -/

theorem State.putCtl_keeps {a s : State} (h : Keeps a s) (c : Nat) (r : CtlReq) :
    Keeps a (State.putCtl s c r) := by
  unfold State.putCtl
  try dsimp only
  repeat' first
    | with_reducible assumption | split | with_reducible apply State.updPort_keeps
    | with_reducible refine Keeps.flds ?_ rfl rfl rfl rfl rfl rfl rfl

theorem State.pollGo_keeps {a s : State} (h : Keeps a s) (g : Fin 16384) :
    Keeps a (State.pollGo s g) := by
  unfold State.pollGo
  try dsimp only
  repeat' first
    | with_reducible assumption | split | with_reducible apply State.putCtl_keeps
    | with_reducible apply State.pollData_keeps | with_reducible apply State.pollFails_keeps
    | with_reducible apply State.dropWalked_keeps | with_reducible apply State.touch_keeps
    | with_reducible refine Keeps.flds ?_ rfl rfl rfl rfl rfl rfl rfl

theorem doPollIssue_keeps {a s : State} (h : Keeps a s) :
    Keeps a (doPollIssue s) := by
  unfold doPollIssue
  try dsimp only
  repeat' first
    | with_reducible assumption | split | with_reducible apply State.pollGo_keeps
    | with_reducible apply State.raise_keeps | with_reducible apply State.updQueue_keeps
    | with_reducible refine Keeps.flds ?_ rfl rfl rfl rfl rfl rfl rfl

theorem State.recFails_keeps {a s : State} (h : Keeps a s) (g seq : Nat) (dst : Bool) (port : Nat) (xcause : Option Nat) :
    Keeps a (State.recFails s g seq dst port xcause) := by
  unfold State.recFails
  try dsimp only
  repeat' first
    | with_reducible assumption | split | with_reducible apply State.cancelRecs_keeps
    | with_reducible apply State.raise_keeps | with_reducible apply State.updEntry_keeps
    | with_reducible refine Keeps.flds ?_ rfl rfl rfl rfl rfl rfl rfl

theorem State.recData_keeps {a s : State} (h : Keeps a s) (g seq : Nat) (dst : Bool) (d : List Byte) :
    Keeps a (State.recData s g seq dst d) := by
  unfold State.recData
  try dsimp only
  repeat' first
    | with_reducible assumption | split | with_reducible apply State.settleMan_keeps
    | with_reducible apply State.manStops_keeps | with_reducible apply State.updEntry_keeps
    | with_reducible refine Keeps.flds ?_ rfl rfl rfl rfl rfl rfl rfl

theorem State.recGo_keeps {a s : State} (h : Keeps a s) (g : Fin 16384) (dst : Bool) :
    Keeps a (State.recGo s g dst) := by
  unfold State.recGo
  try dsimp only
  repeat' first
    | with_reducible assumption | split | with_reducible apply State.recFails_keeps
    | with_reducible apply State.putCtl_keeps | with_reducible apply State.dropWalked_keeps
    | with_reducible apply State.touch_keeps | with_reducible refine Keeps.flds ?_ rfl rfl rfl rfl rfl rfl rfl

theorem doRecRead_keeps {a s : State} (h : Keeps a s) (g : Fin 16384) (dst : Bool) :
    Keeps a (doRecRead g dst s) := by
  unfold doRecRead
  try dsimp only
  repeat' first
    | with_reducible assumption | split | with_reducible apply State.recGo_keeps
    | with_reducible apply State.updEntry_keeps | with_reducible refine Keeps.flds ?_ rfl rfl rfl rfl rfl rfl rfl

theorem State.linkNoLink_keeps {a s : State} (h : Keeps a s) (n : Nat) :
    Keeps a (State.linkNoLink s n) := by
  unfold State.linkNoLink
  repeat' first
    | with_reducible assumption | split | with_reducible apply State.fetchFails_keeps
    | with_reducible apply State.raise_keeps

theorem State.linkGo_keeps {a s : State} (h : Keeps a s) (n : Fin 512) :
    Keeps a (State.linkGo s n) := by
  unfold State.linkGo
  try dsimp only
  repeat' first
    | with_reducible assumption | split | with_reducible apply State.linkNoLink_keeps
    | with_reducible apply State.putCtl_keeps | with_reducible apply State.afterTransfer_keeps
    | with_reducible apply State.dropWalked_keeps | with_reducible apply State.touch_keeps
    | with_reducible apply State.raise_keeps | with_reducible apply State.updChan_keeps
    | with_reducible refine Keeps.flds ?_ rfl rfl rfl rfl rfl rfl rfl

theorem doLinkFetch_keeps {a s : State} (h : Keeps a s) (n : Fin 512) :
    Keeps a (doLinkFetch n s) := by
  unfold doLinkFetch
  try dsimp only
  repeat' first
    | with_reducible assumption | split | with_reducible apply State.linkGo_keeps
    | with_reducible apply State.updChan_keeps | with_reducible refine Keeps.flds ?_ rfl rfl rfl rfl rfl rfl rfl

theorem doLinkTmo_keeps {a s : State} (h : Keeps a s) (n : Fin 512) :
    Keeps a (doLinkTmo n s) := by
  unfold doLinkTmo
  try dsimp only
  repeat' first
    | with_reducible assumption | split | with_reducible apply State.retireFetch_keeps
    | with_reducible apply State.fetchFails_keeps

theorem State.ovrGo_keeps {a s : State} (h : Keeps a s) (g : Fin 16384) (seq : Nat) :
    Keeps a (State.ovrGo s g seq) := by
  unfold State.ovrGo
  try dsimp only
  repeat' first
    | with_reducible assumption | split | with_reducible apply State.putCtl_keeps
    | with_reducible apply State.ovrDone_keeps | with_reducible apply State.ovrIssued_keeps
    | with_reducible apply State.dropWalked_keeps | with_reducible apply State.touch_keeps
    | with_reducible refine Keeps.flds ?_ rfl rfl rfl rfl rfl rfl rfl

theorem doOverwrite_keeps {a s : State} (h : Keeps a s) (g : Fin 16384) :
    Keeps a (doOverwrite g s) := by
  unfold doOverwrite
  try dsimp only
  repeat' first
    | with_reducible assumption | split | with_reducible apply State.ovrGo_keeps
    | with_reducible apply State.updEntry_keeps | with_reducible refine Keeps.flds ?_ rfl rfl rfl rfl rfl rfl rfl

theorem State.evtGo_keeps {a s : State} (h : Keeps a s) (i : Fin 1024) :
    Keeps a (State.evtGo s i) := by
  unfold State.evtGo
  try dsimp only
  repeat' first
    | with_reducible assumption | split | with_reducible apply State.putCtl_keeps
    | with_reducible apply State.dropWalked_keeps | with_reducible apply State.touch_keeps
    | with_reducible apply State.recordFails_keeps | with_reducible refine Keeps.flds ?_ rfl rfl rfl rfl rfl rfl rfl

theorem doRecordWrite_keeps {a s : State} (h : Keeps a s) (i : Fin 1024) :
    Keeps a (doRecordWrite i s) := by
  unfold doRecordWrite
  try dsimp only
  repeat' first
    | with_reducible assumption | split | with_reducible apply State.evtGo_keeps
    | with_reducible apply State.updInst_keeps | with_reducible refine Keeps.flds ?_ rfl rfl rfl rfl rfl rfl rfl

theorem State.msiEnds_keeps {a s : State} (h : Keeps a s) (i addr : Nat) (ok : Bool) (xcause : Option Nat) :
    Keeps a (State.msiEnds s i addr ok xcause) := by
  unfold State.msiEnds
  try dsimp only
  repeat' first
    | with_reducible assumption | split | with_reducible apply State.dropped_keeps
    | with_reducible apply State.raise_keeps | with_reducible apply State.updInst_keeps
    | with_reducible refine Keeps.flds ?_ rfl rfl rfl rfl rfl rfl rfl

theorem State.msiNoLink_keeps {a s : State} (h : Keeps a s) (i : Nat) :
    Keeps a (State.msiNoLink s i) := by
  unfold State.msiNoLink
  repeat' first
    | with_reducible assumption | split | with_reducible apply State.msiEnds_keeps
    | with_reducible apply State.raise_keeps

theorem State.msiGo_keeps {a s : State} (h : Keeps a s) (i : Fin 1024) :
    Keeps a (State.msiGo s i) := by
  unfold State.msiGo
  try dsimp only
  repeat' first
    | with_reducible assumption | split | with_reducible apply State.msiNoLink_keeps
    | with_reducible apply State.msiEnds_keeps | with_reducible apply State.putCtl_keeps
    | with_reducible apply State.dropWalked_keeps | with_reducible apply State.touch_keeps
    | with_reducible refine Keeps.flds ?_ rfl rfl rfl rfl rfl rfl rfl

theorem doMsi_keeps {a s : State} (h : Keeps a s) (i : Fin 1024) :
    Keeps a (doMsi i s) := by
  unfold doMsi
  try dsimp only
  repeat' first
    | with_reducible assumption | split | with_reducible apply State.msiGo_keeps
    | with_reducible apply State.updInst_keeps | with_reducible refine Keeps.flds ?_ rfl rfl rfl rfl rfl rfl rfl

theorem State.updAcs_keeps {a s : State} (h : Keeps a s) (f : PurAcc → PurAcc) :
    Keeps a (State.updAcs s f) := by
  unfold State.updAcs
  try dsimp only
  repeat' first
    | with_reducible assumption | split | with_reducible refine Keeps.flds ?_ rfl rfl rfl rfl rfl rfl rfl

theorem State.purGo_keeps {a s : State} (h : Keeps a s) :
    Keeps a (State.purGo s) := by
  unfold State.purGo
  try dsimp only
  repeat' first
    | with_reducible assumption | split | with_reducible apply State.updAcs_keeps
    | with_reducible apply State.putCtl_keeps | with_reducible apply State.dropWalked_keeps
    | with_reducible apply State.touch_keeps | with_reducible refine Keeps.flds ?_ rfl rfl rfl rfl rfl rfl rfl

theorem State.purBegin_keeps {a s : State} (h : Keeps a s) (write : Bool) (addr n : Nat) (data : List Byte) :
    Keeps a (State.purBegin s write addr n data) := by
  unfold State.purBegin
  try dsimp only
  repeat' first
    | with_reducible assumption | split | with_reducible apply State.purGo_keeps
    | with_reducible refine Keeps.flds ?_ rfl rfl rfl rfl rfl rfl rfl

theorem State.purEnds_keeps {a s : State} (h : Keeps a s) (st : Option Nat) :
    Keeps a (State.purEnds s st) := by
  unfold State.purEnds
  try dsimp only
  repeat' first
    | with_reducible assumption | split | with_reducible apply State.purGo_keeps
    | with_reducible apply State.updAcs_keeps | with_reducible refine Keeps.flds ?_ rfl rfl rfl rfl rfl rfl rfl

theorem State.purData_keeps {a s : State} (h : Keeps a s) (off : Nat) (d : List Byte) (ok : Bool) (st : Nat) (last : Bool) :
    Keeps a (State.purData s off d ok st last) := by
  unfold State.purData
  try dsimp only
  repeat' first
    | with_reducible assumption | split | with_reducible apply State.purEnds_keeps
    | with_reducible apply State.updAcs_keeps | with_reducible refine Keeps.flds ?_ rfl rfl rfl rfl rfl rfl rfl

theorem State.resume_keeps {a s : State} (h : Keeps a s) (x : XCtx) :
    Keeps a (State.resume s x) := by
  unfold State.resume
  repeat' first
    | with_reducible assumption | split | with_reducible apply State.purGo_keeps
    | with_reducible apply State.msiGo_keeps | with_reducible apply State.evtGo_keeps
    | with_reducible apply State.ovrGo_keeps | with_reducible apply State.linkGo_keeps
    | with_reducible apply State.recGo_keeps | with_reducible apply State.pollGo_keeps
    | with_reducible refine Keeps.flds ?_ rfl rfl rfl rfl rfl rfl rfl

theorem doChartRead_keeps {a s : State} (h : Keeps a s) (x : XCtx) :
    Keeps a (doChartRead x s) := by
  unfold doChartRead
  try dsimp only
  repeat' first
    | with_reducible assumption | split | with_reducible apply State.resume_keeps
    | with_reducible apply State.putCtl_keeps | with_reducible refine Keeps.flds ?_ rfl rfl rfl rfl rfl rfl rfl

theorem State.chartData_keeps {a s : State} (h : Keeps a s) (x : XCtx) (va : Nat) (e : Option Word) :
    Keeps a (State.chartData s x va e) := by
  unfold State.chartData
  repeat' first
    | with_reducible assumption | split | with_reducible apply State.resume_keeps
    | with_reducible apply State.walkData_keeps

/-! ### Span -/

theorem State.received_keeps {a s : State} (h : Keeps a s) (m : InMsg) (firm : Bool) :
    Keeps a (State.received s m firm) := by
  unfold State.received
  try dsimp only
  repeat' first
    | with_reducible assumption | split | with_reducible apply State.countFab_keeps
    | with_reducible apply State.raise_keeps

theorem State.putTx_keeps {a s : State} (h : Keeps a s) (f : Nat) (t : TxMsg) :
    Keeps a (State.putTx s f t) := by
  unfold State.putTx
  try dsimp only
  repeat' first
    | with_reducible assumption | split | with_reducible apply State.updFab_keeps
    | with_reducible refine Keeps.flds ?_ rfl rfl rfl rfl rfl rfl rfl

theorem State.serve_keeps {a s : State} (h : Keeps a s) (m : InMsg) (write : Bool) :
    Keeps a (State.serve s m write) := by
  unfold State.serve
  try dsimp only
  repeat' first
    | with_reducible assumption | split | with_reducible apply State.received_keeps
    | with_reducible refine Keeps.flds ?_ rfl rfl rfl rfl rfl rfl rfl

theorem State.inRequest_keeps {a s : State} (h : Keeps a s) (m : InMsg) (write : Bool) :
    Keeps a (State.inRequest s m write) := by
  unfold State.inRequest
  try dsimp only
  repeat' first
    | with_reducible assumption | split | with_reducible apply State.serve_keeps
    | with_reducible apply State.putTx_keeps | with_reducible apply State.received_keeps
    | with_reducible apply State.raise_keeps

theorem doInbResponse_keeps {a s : State} (h : Keeps a s) (id : Nat) :
    Keeps a (doInbResponse id s) := by
  unfold doInbResponse
  try dsimp only
  repeat' first
    | with_reducible assumption | split | with_reducible apply State.putTx_keeps
    | with_reducible refine Keeps.flds ?_ rfl rfl rfl rfl rfl rfl rfl

theorem State.updInb_keeps {a s : State} (h : Keeps a s) (id : Nat) (f : Inb → Inb) :
    Keeps a (State.updInb s id f) := by
  unfold State.updInb
  try dsimp only
  repeat' first
    | with_reducible assumption | split | with_reducible refine Keeps.flds ?_ rfl rfl rfl rfl rfl rfl rfl

theorem State.spanFails_keeps {a s : State} (h : Keeps a s) (l : FSlot) (code stat source : Nat) :
    Keeps a (State.spanFails s l code stat source) := by
  unfold State.spanFails
  repeat' first
    | with_reducible assumption | split | with_reducible apply State.msiEnds_keeps
    | with_reducible apply State.fragWriteEnds_keeps | with_reducible apply State.fragReadEnds_keeps
    | with_reducible apply State.fragDstFails_keeps | with_reducible apply State.fragSrcFails_keeps
    | with_reducible apply State.fetchFails_keeps | with_reducible apply State.raiseAt_keeps
    | with_reducible refine Keeps.flds ?_ rfl rfl rfl rfl rfl rfl rfl

theorem State.spanOk_keeps {a s : State} (h : Keeps a s) (l : FSlot) (data : List Byte) (lines bad : List Nat) :
    Keeps a (State.spanOk s l data lines bad) := by
  unfold State.spanOk
  try dsimp only
  repeat' first
    | with_reducible assumption | split | with_reducible apply State.msiEnds_keeps
    | with_reducible apply State.fragWriteEnds_keeps | with_reducible apply State.fragReadEnds_keeps
    | with_reducible apply State.placeBytes_keeps | with_reducible apply State.fetchData_keeps
    | with_reducible apply State.fetchFails_keeps | with_reducible refine Keeps.flds ?_ rfl rfl rfl rfl rfl rfl rfl

theorem State.freeSpan_keeps {a s : State} (h : Keeps a s) (f idx : Nat) :
    Keeps a (State.freeSpan s f idx) := by
  unfold State.freeSpan
  try dsimp only
  repeat' first
    | with_reducible assumption | split | with_reducible apply State.updFab_keeps
    | with_reducible refine Keeps.flds ?_ rfl rfl rfl rfl rfl rfl rfl

theorem State.fabCount_keeps {a s : State} (h : Keeps a s) (p : Nat) (g : FPort → FPort) :
    Keeps a (State.fabCount s p g) := by
  unfold State.fabCount
  repeat' first
    | with_reducible assumption | split | intro _ | with_reducible apply State.unlessWritten_keeps
    | with_reducible apply State.updFab_keeps

theorem State.spanEnds_keeps {a s : State} (h : Keeps a s) (m : InMsg) (l : FSlot) :
    Keeps a (State.spanEnds s m l) := by
  unfold State.spanEnds
  try dsimp only
  repeat' first
    | with_reducible assumption | split | with_reducible apply State.fabCount_keeps
    | with_reducible apply State.freeSpan_keeps | with_reducible apply State.spanOk_keeps
    | with_reducible apply State.spanFails_keeps | with_reducible apply State.raiseAt_keeps
    | with_reducible apply State.updFab_keeps | with_reducible refine Keeps.flds ?_ rfl rfl rfl rfl rfl rfl rfl

theorem State.spanLate_keeps {a s : State} (h : Keeps a s) (l : FSlot) :
    Keeps a (State.spanLate s l) := by
  unfold State.spanLate
  repeat' first
    | with_reducible assumption | split | with_reducible apply State.raiseAt_keeps

theorem State.inResponse_keeps {a s : State} (h : Keeps a s) (m : InMsg) (write : Bool) :
    Keeps a (State.inResponse s m write) := by
  unfold State.inResponse
  try dsimp only
  repeat' first
    | with_reducible assumption | split | with_reducible apply State.spanLate_keeps
    | with_reducible apply State.spanEnds_keeps | with_reducible apply State.freeSpan_keeps
    | with_reducible apply State.received_keeps | with_reducible apply State.raise_keeps
    | with_reducible refine Keeps.flds ?_ rfl rfl rfl rfl rfl rfl rfl

theorem doStray_keeps {a s : State} (h : Keeps a s) (m : InMsg) :
    Keeps a (doStray m s) := by
  unfold doStray
  repeat' first
    | with_reducible assumption | split | with_reducible apply State.received_keeps
    | with_reducible apply State.raise_keeps

theorem doReissue_keeps {a s : State} (h : Keeps a s) (f idx : Nat) :
    Keeps a (doReissue f idx s) := by
  unfold doReissue
  try dsimp only
  repeat' first
    | with_reducible assumption | split | with_reducible apply State.putTx_keeps
    | with_reducible apply State.updFab_keeps | with_reducible refine Keeps.flds ?_ rfl rfl rfl rfl rfl rfl rfl

theorem State.spanTimeout_keeps {a s : State} (h : Keeps a s) (f : Nat) (l : FSlot) :
    Keeps a (State.spanTimeout s f l) := by
  unfold State.spanTimeout
  try dsimp only
  repeat' first
    | with_reducible assumption | split | with_reducible apply State.fabCount_keeps
    | with_reducible apply State.freeSpan_keeps | with_reducible apply State.spanFails_keeps
    | with_reducible apply State.raiseAt_keeps | with_reducible apply State.raise_keeps
    | with_reducible apply State.updFab_keeps | with_reducible refine Keeps.flds ?_ rfl rfl rfl rfl rfl rfl rfl

theorem doRemoteTimeout_keeps {a s : State} (h : Keeps a s) :
    Keeps a (doRemoteTimeout s) := by
  unfold doRemoteTimeout
  try dsimp only
  repeat' first
    | with_reducible assumption | split | intro _ | with_reducible refine Keeps.foldl ?_ (fun _ _ _ => ?_)
    | with_reducible apply State.spanTimeout_keeps

theorem State.dropCtl_keeps {a s : State} (h : Keeps a s) (r : CtlReq) : Keeps a (State.dropCtl s r) := by
  unfold State.dropCtl
  exact Keeps.flds (h.ports _ (tabMap_wf · _)) rfl rfl rfl rfl rfl rfl rfl

theorem State.ctlNoLink_keeps {a s : State} (h : Keeps a s) (r : CtlReq) :
    Keeps a (State.ctlNoLink s r) := by
  unfold State.ctlNoLink
  repeat' first
    | with_reducible assumption | split | with_reducible apply State.dropCtl_keeps
    | with_reducible apply State.msiNoLink_keeps | with_reducible apply State.linkNoLink_keeps
    | with_reducible refine Keeps.flds ?_ rfl rfl rfl rfl rfl rfl rfl

theorem doLinkup_keeps {a s : State} (h : Keeps a s) (f : Nat) (up : Bool) :
    Keeps a (doLinkup f up s) := by
  unfold doLinkup
  try dsimp only
  repeat' first
    | with_reducible assumption | split | intro _ | with_reducible refine Keeps.foldl ?_ (fun _ _ _ => ?_)
    | with_reducible apply State.ctlNoLink_keeps | with_reducible apply State.level_keeps
    | with_reducible apply State.updFab_keeps | with_reducible refine Keeps.flds ?_ rfl rfl rfl rfl rfl rfl rfl

/-! ### Logbook -/

theorem State.updLine_keeps {a s : State} (h : Keeps a s) (i line base : Nat) (f : LogLine → LogLine) :
    Keeps a (State.updLine s i line base f) := by
  unfold State.updLine
  try dsimp only
  repeat' first
    | with_reducible assumption | split | with_reducible refine Keeps.flds ?_ rfl rfl rfl rfl rfl rfl rfl

theorem State.queueLines_keeps {a s : State} (h : Keeps a s) (which : LogLine → Bool) :
    Keeps a (State.queueLines s which) := by
  unfold State.queueLines
  try dsimp only
  repeat' first
    | with_reducible assumption | split | with_reducible refine Keeps.flds ?_ rfl rfl rfl rfl rfl rfl rfl

theorem State.logCtl_keeps {a s : State} (h : Keeps a s) (owner : Owner) (write : Bool) (addr : Nat) (data : List Byte) :
    Keeps a (State.logCtl s owner write addr data) := by
  unfold State.logCtl
  repeat' first
    | with_reducible assumption | split | with_reducible apply State.putCtl_keeps

theorem doLogFlush_keeps {a s : State} (h : Keeps a s) :
    Keeps a (doLogFlush s) := by
  unfold doLogFlush
  try dsimp only
  repeat' first
    | with_reducible assumption | split | with_reducible apply State.logCtl_keeps
    | with_reducible apply State.updLine_keeps | with_reducible refine Keeps.flds ?_ rfl rfl rfl rfl rfl rfl rfl

theorem State.swapAsked_keeps {a s : State} (h : Keeps a s) :
    Keeps a (State.swapAsked s) := by
  unfold State.swapAsked
  try dsimp only
  repeat' first
    | with_reducible assumption | split | with_reducible apply State.noteSet_keeps
    | with_reducible refine Keeps.flds ?_ rfl rfl rfl rfl rfl rfl rfl

theorem State.swapEnds_keeps {a s : State} (h : Keeps a s) :
    Keeps a (State.swapEnds s) := by
  unfold State.swapEnds
  try dsimp only
  repeat' first
    | with_reducible assumption | split | with_reducible apply State.swapAsked_keeps
    | with_reducible refine Keeps.flds ?_ rfl rfl rfl rfl rfl rfl rfl

theorem State.logFails_keeps {a s : State} (h : Keeps a s) (i line base st : Nat) :
    Keeps a (State.logFails s i line base st) := by
  unfold State.logFails
  try dsimp only
  repeat' first
    | with_reducible assumption | split | with_reducible apply State.swapEnds_keeps
    | with_reducible apply State.updLine_keeps | with_reducible apply State.raise_keeps
    | with_reducible apply State.noteSet_keeps | with_reducible refine Keeps.flds ?_ rfl rfl rfl rfl rfl rfl rfl

theorem State.logRead_keeps {a s : State} (h : Keeps a s) (i line base st : Nat) (d : Option (List Byte)) :
    Keeps a (State.logRead s i line base st d) := by
  unfold State.logRead
  try dsimp only
  repeat' first
    | with_reducible assumption | split | with_reducible apply State.logFails_keeps
    | with_reducible apply State.logCtl_keeps | with_reducible apply State.updLine_keeps
    | with_reducible refine Keeps.flds ?_ rfl rfl rfl rfl rfl rfl rfl

theorem State.logWritten_keeps {a s : State} (h : Keeps a s) (i line base st : Nat) :
    Keeps a (State.logWritten s i line base st) := by
  unfold State.logWritten
  try dsimp only
  repeat' first
    | with_reducible assumption | split | with_reducible apply State.logFails_keeps
    | with_reducible apply State.updLine_keeps | with_reducible refine Keeps.flds ?_ rfl rfl rfl rfl rfl rfl rfl

theorem State.logOff_keeps {a s : State} (h : Keeps a s) (i : Nat) :
    Keeps a (State.logOff s i) := by
  unfold State.logOff
  try dsimp only
  repeat' first
    | with_reducible assumption | split | with_reducible apply State.updInst_keeps
    | with_reducible refine Keeps.flds ?_ rfl rfl rfl rfl rfl rfl rfl

theorem doLogSwap_keeps {a s : State} (h : Keeps a s) (v : Word) :
    Keeps a (doLogSwap v s) := by
  unfold doLogSwap
  try dsimp only
  repeat' first
    | with_reducible assumption | split | with_reducible apply State.swapAsked_keeps
    | with_reducible apply State.noteWrite_keeps | with_reducible refine Keeps.flds ?_ rfl rfl rfl rfl rfl rfl rfl

theorem State.swapBell_keeps {a s : State} (h : Keeps a s) :
    Keeps a (State.swapBell s) := by
  unfold State.swapBell
  try dsimp only
  repeat' first
    | with_reducible assumption | split | with_reducible apply State.updInst_keeps
    | with_reducible refine Keeps.flds ?_ rfl rfl rfl rfl rfl rfl rfl

theorem doSwapDone_keeps {a s : State} (h : Keeps a s) :
    Keeps a (doSwapDone s) := by
  unfold doSwapDone
  repeat' first
    | with_reducible assumption | split | with_reducible apply State.swapEnds_keeps
    | with_reducible refine Keeps.flds ?_ rfl rfl rfl rfl rfl rfl rfl

/-! ### Arbiter -/

theorem State.admitFirst_keeps {a s : State} (h : Keeps a s) (id : Nat) :
    Keeps a (State.admitFirst s id) := by
  unfold State.admitFirst
  repeat' first
    | with_reducible assumption | split | with_reducible apply State.admitFrag_keeps
    | with_reducible refine Keeps.flds ?_ rfl rfl rfl rfl rfl rfl rfl

theorem State.purIssued_keeps {a s : State} (h : Keeps a s) :
    Keeps a (State.purIssued s) := by
  unfold State.purIssued
  try dsimp only
  repeat' first
    | with_reducible assumption | split | with_reducible apply State.purGo_keeps
    | with_reducible apply State.updAcs_keeps | with_reducible refine Keeps.flds ?_ rfl rfl rfl rfl rfl rfl rfl

theorem State.grantCtl_keeps {a s : State} (h : Keeps a s) (c : Nat) (r : CtlReq) :
    Keeps a (State.grantCtl s c r) := by
  unfold State.grantCtl
  try dsimp only
  repeat' first
    | with_reducible assumption | split | with_reducible apply State.purIssued_keeps
    | with_reducible apply State.ovrIssued_keeps | with_reducible apply State.charge_keeps
    | with_reducible apply State.issueSpan_keeps | with_reducible apply State.issueWrite_keeps
    | with_reducible apply State.issueRead_keeps | with_reducible apply State.logAccess_keeps
    | with_reducible apply State.updAcc_keeps | with_reducible apply State.updPort_keeps
    | with_reducible refine Keeps.flds ?_ rfl rfl rfl rfl rfl rfl rfl

theorem State.grantInb_keeps {a s : State} (h : Keeps a s) (id : Nat) :
    Keeps a (State.grantInb s id) := by
  unfold State.grantInb
  try dsimp only
  repeat' first
    | with_reducible assumption | split | with_reducible apply State.updInb_keeps
    | with_reducible apply State.issueWrite_keeps | with_reducible apply State.issueRead_keeps
    | with_reducible apply State.updPort_keeps | with_reducible refine Keeps.flds ?_ rfl rfl rfl rfl rfl rfl rfl

theorem State.grantTx_keeps {a s : State} (h : Keeps a s) (f : Nat) (t : TxMsg) :
    Keeps a (State.grantTx s f t) := by
  unfold State.grantTx
  try dsimp only
  repeat' first
    | with_reducible assumption | split | with_reducible apply State.countFab_keeps
    | with_reducible apply State.updFab_keeps | with_reducible refine Keeps.flds ?_ rfl rfl rfl rfl rfl rfl rfl

theorem State.setRr_keeps {a s : State} (h : Keeps a s) (p : ArbPort) (o : Offer) :
    Keeps a (State.setRr s p o) := by
  unfold State.setRr
  try dsimp only
  repeat' first
    | with_reducible assumption | split | with_reducible apply State.updFab_keeps
    | with_reducible apply State.updPort_keeps | with_reducible refine Keeps.flds ?_ rfl rfl rfl rfl rfl rfl rfl

theorem State.countWaits_keeps {a s : State} (h : Keeps a s) :
    Keeps a (State.countWaits s) := by
  unfold State.countWaits
  try dsimp only
  repeat' first
    | with_reducible assumption | split | intro _ | with_reducible refine Keeps.foldl ?_ (fun _ _ _ => ?_)
    | with_reducible apply State.logWaits_keeps | with_reducible apply State.updFrag_keeps
    | with_reducible refine Keeps.flds ?_ rfl rfl rfl rfl rfl rfl rfl

theorem State.countCtlWaits_keeps {a s : State} (h : Keeps a s) (c : Nat) :
    Keeps a (State.countCtlWaits s c) := by
  unfold State.countCtlWaits
  try dsimp only
  repeat' first
    | with_reducible assumption | split | intro _ | with_reducible refine Keeps.foldl ?_ (fun _ _ _ => ?_)
    | with_reducible apply State.logWaits_keeps | with_reducible apply State.updPort_keeps
    | with_reducible refine Keeps.flds ?_ rfl rfl rfl rfl rfl rfl rfl

theorem State.countAllWaits_keeps {a s : State} (h : Keeps a s) :
    Keeps a (State.countAllWaits s) := by
  unfold State.countAllWaits
  repeat' first
    | with_reducible assumption | split | intro _ | with_reducible refine Keeps.foldl ?_ (fun _ _ _ => ?_)
    | with_reducible apply State.countCtlWaits_keeps | with_reducible apply State.countWaits_keeps

theorem State.grant_keeps {a s : State} (h : Keeps a s) (p : ArbPort) (par : List (Nat × OutPar)) (o : Offer) :
    Keeps a (State.grant s p par o) := by
  unfold State.grant
  try dsimp only
  repeat' first
    | with_reducible assumption | split | with_reducible apply State.setRr_keeps
    | with_reducible apply State.grantTx_keeps | with_reducible apply State.grantInb_keeps
    | with_reducible apply State.grantCtl_keeps | with_reducible apply State.admitFirst_keeps
    | with_reducible apply State.fragWrite_keeps | with_reducible apply State.fragRead_keeps
    | with_reducible refine Keeps.flds ?_ rfl rfl rfl rfl rfl rfl rfl

theorem doGrant_keeps {a s : State} (h : Keeps a s) (p : ArbPort) (par : List (Nat × OutPar)) :
    Keeps a (doGrant p par s) := by
  unfold doGrant
  try dsimp only
  repeat' first
    | with_reducible assumption | split | with_reducible apply State.grant_keeps
    | with_reducible apply State.countAllWaits_keeps | with_reducible refine Keeps.flds ?_ rfl rfl rfl rfl rfl rfl rfl

theorem State.tryGrant_keeps {a s : State} (h : Keeps a s) (f : Frag) (par : List (Nat × OutPar)) :
    Keeps a (State.tryGrant s f par) := by
  unfold State.tryGrant
  repeat' first
    | with_reducible assumption | split | with_reducible apply State.grant_keeps
    | with_reducible refine Keeps.flds ?_ rfl rfl rfl rfl rfl rfl rfl

theorem State.admitNow_keeps {a s : State} (h : Keeps a s) (f : Frag) (par : List (Nat × OutPar)) :
    Keeps a (State.admitNow s f par) := by
  unfold State.admitNow
  repeat' first
    | with_reducible assumption | split | with_reducible apply State.tryGrant_keeps
    | with_reducible apply State.fragNoLink_keeps | with_reducible apply State.fragXfail_keeps
    | with_reducible apply State.giveBack_keeps | with_reducible refine Keeps.flds ?_ rfl rfl rfl rfl rfl rfl rfl

theorem doAdmission_keeps {a s : State} (h : Keeps a s) (id : Nat) :
    Keeps a (doAdmission id s) := by
  unfold doAdmission
  try dsimp only
  repeat' first
    | with_reducible assumption | split | with_reducible apply State.admitNow_keeps
    | with_reducible apply State.countAllWaits_keeps | with_reducible refine Keeps.flds ?_ rfl rfl rfl rfl rfl rfl rfl

theorem doWriteStart_keeps {a s : State} (h : Keeps a s) (id : Nat) (par : List (Nat × OutPar)) :
    Keeps a (doWriteStart id par s) := by
  unfold doWriteStart
  try dsimp only
  repeat' first
    | with_reducible assumption | split | with_reducible apply State.admitNow_keeps
    | with_reducible apply State.tryGrant_keeps | with_reducible apply State.countAllWaits_keeps
    | with_reducible refine Keeps.flds ?_ rfl rfl rfl rfl rfl rfl rfl

theorem State.deliver_keeps {a s : State} (h : Keeps a s) (r : RdOut) (b : RBeat) (last : Bool) :
    Keeps a (State.deliver s r b last) := by
  unfold State.deliver
  try dsimp only
  repeat' first
    | with_reducible assumption | split | with_reducible apply State.logRead_keeps
    | with_reducible apply State.updInb_keeps | with_reducible apply State.chartData_keeps
    | with_reducible apply State.purData_keeps | with_reducible apply State.recData_keeps
    | with_reducible apply State.recFails_keeps | with_reducible apply State.pollData_keeps
    | with_reducible apply State.fragReadEnds_keeps | with_reducible apply State.fragSrcFails_keeps
    | with_reducible apply State.placeBytes_keeps | with_reducible apply State.fetchData_keeps
    | with_reducible apply State.fetchFails_keeps | with_reducible apply State.raiseAt_keeps
    | with_reducible apply State.updFrag_keeps | with_reducible refine Keeps.flds ?_ rfl rfl rfl rfl rfl rfl rfl

theorem State.beatCounts_keeps {a s : State} (h : Keeps a s) (c : Nat) (b : RBeat) :
    Keeps a (State.beatCounts s c b) := by
  unfold State.beatCounts
  try dsimp only
  repeat' first
    | with_reducible assumption | split | intro _ | with_reducible apply State.unlessWritten_keeps
    | with_reducible apply State.updPort_keeps | with_reducible refine Keeps.flds ?_ rfl rfl rfl rfl rfl rfl rfl

theorem State.beatFaults_keeps {a s : State} (h : Keeps a s) (c : Nat) (b : RBeat) (r : RdOut) :
    Keeps a (State.beatFaults s c b r) := by
  unfold State.beatFaults
  try dsimp only
  repeat' first
    | with_reducible assumption | split | with_reducible apply State.raiseAt_keeps
    | with_reducible apply State.raise_keeps

theorem State.beatSlot_keeps {a s : State} (h : Keeps a s) (c : Nat) (n : Nat) (last : Bool) (r : RdOut) :
    Keeps a (State.beatSlot s c n last r) := by
  unfold State.beatSlot
  try dsimp only
  repeat' first
    | with_reducible assumption | split | with_reducible apply State.updPort_keeps
    | with_reducible refine Keeps.flds ?_ rfl rfl rfl rfl rfl rfl rfl

theorem State.beatSeen_keeps {a s : State} (h : Keeps a s) (c : Nat) (b : RBeat) :
    Keeps a (State.beatSeen s c b) := by
  unfold State.beatSeen
  try dsimp only
  repeat' first
    | with_reducible assumption | split | with_reducible apply State.beatCounts_keeps
    | with_reducible apply State.updAcc_keeps | with_reducible refine Keeps.flds ?_ rfl rfl rfl rfl rfl rfl rfl

theorem State.beatTaken_keeps {a s : State} (h : Keeps a s) (c : Nat) (n : Nat) (r : RdOut) :
    Keeps a (State.beatTaken s c n r) := by
  unfold State.beatTaken
  try dsimp only
  repeat' first
    | with_reducible assumption | split | with_reducible apply State.beatSlot_keeps
    | with_reducible apply State.updAcc_keeps | with_reducible refine Keeps.flds ?_ rfl rfl rfl rfl rfl rfl rfl

theorem State.beat_keeps {a s : State} (h : Keeps a s) (c : Nat) (b : RBeat) :
    Keeps a (State.beat s c b) := by
  unfold State.beat
  try dsimp only
  repeat' first
    | with_reducible assumption | split | with_reducible apply State.beatTaken_keeps
    | with_reducible apply State.beatSeen_keeps | with_reducible apply State.beatSlot_keeps
    | with_reducible apply State.beatFaults_keeps | with_reducible apply State.deliver_keeps
    | with_reducible apply State.raise_keeps | with_reducible apply State.updPort_keeps
    | with_reducible refine Keeps.flds ?_ rfl rfl rfl rfl rfl rfl rfl

theorem doWriteData_keeps {a s : State} (h : Keeps a s) (c : Nat) (par : OutPar) :
    Keeps a (doWriteData c par s) := by
  unfold doWriteData
  try dsimp only
  repeat' first
    | with_reducible assumption | split | with_reducible apply State.outParity_keeps
    | with_reducible apply State.writesOver_keeps | with_reducible apply State.updFrag_keeps
    | with_reducible apply State.updAcc_keeps | with_reducible apply State.updPort_keeps
    | with_reducible refine Keeps.flds ?_ rfl rfl rfl rfl rfl rfl rfl

theorem State.acked_keeps {a s : State} (h : Keeps a s) (w : WrOut) (st : Nat) :
    Keeps a (State.acked s w st) := by
  unfold State.acked
  try dsimp only
  repeat' first
    | with_reducible assumption | split | with_reducible apply State.logWritten_keeps
    | with_reducible apply State.updInb_keeps | with_reducible apply State.purEnds_keeps
    | with_reducible apply State.msiEnds_keeps | with_reducible apply State.ovrDone_keeps
    | with_reducible apply State.fragWriteEnds_keeps | with_reducible apply State.fragDstFails_keeps
    | with_reducible apply State.recordFails_keeps | with_reducible apply State.recordDone_keeps
    | with_reducible refine Keeps.flds ?_ rfl rfl rfl rfl rfl rfl rfl

theorem doWriteAck_keeps {a s : State} (h : Keeps a s) (c : Nat) (tag : Tag) (stat : BitVec 2) :
    Keeps a (doWriteAck c tag stat s) := by
  unfold doWriteAck
  try dsimp only
  repeat' first
    | with_reducible assumption | split | intro _ | with_reducible apply State.acked_keeps
    | with_reducible apply State.raise_keeps | with_reducible apply State.unlessWritten_keeps
    | with_reducible apply State.updPort_keeps | with_reducible refine Keeps.flds ?_ rfl rfl rfl rfl rfl rfl rfl

/-! ### Instance -/

theorem State.stopRequests_keeps {a s : State} (h : Keeps a s) (i : Nat) (reset : Bool) :
    Keeps a (State.stopRequests s i reset) :=
  Keeps.flds (h.ports _ (tabMap_wf · _)) rfl rfl rfl rfl rfl rfl rfl

theorem State.disownReads_keeps {a s : State} (h : Keeps a s) (i : Nat) (reset : Bool) (lost : List Nat) :
    Keeps a (State.disownReads s i reset lost) :=
  (h.ports _ (tabMap_wf · _)).fabs _ (tabMap_wf · _)

theorem State.burstCut_keeps {a s : State} (h : Keeps a s) (f : Frag) :
    Keeps a (State.burstCut s f) := by
  unfold State.burstCut
  try dsimp only
  repeat' first
    | with_reducible assumption | split | with_reducible apply State.updChan_keeps
    | with_reducible refine Keeps.flds ?_ rfl rfl rfl rfl rfl rfl rfl

theorem State.discard_keeps {a s : State} (h : Keeps a s) (i : Nat) (reset : Bool) :
    Keeps a (State.discard s i reset) := by
  unfold State.discard
  try dsimp only
  repeat' first
    | with_reducible assumption | split | intro _ | with_reducible refine Keeps.foldl ?_ (fun _ _ _ => ?_)
    | with_reducible apply State.burstCut_keeps | with_reducible apply State.disownReads_keeps
    | with_reducible apply State.stopRequests_keeps | with_reducible apply State.dropWalks_keeps
    | with_reducible refine Keeps.flds ?_ rfl rfl rfl rfl rfl rfl rfl

theorem State.cutsOver_keeps {a s : State} (h : Keeps a s) (i : Nat) :
    Keeps a (State.cutsOver s i) := by
  unfold State.cutsOver
  repeat' first
    | with_reducible assumption | split | intro _ | with_reducible refine Keeps.foldl ?_ (fun _ _ _ => ?_)
    | with_reducible apply State.writesOver_keeps

theorem State.stopEvents_keeps {a s : State} (h : Keeps a s) (i : Nat) :
    Keeps a (State.stopEvents s i) := by
  unfold State.stopEvents
  try dsimp only
  repeat' first
    | with_reducible assumption | split | with_reducible apply State.updInst_keeps
    | with_reducible refine Keeps.flds ?_ rfl rfl rfl rfl rfl rfl rfl

theorem State.stopWork_keeps {a s : State} (h : Keeps a s) (i : Nat) (reset : Bool) :
    Keeps a (State.stopWork s i reset) := by
  unfold State.stopWork
  try dsimp only
  repeat' first
    | with_reducible assumption | split | intro _ | with_reducible refine Keeps.foldl ?_ (fun _ _ _ => ?_)
    | with_reducible apply State.stopEvents_keeps | with_reducible apply State.cutsOver_keeps
    | with_reducible apply State.discard_keeps | with_reducible apply State.settleBegins_keeps
    | with_reducible apply State.chContain_keeps | with_reducible apply State.chHalt_keeps
    | with_reducible apply State.updQueue_keeps | with_reducible apply State.updInst_keeps
    | with_reducible refine Keeps.flds ?_ rfl rfl rfl rfl rfl rfl rfl

theorem State.beginReset_keeps {a s : State} (h : Keeps a s) (i : Nat) (removing : Bool) :
    Keeps a (State.beginReset s i removing) := by
  unfold State.beginReset
  try dsimp only
  repeat' first
    | with_reducible assumption | split | with_reducible apply State.stopWork_keeps
    | with_reducible apply State.updInst_keeps | with_reducible refine Keeps.flds ?_ rfl rfl rfl rfl rfl rfl rfl

theorem State.contain_keeps {a s : State} (h : Keeps a s) (i : Nat) :
    Keeps a (State.contain s i) := by
  unfold State.contain
  try dsimp only
  repeat' first
    | with_reducible assumption | split | with_reducible apply State.stopWork_keeps
    | with_reducible apply State.updInst_keeps | with_reducible refine Keeps.flds ?_ rfl rfl rfl rfl rfl rfl rfl

theorem State.newGen_keeps {a s : State} (h : Keeps a s) (i : Nat) : Keeps a (State.newGen s i) := by
  unfold State.newGen
  refine State.updInst_keeps (Keeps.foldl (Keeps.foldl ?_ fun _ _ g => State.updQueue_keeps g _ _)
    fun _ _ g => State.updChan_keeps g _ _) _ _
  exact Keeps.flds ((h.ports _ (tabMap_wf · _)).fabs _ (tabMap_wf · _)) rfl rfl rfl rfl rfl rfl rfl

theorem doSettleEnd_keeps {a s : State} (h : Keeps a s) (i : Nat) :
    Keeps a (doSettleEnd i s) := by
  unfold doSettleEnd
  try dsimp only
  repeat' first
    | with_reducible assumption | split | with_reducible apply State.newGen_keeps
    | with_reducible apply State.updInst_keeps | with_reducible refine Keeps.flds ?_ rfl rfl rfl rfl rfl rfl rfl

theorem doSettleTmo_keeps {a s : State} (h : Keeps a s) (c slot : Nat) :
    Keeps a (doSettleTmo c slot s) := by
  unfold doSettleTmo
  try dsimp only
  repeat' first
    | with_reducible assumption | split | with_reducible apply State.ovrDone_keeps
    | with_reducible apply State.fragWriteEnds_keeps | with_reducible apply State.raise_keeps
    | with_reducible apply State.updPort_keeps | with_reducible refine Keeps.flds ?_ rfl rfl rfl rfl rfl rfl rfl

theorem doContained_keeps {a s : State} (h : Keeps a s) (i : Nat) :
    Keeps a (doContained i s) := by
  unfold doContained
  try dsimp only
  repeat' first
    | with_reducible assumption | split | with_reducible apply State.updInst_keeps
    | with_reducible refine Keeps.flds ?_ rfl rfl rfl rfl rfl rfl rfl

theorem State.ccStart_keeps {a s : State} (h : Keeps a s) : Keeps a (State.ccStart s) := by
  unfold State.ccStart
  dsimp only
  exact Keeps.flds (h.ports _ (tabMap_wf · _)) rfl rfl rfl rfl rfl rfl rfl

theorem State.ccInvalidate_keeps {a s : State} (h : Keeps a s) (v : Word) :
    Keeps a (State.ccInvalidate s v) := by
  unfold State.ccInvalidate
  try dsimp only
  repeat' first
    | with_reducible assumption | split | intro _ | with_reducible apply State.ccStart_keeps
    | with_reducible apply State.steer_keeps | with_reducible apply State.noteWrite_keeps
    | with_reducible refine Keeps.flds ?_ rfl rfl rfl rfl rfl rfl rfl

theorem doCcDone_keeps {a s : State} (h : Keeps a s) :
    Keeps a (doCcDone s) := by
  unfold doCcDone
  try dsimp only
  repeat' first
    | with_reducible assumption | split | with_reducible apply State.ccStart_keeps
    | with_reducible refine Keeps.flds ?_ rfl rfl rfl rfl rfl rfl rfl

end Sys2Proof.Machine
end

