-- ==== Sys2Proof/Laws/KeepCommand.lean ====
section
/-! SUPPORT. What each operation keeps: the fault collector and the Purser. -/

namespace Sys2Proof.Machine

open Sys2Proof

/-! ### Fault -/

theorem State.stopUnit_keeps {a s : State} (h : Keeps a s) (d : Detection) :
    Keeps a (State.stopUnit s d) := by
  unfold State.stopUnit
  try dsimp only
  repeat' first
    | with_reducible assumption | split | with_reducible apply State.writeEnable_keeps
    | with_reducible apply State.haltEngine_keeps | with_reducible apply State.chStop_keeps
    | with_reducible apply State.haltPurser_keeps | with_reducible refine Keeps.flds ?_ rfl rfl rfl rfl rfl rfl rfl

theorem State.act_keeps {a s : State} (h : Keeps a s) (d : Detection) (cls : Nat) :
    Keeps a (State.act s d cls) := by
  have hp := State.haltPurser_keeps h
  have he : s.haltPurser.pwr = s.pwr := by unfold State.haltPurser State.dropPur; split <;> rfl
  unfold State.act
  repeat' first
    | with_reducible assumption | split | with_reducible apply State.contain_keeps
    | with_reducible apply State.stopUnit_keeps
    | exact hp.pwr _ (fun _ => rfl) (he ▸ id) | exact hp.pwr _ (he ▸ id) (fun _ => rfl)

theorem State.viewCount_keeps {a s : State} (h : Keeps a s) (i : Nat) (d : Detection) :
    Keeps a (State.viewCount s i d) := by
  unfold State.viewCount
  try dsimp only
  repeat' first
    | with_reducible assumption | split | with_reducible apply State.fvCount_keeps
    | with_reducible refine Keeps.flds ?_ rfl rfl rfl rfl rfl rfl rfl

theorem State.view_keeps {a s : State} (h : Keeps a s) (d : Detection) (cls : Nat) :
    Keeps a (State.view s d cls) := by
  unfold State.view
  try dsimp only
  repeat' first
    | with_reducible assumption | split | with_reducible apply State.viewCount_keeps
    | with_reducible apply State.updInst_keeps | with_reducible refine Keeps.flds ?_ rfl rfl rfl rfl rfl rfl rfl

theorem State.notice_keeps {a s : State} (h : Keeps a s) (i code : Nat) (load : List Byte) :
    Keeps a (State.notice s i code load) := by
  unfold State.notice
  repeat' first
    | with_reducible assumption | split | with_reducible apply State.post_keeps

theorem State.openRecord_keeps {a s : State} (h : Keeps a s) (r : Report) :
    Keeps a (State.openRecord s r) := by
  unfold State.openRecord
  try dsimp only
  repeat' first
    | with_reducible assumption | split | with_reducible refine Keeps.flds ?_ rfl rfl rfl rfl rfl rfl rfl

theorem State.afterClock_keeps {a s : State} (h : Keeps a s) (ds : List Detection) :
    Keeps a (State.afterClock s ds) := by
  unfold State.afterClock
  try dsimp only
  repeat' first
    | with_reducible assumption | split | intro _ | with_reducible refine Keeps.foldl ?_ (fun _ _ _ => ?_)
    | with_reducible apply State.updSrc_keeps | with_reducible refine Keeps.flds ?_ rfl rfl rfl rfl rfl rfl rfl

theorem State.tally_keeps {a s : State} (h : Keeps a s) (r : Report) : Keeps a (State.tally s r) := by
  unfold State.tally
  have h1 := State.noteSet_keeps (State.updSrc_keeps h r.d.source (fun x => { x with
    count := satAdd 16 x.count 1, last := r.cls, latched := true, injd := r.inj && !r.real, live := true }) id)
    (srcOff r.d.source) 2
  revert h1
  dsimp only
  generalize State.noteSet _ _ _ = s1
  intro h1
  have h2 : Keeps a (if r.cls = 1 then s1.unlessWritten 0x4830 (fun s => { s with flt := { s.flt with
      corr := satAdd 32 s.flt.corr 1 } }) else s1) := by
    split
    · exact State.unlessWritten_keeps h1 _ _ (Keeps.flds h1 rfl rfl rfl rfl rfl rfl rfl)
    · exact h1
  revert h2
  dsimp only
  generalize (if r.cls = 1 then _ else s1) = s2
  intro h2
  split
  · refine State.wakeBy_keeps (State.noteSet_keeps ?_ _ _) _
    exact Keeps.flds h2 rfl rfl rfl rfl rfl rfl rfl
  · exact h2

theorem State.repair_keeps {a s : State} (h : Keeps a s) (d : Detection) :
    Keeps a (State.repair s d) := by
  unfold State.repair
  try dsimp only
  repeat' first
    | with_reducible assumption | split | with_reducible apply State.updQueue_keeps
    | with_reducible apply State.updChan_keeps | with_reducible refine Keeps.flds ?_ rfl rfl rfl rfl rfl rfl rfl

theorem State.viewAll_keeps {a s : State} (h : Keeps a s) (ps : List (Detection × Nat × Bool)) :
    Keeps a (State.viewAll s ps) := by
  unfold State.viewAll
  try dsimp only
  repeat' first
    | with_reducible assumption | split | intro _ | with_reducible refine Keeps.foldl ?_ (fun _ _ _ => ?_)
    | with_reducible apply State.view_keeps

theorem State.viewNotices_keeps {a s : State} (h : Keeps a s) (before : State) :
    Keeps a (State.viewNotices s before) := by
  unfold State.viewNotices
  try dsimp only
  repeat' first
    | with_reducible assumption | split | intro _ | with_reducible refine Keeps.foldl ?_ (fun _ _ _ => ?_)
    | with_reducible apply State.notice_keeps | with_reducible apply State.updInst_keeps
    | with_reducible refine Keeps.flds ?_ rfl rfl rfl rfl rfl rfl rfl

theorem State.mergeOne_keeps {a s : State} (h : Keeps a s) (r : Report) : Keeps a (s.mergeOne r).1 := by
  unfold State.mergeOne
  repeat' first
    | with_reducible assumption | split
    | with_reducible refine Keeps.flds ?_ rfl rfl rfl rfl rfl rfl rfl

theorem State.mergeAll_keeps {a : State} (rs : List Report) {s : State} (h : Keeps a s) : Keeps a (s.mergeAll rs).1 := by
  induction rs generalizing s with
  | nil => exact h
  | cons r rest ih => exact ih (State.mergeOne_keeps h r)

theorem State.toRecord_keeps {a s : State} (h : Keeps a s) (rs : List Report) : Keeps a (s.toRecord rs).1 := by
  unfold State.toRecord
  dsimp only
  split
  · exact State.mergeAll_keeps _ h
  · split
    · exact h
    · exact State.mergeAll_keeps _ (State.openRecord_keeps h _)

theorem State.actAll_keeps {a : State} (ps : List (Detection × Nat × Bool)) {s : State} (h : Keeps a s) :
    Keeps a (s.actAll ps).1 := by
  induction ps generalizing s with
  | nil => exact h
  | cons p rest ih =>
    obtain ⟨d, cls, real⟩ := p
    refine ih ?_
    refine State.act_keeps ?_ _ _
    split
    · exact State.repair_keeps h _
    · exact h

theorem State.detect_keeps {a s : State} (h : Keeps a s) (found : List Detection) : Keeps a (State.detect s found) := by
  unfold State.detect
  split
  · exact h
  · exact State.viewNotices_keeps (Keeps.foldl (State.actAll_keeps _ (State.viewAll_keeps (State.toRecord_keeps
      (Keeps.foldl (State.afterClock_keeps h _) fun _ _ g => State.tally_keeps g _) _) _)) fun _ _ g => State.notice_keeps g _ _ _) _

theorem State.stall_keeps {a s : State} (h : Keeps a s) (source kind unit : Nat) (present : Bool) :
    Keeps a (State.stall s source kind unit present) := by
  unfold State.stall
  repeat' first
    | with_reducible assumption | split | with_reducible apply State.level_keeps

theorem State.closeRecord_keeps {a s : State} (h : Keeps a s) :
    Keeps a (State.closeRecord s) := by
  unfold State.closeRecord
  try dsimp only
  repeat' first
    | with_reducible assumption | split | with_reducible refine Keeps.flds ?_ rfl rfl rfl rfl rfl rfl rfl

theorem State.scrubFound_keeps {a s : State} (h : Keeps a s) (f : ScrubFind) :
    Keeps a (State.scrubFound s f) := by
  unfold State.scrubFound
  try dsimp only
  repeat' first
    | with_reducible assumption | split | with_reducible refine Keeps.flds ?_ rfl rfl rfl rfl rfl rfl rfl

theorem doScrub_keeps {a s : State} (h : Keeps a s) (found : List ScrubFind) :
    Keeps a (doScrub found s) := by
  unfold doScrub
  try dsimp only
  repeat' first
    | with_reducible assumption | split | intro _ | with_reducible refine Keeps.foldl ?_ (fun _ _ _ => ?_)
    | with_reducible apply State.scrubFound_keeps | with_reducible refine Keeps.flds ?_ rfl rfl rfl rfl rfl rfl rfl

theorem doHoldScrub_keeps {a s : State} (h : Keeps a s) (parityError : Bool) : Keeps a (doHoldScrub parityError s) := by
  unfold doHoldScrub
  dsimp only
  repeat' first
    | with_reducible assumption | split | with_reducible apply State.raise_keeps
    | exact Keeps.flds (h.hold (s.hold.filter _) (Memory.filter_wf · _)) rfl rfl rfl rfl rfl rfl rfl
    | exact Keeps.flds h rfl rfl rfl rfl rfl rfl rfl

theorem State.scrubBell_keeps {a s : State} (h : Keeps a s) :
    Keeps a (State.scrubBell s) := by
  unfold State.scrubBell
  try dsimp only
  repeat' first
    | with_reducible assumption | split | with_reducible refine Keeps.flds ?_ rfl rfl rfl rfl rfl rfl rfl

/-! ### Purser -/

theorem State.answer_keeps {a s : State} (h : Keeps a s) (src : CmdSrc) (bytes : List Byte) :
    Keeps a (State.answer s src bytes) := by
  unfold State.answer
  try dsimp only
  repeat' first
    | with_reducible assumption | split | with_reducible apply State.noteSet_keeps
    | with_reducible apply State.updEntry_keeps | with_reducible apply State.updMb_keeps
    | with_reducible refine Keeps.flds ?_ rfl rfl rfl rfl rfl rfl rfl

theorem State.accepts_keeps {a s : State} (h : Keeps a s) :
    Keeps a (State.accepts s) := by
  unfold State.accepts
  try dsimp only
  repeat' first
    | with_reducible assumption | split | with_reducible refine Keeps.flds ?_ rfl rfl rfl rfl rfl rfl rfl

theorem State.curEnds_keeps {a s : State} (h : Keeps a s) :
    Keeps a (State.curEnds s) := by
  unfold State.curEnds
  try dsimp only
  repeat' first
    | with_reducible assumption | split | with_reducible refine Keeps.flds ?_ rfl rfl rfl rfl rfl rfl rfl

theorem State.stepEnds_keeps {a s : State} (h : Keeps a s) :
    Keeps a (State.stepEnds s) := by
  unfold State.stepEnds
  repeat' first
    | with_reducible assumption | split | with_reducible apply State.curEnds_keeps
    | with_reducible apply State.accepts_keeps

theorem State.done_keeps {a s : State} (h : Keeps a s) (c : Cmd) (effect : Nat) (ret : List Byte) :
    Keeps a (State.done s c effect ret) := by
  unfold State.done
  repeat' first
    | with_reducible assumption | split | with_reducible apply State.stepEnds_keeps
    | with_reducible apply State.answer_keeps

theorem State.refuse_keeps {a s : State} (h : Keeps a s) (c : Cmd) (r : Refuse) :
    Keeps a (State.refuse s c r) := by
  unfold State.refuse
  repeat' first
    | with_reducible assumption | split | with_reducible apply State.stepEnds_keeps
    | with_reducible apply State.answer_keeps

theorem State.deferCmd_keeps {a s : State} (h : Keeps a s) (c : Cmd) (inst : Nat) (lines : List (Nat × Nat × Nat)) :
    Keeps a (State.deferCmd s c inst lines) := by
  unfold State.deferCmd
  try dsimp only
  repeat' first
    | with_reducible assumption | split | with_reducible apply State.stepEnds_keeps
    | with_reducible refine Keeps.flds ?_ rfl rfl rfl rfl rfl rfl rfl

theorem State.checked_keeps {a s go : State} (h : Keeps a s) (c : Cmd) (rs : List Refuse) (hg : Keeps a go) :
    Keeps a (State.checked s c rs go) := by
  unfold State.checked
  split
  · exact State.refuse_keeps h _ _
  · exact hg

theorem State.purMemErr_keeps {a s : State} (h : Keeps a s) (c : Cmd) :
    Keeps a (State.purMemErr s c) := by
  unfold State.purMemErr
  repeat' first
    | with_reducible assumption | split | with_reducible apply State.raise_keeps

theorem State.accEnds_keeps {a s : State} (h : Keeps a s) :
    Keeps a (State.accEnds s) := by
  unfold State.accEnds
  try dsimp only
  repeat' first
    | with_reducible assumption | split | with_reducible apply State.dropWalks_keeps
    | with_reducible apply State.dropPur_keeps | with_reducible refine Keeps.flds ?_ rfl rfl rfl rfl rfl rfl rfl

theorem State.purRead_keeps {a s : State} (h : Keeps a s) (c : Cmd) (addr n : Nat) (early : List Refuse)
    (go : List Byte → State → State) (hg : ∀ b t, Keeps a t → Keeps a (go b t)) : Keeps a (State.purRead s c addr n early go) := by
  unfold State.purRead
  dsimp only
  repeat' first
    | with_reducible assumption | split | with_reducible apply State.checked_keeps | with_reducible apply State.refuse_keeps
    | with_reducible apply State.purMemErr_keeps | with_reducible apply State.accEnds_keeps
    | with_reducible apply State.purBegin_keeps | apply hg

theorem State.purWrite_keeps {a s : State} (h : Keeps a s) (c : Cmd) (addr : Nat) (early : List Refuse) (bytes : List Byte) :
    Keeps a (State.purWrite s c addr early bytes) := by
  unfold State.purWrite
  try dsimp only
  repeat' first
    | with_reducible assumption | split | with_reducible apply State.accEnds_keeps
    | with_reducible apply State.purMemErr_keeps | with_reducible apply State.checked_keeps
    | with_reducible apply State.curEnds_keeps | with_reducible apply State.accepts_keeps
    | with_reducible apply State.answer_keeps | with_reducible apply State.purBegin_keeps
    | with_reducible refine Keeps.flds ?_ rfl rfl rfl rfl rfl rfl rfl

theorem State.onCmd_keeps {a s : State} (h : Keeps a s) (op : Nat) (kind : Nat → Bool) (f : Cmd → State → State)
    (hf : ∀ c, Keeps a (f c s)) : Keeps a (State.onCmd s op kind f) := by
  unfold State.onCmd
  split
  · exact hf _
  · exact h

theorem State.mbCtl_keeps {a s : State} (h : Keeps a s) (m : Nat) (irqEn go : Bool) :
    Keeps a (State.mbCtl s m irqEn go) := by
  unfold State.mbCtl
  try dsimp only
  repeat' first
    | with_reducible assumption | split | with_reducible apply State.done_keeps
    | with_reducible apply State.updMb_keeps | with_reducible refine Keeps.flds ?_ rfl rfl rfl rfl rfl rfl rfl

theorem doCommandStart_keeps {a s : State} (h : Keeps a s) :
    Keeps a (doCommandStart s) := by
  unfold doCommandStart
  try dsimp only
  repeat' first
    | with_reducible assumption | split | with_reducible apply State.answer_keeps
    | with_reducible apply State.updEntry_keeps | with_reducible apply State.updMb_keeps
    | with_reducible refine Keeps.flds ?_ rfl rfl rfl rfl rfl rfl rfl

theorem doCmdTmo_keeps {a s : State} (h : Keeps a s) :
    Keeps a (doCmdTmo s) := by
  unfold doCmdTmo
  try dsimp only
  repeat' first
    | with_reducible assumption | split | with_reducible apply State.raise_keeps
    | with_reducible refine Keeps.flds ?_ rfl rfl rfl rfl rfl rfl rfl

/-! ### Commands -/

theorem doQueryVersions_keeps {a s : State} (h : Keeps a s) (c : Cmd) :
    Keeps a (doQueryVersions c s) := by
  unfold doQueryVersions
  repeat' first
    | with_reducible assumption | split | with_reducible apply State.checked_keeps
    | with_reducible apply State.done_keeps

theorem doQueryInstance_keeps {a s : State} (h : Keeps a s) (c : Cmd) :
    Keeps a (doQueryInstance c s) := by
  unfold doQueryInstance
  repeat' first
    | with_reducible assumption | split | with_reducible apply State.purWrite_keeps

theorem doQueryPool_keeps {a s : State} (h : Keeps a s) (c : Cmd) :
    Keeps a (doQueryPool c s) := by
  unfold doQueryPool
  repeat' first
    | with_reducible assumption | split | with_reducible apply State.purWrite_keeps

theorem State.instCreate_keeps {a s : State} (h : Keeps a s) (c : Cmd) (r : List Byte) :
    Keeps a (State.instCreate s c r) := by
  unfold State.instCreate
  try dsimp only
  repeat' first
    | with_reducible assumption | split | with_reducible apply State.checked_keeps
    | with_reducible apply State.done_keeps | with_reducible apply State.updInst_keeps

theorem doInstCreate_keeps {a s : State} (h : Keeps a s) (c : Cmd) :
    Keeps a (doInstCreate c s) := by
  unfold doInstCreate
  try dsimp only
  repeat' first
    | with_reducible assumption | split | intro _ | with_reducible apply State.instCreate_keeps
    | with_reducible apply State.purRead_keeps

theorem doInstEnd_keeps {a s : State} (h : Keeps a s) (removing : Bool) (c : Cmd) :
    Keeps a (doInstEnd removing c s) := by
  unfold doInstEnd
  repeat' first
    | with_reducible assumption | split | with_reducible apply State.checked_keeps
    | with_reducible apply State.deferCmd_keeps | with_reducible apply State.beginReset_keeps

theorem State.setSusp_keeps {a s : State} (h : Keeps a s) (i : Nat) (on : Bool) :
    Keeps a (State.setSusp s i on) := by
  unfold State.setSusp
  try dsimp only
  repeat' first
    | with_reducible assumption | split | intro _ | with_reducible refine Keeps.foldl ?_ (fun _ _ _ => ?_)
    | with_reducible apply State.chResume_keeps | with_reducible apply State.chHold_keeps
    | with_reducible apply State.updQueue_keeps | with_reducible apply State.updChan_keeps
    | with_reducible refine Keeps.flds ?_ rfl rfl rfl rfl rfl rfl rfl

theorem doSuspend_keeps {a s : State} (h : Keeps a s) (c : Cmd) :
    Keeps a (doSuspend c s) := by
  unfold doSuspend
  try dsimp only
  repeat' first
    | with_reducible assumption | split | with_reducible apply State.setSusp_keeps
    | with_reducible apply State.checked_keeps | with_reducible apply State.deferCmd_keeps
    | with_reducible apply State.updInst_keeps | with_reducible refine Keeps.flds ?_ rfl rfl rfl rfl rfl rfl rfl

theorem doResume_keeps {a s : State} (h : Keeps a s) (c : Cmd) :
    Keeps a (doResume c s) := by
  unfold doResume
  try dsimp only
  repeat' first
    | with_reducible assumption | split | with_reducible apply State.setSusp_keeps
    | with_reducible apply State.checked_keeps | with_reducible apply State.done_keeps
    | with_reducible apply State.updInst_keeps | with_reducible refine Keeps.flds ?_ rfl rfl rfl rfl rfl rfl rfl

theorem State.shareSet_keeps {a s : State} (h : Keeps a s) (c : Cmd) (r : List Byte) :
    Keeps a (State.shareSet s c r) := by
  unfold State.shareSet
  try dsimp only
  repeat' first
    | with_reducible assumption | split | with_reducible apply State.checked_keeps
    | with_reducible apply State.done_keeps | with_reducible apply State.updInst_keeps
    | with_reducible refine Keeps.flds ?_ rfl rfl rfl rfl rfl rfl rfl

theorem doShareSet_keeps {a s : State} (h : Keeps a s) (c : Cmd) :
    Keeps a (doShareSet c s) := by
  unfold doShareSet
  repeat' first
    | with_reducible assumption | split | intro _ | with_reducible apply State.shareSet_keeps
    | with_reducible apply State.purRead_keeps

theorem doQCreate_keeps {a s : State} (h : Keeps a s) (c : Cmd) :
    Keeps a (doQCreate c s) := by
  unfold doQCreate
  try dsimp only
  repeat' first
    | with_reducible assumption | split | with_reducible apply State.checked_keeps
    | with_reducible apply State.done_keeps | exact h.queues _ (tabSet_wf · _ _)
    | with_reducible refine Keeps.flds ?_ rfl rfl rfl rfl rfl rfl rfl

theorem doQResize_keeps {a s : State} (h : Keeps a s) (c : Cmd) :
    Keeps a (doQResize c s) := by
  unfold doQResize
  try dsimp only
  repeat' first
    | with_reducible assumption | split | with_reducible apply State.checked_keeps
    | with_reducible apply State.done_keeps | with_reducible apply State.updQueue_keeps
    | with_reducible refine Keeps.flds ?_ rfl rfl rfl rfl rfl rfl rfl

theorem doQDestroy_keeps {a s : State} (h : Keeps a s) (c : Cmd) :
    Keeps a (doQDestroy c s) := by
  unfold doQDestroy
  try dsimp only
  repeat' first
    | with_reducible assumption | split | with_reducible apply State.checked_keeps
    | with_reducible apply State.deferCmd_keeps | with_reducible apply State.updQueue_keeps
    | with_reducible refine Keeps.flds ?_ rfl rfl rfl rfl rfl rfl rfl

theorem doQReadCtx_keeps {a s : State} (h : Keeps a s) (c : Cmd) :
    Keeps a (doQReadCtx c s) := by
  unfold doQReadCtx
  try dsimp only
  repeat' first
    | with_reducible assumption | split | with_reducible apply State.checked_keeps
    | with_reducible apply State.done_keeps

theorem doQStrict_keeps {a s : State} (h : Keeps a s) (grant : Bool) (c : Cmd) :
    Keeps a (doQStrict grant c s) := by
  unfold doQStrict
  try dsimp only
  repeat' first
    | with_reducible assumption | split | with_reducible apply State.checked_keeps
    | with_reducible apply State.done_keeps | with_reducible apply State.grant_keeps
    | with_reducible apply State.updQueue_keeps | with_reducible refine Keeps.flds ?_ rfl rfl rfl rfl rfl rfl rfl

theorem doAdminInit_keeps {a s : State} (h : Keeps a s) (c : Cmd) :
    Keeps a (doAdminInit c s) := by
  unfold doAdminInit
  try dsimp only
  repeat' first
    | with_reducible assumption | split | with_reducible apply State.checked_keeps
    | with_reducible apply State.done_keeps | with_reducible apply State.updInst_keeps
    | exact h.queues _ (tabSet_wf · _ _) | with_reducible refine Keeps.flds ?_ rfl rfl rfl rfl rfl rfl rfl

theorem State.giveChan_keeps {a s : State} (h : Keeps a s) (n i : Nat) :
    Keeps a (State.giveChan s n i) := by
  unfold State.giveChan
  try dsimp only
  repeat' first
    | with_reducible assumption | split | with_reducible apply State.updChan_keeps
    | with_reducible refine Keeps.flds ?_ rfl rfl rfl rfl rfl rfl rfl

theorem doChBind_keeps {a s : State} (h : Keeps a s) (c : Cmd) :
    Keeps a (doChBind c s) := by
  unfold doChBind
  try dsimp only
  repeat' first
    | with_reducible assumption | split | with_reducible apply State.giveChan_keeps
    | with_reducible apply State.checked_keeps | with_reducible apply State.done_keeps

theorem doChUnbind_keeps {a s : State} (h : Keeps a s) (c : Cmd) :
    Keeps a (doChUnbind c s) := by
  unfold doChUnbind
  try dsimp only
  repeat' first
    | with_reducible assumption | split | with_reducible apply State.giveChan_keeps
    | with_reducible apply State.checked_keeps | with_reducible apply State.done_keeps

theorem doLogOn_keeps {a s : State} (h : Keeps a s) (c : Cmd) :
    Keeps a (doLogOn c s) := by
  unfold doLogOn
  try dsimp only
  repeat' first
    | with_reducible assumption | split | with_reducible apply State.checked_keeps
    | with_reducible apply State.deferCmd_keeps | with_reducible apply State.updInst_keeps
    | with_reducible refine Keeps.flds ?_ rfl rfl rfl rfl rfl rfl rfl

theorem doLogOff_keeps {a s : State} (h : Keeps a s) (c : Cmd) :
    Keeps a (doLogOff c s) := by
  unfold doLogOff
  try dsimp only
  repeat' first
    | with_reducible assumption | split | with_reducible apply State.checked_keeps
    | with_reducible apply State.deferCmd_keeps | with_reducible apply State.updInst_keeps
    | with_reducible refine Keeps.flds ?_ rfl rfl rfl rfl rfl rfl rfl

theorem doLogFlushCmd_keeps {a s : State} (h : Keeps a s) (c : Cmd) :
    Keeps a (doLogFlushCmd c s) := by
  unfold doLogFlushCmd
  try dsimp only
  repeat' first
    | with_reducible assumption | split | with_reducible apply State.checked_keeps
    | with_reducible apply State.deferCmd_keeps | with_reducible apply State.queueLines_keeps

theorem State.planLoad_keeps {a s : State} (h : Keeps a s) (c : Cmd) (r : List Byte) :
    Keeps a (State.planLoad s c r) := by
  unfold State.planLoad
  try dsimp only
  repeat' first
    | with_reducible assumption | split | with_reducible apply State.checked_keeps
    | with_reducible apply State.done_keeps | with_reducible refine Keeps.flds ?_ rfl rfl rfl rfl rfl rfl rfl

theorem doPlanLoad_keeps {a s : State} (h : Keeps a s) (c : Cmd) :
    Keeps a (doPlanLoad c s) := by
  unfold doPlanLoad
  repeat' first
    | with_reducible assumption | split | intro _ | with_reducible apply State.planLoad_keeps
    | with_reducible apply State.purRead_keeps

theorem doPlanCancel_keeps {a s : State} (h : Keeps a s) (c : Cmd) :
    Keeps a (doPlanCancel c s) := by
  unfold doPlanCancel
  try dsimp only
  repeat' first
    | with_reducible assumption | split | with_reducible apply State.checked_keeps
    | with_reducible apply State.done_keeps | with_reducible refine Keeps.flds ?_ rfl rfl rfl rfl rfl rfl rfl

theorem State.dismantle_keeps {a s : State} (h : Keeps a s) (i : Nat) : Keeps a (State.dismantle s i) := by
  unfold State.dismantle
  have h1 : Keeps a ((s.ownChans i).foldl (fun s n => s.giveChan n 0) { s with queues := s.queues.filter (fun p => p.2.inst != i) }) :=
    Keeps.foldl (h.queues _ (tabFilter_wf · _)) fun _ _ g => State.giveChan_keeps g _ _
  revert h1
  dsimp only
  generalize List.foldl _ _ _ = s1
  intro h1
  split
  · exact State.updInst_keeps h1 _ _
  · exact h1

theorem State.suspended_keeps {a s : State} (h : Keeps a s) : Keeps a (State.suspended s) :=
  h.insts _ (tabMap_wf · _)

theorem State.finish_keeps {a s : State} (h : Keeps a s) (d : Deferred) : Keeps a (State.finish s d) := by
  unfold State.finish
  dsimp only
  repeat' first
    | with_reducible assumption | split | with_reducible apply State.logOff_keeps
    | with_reducible apply State.updInst_keeps
    | exact h.queues _ (tabErase_wf · _)
    | exact Keeps.flds ((State.logOff_keeps h _).insts _ (tabErase_wf · _)) rfl rfl rfl rfl rfl rfl rfl

theorem State.removals_keeps {a s : State} (h : Keeps a s) :
    Keeps a (State.removals s) := by
  unfold State.removals
  repeat' first
    | with_reducible assumption | split | intro _ | with_reducible refine Keeps.foldl ?_ (fun _ _ _ => ?_)
    | with_reducible apply State.dismantle_keeps

theorem doCompletion_keeps {a s : State} (h : Keeps a s) :
    Keeps a (doCompletion s) := by
  unfold doCompletion
  try dsimp only
  repeat' first
    | with_reducible assumption | split | with_reducible apply State.removals_keeps
    | with_reducible apply State.finish_keeps | with_reducible apply State.answer_keeps
    | with_reducible refine Keeps.flds ?_ rfl rfl rfl rfl rfl rfl rfl

end Sys2Proof.Machine
end

