-- ==== Sys2Proof/Laws/KeepTime.lean ====
section
/-! SUPPORT. What each operation keeps: bell, timers, power and start-up. -/

namespace Sys2Proof.Machine

open Sys2Proof

/-! ### Bell -/

theorem State.cutClock_keeps {a s : State} (h : Keeps a s) :
    Keeps a (State.cutClock s) := by
  unfold State.cutClock
  try dsimp only
  repeat' first
    | with_reducible assumption | split | with_reducible refine Keeps.flds ?_ rfl rfl rfl rfl rfl rfl rfl

theorem State.addCarry_keeps {a s : State} (h : Keeps a s) (f : Frag) :
    Keeps a (State.addCarry s f) := by
  unfold State.addCarry
  try dsimp only
  repeat' first
    | with_reducible assumption | split | with_reducible apply State.updInst_keeps
    | with_reducible refine Keeps.flds ?_ rfl rfl rfl rfl rfl rfl rfl

theorem State.carries_keeps {a s : State} (h : Keeps a s) :
    Keeps a (State.carries s) := by
  unfold State.carries
  repeat' first
    | with_reducible assumption | split | intro _ | with_reducible refine Keeps.foldl ?_ (fun _ _ _ => ?_)
    | with_reducible apply State.addCarry_keeps

theorem State.newGlass_keeps {a s : State} (h : Keeps a s) :
    Keeps a (State.newGlass s) := by
  unfold State.newGlass
  try dsimp only
  repeat' first
    | with_reducible assumption | split | with_reducible refine Keeps.flds ?_ rfl rfl rfl rfl rfl rfl rfl

theorem State.publish_keeps {a s : State} (h : Keeps a s) :
    Keeps a (State.publish s) := by
  unfold State.publish
  try dsimp only
  repeat' first
    | with_reducible assumption | split | with_reducible apply State.queueLines_keeps
    | with_reducible refine Keeps.flds ?_ rfl rfl rfl rfl rfl rfl rfl

theorem State.planTakes_keeps {a s : State} (h : Keeps a s) (p : Plan) : Keeps a (State.planTakes s p) := by
  unfold State.planTakes
  refine Keeps.foldl ?_ fun _ _ g => State.raise_keeps g _ _ _ _ _ _
  exact Keeps.flds (h.insts _ (tabMap_wf · _)) rfl rfl rfl rfl rfl rfl rfl

theorem State.planBell_keeps {a s : State} (h : Keeps a s) (g : Nat) :
    Keeps a (State.planBell s g) := by
  unfold State.planBell
  repeat' first
    | with_reducible assumption | split | with_reducible apply State.planTakes_keeps
    | with_reducible refine Keeps.flds ?_ rfl rfl rfl rfl rfl rfl rfl

theorem State.loadGlass_keeps {a s : State} (h : Keeps a s) : Keeps a (State.loadGlass s) :=
  Keeps.flds (h.insts _ (tabMap_wf · _)) rfl rfl rfl rfl rfl rfl rfl

theorem State.glassEnds_keeps {a s : State} (h : Keeps a s) (aligned : Bool) : Keeps a (State.glassEnds s aligned) := by
  unfold State.glassEnds
  dsimp only
  refine State.scrubBell_keeps (State.loadGlass_keeps (State.swapBell_keeps ?_))
  exact Keeps.flds ((State.planBell_keeps (State.carries_keeps h) _).insts _ (tabMap_wf · _)) rfl rfl rfl rfl rfl rfl rfl

theorem State.ring_keeps {a s : State} (h : Keeps a s) (aligned : Bool) :
    Keeps a (State.ring s aligned) := by
  unfold State.ring
  try dsimp only
  repeat' first
    | with_reducible assumption | split | with_reducible apply State.glassEnds_keeps
    | with_reducible apply State.planBell_keeps | with_reducible apply State.newGlass_keeps
    | with_reducible apply State.scrubBell_keeps | with_reducible refine Keeps.flds ?_ rfl rfl rfl rfl rfl rfl rfl

theorem doBell_keeps {a s : State} (h : Keeps a s) :
    Keeps a (doBell s) := by
  unfold doBell
  try dsimp only
  repeat' first
    | with_reducible assumption | split | with_reducible apply State.ring_keeps
    | with_reducible refine Keeps.flds ?_ rfl rfl rfl rfl rfl rfl rfl

theorem doEdge_keeps {a s : State} (h : Keeps a s) :
    Keeps a (doEdge s) := by
  unfold doEdge
  try dsimp only
  repeat' first
    | with_reducible assumption | split | with_reducible apply State.ring_keeps
    | with_reducible apply State.raise_keeps | with_reducible apply State.noteSet_keeps
    | with_reducible refine Keeps.flds ?_ rfl rfl rfl rfl rfl rfl rfl

theorem State.tellMiss_keeps {a s : State} (h : Keeps a s) (lost : Bool) :
    Keeps a (State.tellMiss s lost) := by
  unfold State.tellMiss
  try dsimp only
  repeat' first
    | with_reducible assumption | split | with_reducible apply State.raise_keeps
    | with_reducible apply State.noteSet_keeps

theorem doMiss_keeps {a s : State} (h : Keeps a s) :
    Keeps a (doMiss s) := by
  unfold doMiss
  try dsimp only
  repeat' first
    | with_reducible assumption | split | with_reducible apply State.tellMiss_keeps
    | with_reducible apply State.ring_keeps | with_reducible refine Keeps.flds ?_ rfl rfl rfl rfl rfl rfl rfl

theorem doAcquire_keeps {a s : State} (h : Keeps a s) :
    Keeps a (doAcquire s) := by
  unfold doAcquire
  try dsimp only
  repeat' first
    | with_reducible assumption | split | with_reducible apply State.ring_keeps
    | with_reducible refine Keeps.flds ?_ rfl rfl rfl rfl rfl rfl rfl

/-! ### Timer -/

theorem State.noteCounter_keeps {a s : State} (h : Keeps a s) (n : Nat) :
    Keeps a (State.noteCounter s n) := by
  unfold State.noteCounter
  try dsimp only
  repeat' first
    | with_reducible assumption | split | with_reducible refine Keeps.flds ?_ rfl rfl rfl rfl rfl rfl rfl

theorem State.tickCounter_keeps {a s : State} (h : Keeps a s) (n : Nat) (new : Tmr) :
    Keeps a (State.tickCounter s n new) := by
  unfold State.tickCounter
  try dsimp only
  repeat' first
    | with_reducible assumption | split | with_reducible apply State.noteCounter_keeps
    | with_reducible apply State.noteSet_keeps | with_reducible apply State.updCounter_keeps

theorem doTimer_keeps {a s : State} (h : Keeps a s) (n : Nat) :
    Keeps a (doTimer n s) := by
  unfold doTimer
  try dsimp only
  repeat' first
    | with_reducible assumption | split | with_reducible apply State.tickCounter_keeps

theorem State.writeCnt_keeps {a s : State} (h : Keeps a s) (n v : Nat) :
    Keeps a (State.writeCnt s n v) := by
  unfold State.writeCnt
  try dsimp only
  repeat' first
    | with_reducible assumption | split | with_reducible apply State.noteCounter_keeps
    | with_reducible apply State.noteWrite_keeps | with_reducible apply State.updCounter_keeps
    | with_reducible refine Keeps.flds ?_ rfl rfl rfl rfl rfl rfl rfl

theorem State.writeTmrCtl_keeps {a s : State} (h : Keeps a s) (n : Nat) (v : Word) :
    Keeps a (State.writeTmrCtl s n v) := by
  unfold State.writeTmrCtl
  try dsimp only
  repeat' first
    | with_reducible assumption | split | with_reducible apply State.noteCounter_keeps
    | with_reducible apply State.noteWrite_keeps | with_reducible apply State.updCounter_keeps
    | with_reducible refine Keeps.flds ?_ rfl rfl rfl rfl rfl rfl rfl

theorem State.writeCmp_keeps {a s : State} (h : Keeps a s) (n v : Nat) :
    Keeps a (State.writeCmp s n v) := by
  unfold State.writeCmp
  try dsimp only
  repeat' first
    | with_reducible assumption | split | with_reducible apply State.noteCounter_keeps
    | with_reducible apply State.updCounter_keeps | with_reducible refine Keeps.flds ?_ rfl rfl rfl rfl rfl rfl rfl

theorem State.clearTmr_keeps {a s : State} (h : Keeps a s) (n : Nat) (w : Word) :
    Keeps a (State.clearTmr s n w) := by
  unfold State.clearTmr
  try dsimp only
  repeat' first
    | with_reducible assumption | split | with_reducible apply State.noteCounter_keeps
    | with_reducible apply State.updCounter_keeps | with_reducible refine Keeps.flds ?_ rfl rfl rfl rfl rfl rfl rfl

theorem State.changeCap_keeps {a s : State} (h : Keeps a s) (i : Nat) (f : Cap → Cap) :
    Keeps a (State.changeCap s i f) := by
  unfold State.changeCap
  try dsimp only
  repeat' first
    | with_reducible assumption | split | with_reducible apply State.updCapture_keeps
    | with_reducible refine Keeps.flds ?_ rfl rfl rfl rfl rfl rfl rfl

theorem State.sampleCap_keeps {a s : State} (h : Keeps a s) (i : Nat) (y : Bool) :
    Keeps a (State.sampleCap s i y) := by
  unfold State.sampleCap
  try dsimp only
  repeat' first
    | with_reducible assumption | split | with_reducible apply State.updCapture_keeps
    | with_reducible refine Keeps.flds ?_ rfl rfl rfl rfl rfl rfl rfl

theorem State.qualify_keeps {a s : State} (h : Keeps a s) (i : Nat) :
    Keeps a (State.qualify s i) := by
  unfold State.qualify
  try dsimp only
  repeat' first
    | with_reducible assumption | split | with_reducible apply State.changeCap_keeps
    | with_reducible apply State.level_keeps | with_reducible apply State.raise_keeps
    | with_reducible apply State.noteSet_keeps | with_reducible refine Keeps.flds ?_ rfl rfl rfl rfl rfl rfl rfl

theorem doCapture_keeps {a s : State} (h : Keeps a s) (i : Nat) (level : Bool) :
    Keeps a (doCapture i level s) := by
  unfold doCapture
  try dsimp only
  repeat' first
    | with_reducible assumption | split | with_reducible apply State.qualify_keeps
    | with_reducible apply State.sampleCap_keeps | with_reducible apply State.level_keeps

theorem doFiltered_keeps {a s : State} (h : Keeps a s) (i : Nat) (level : Bool) :
    Keeps a (doFiltered i level s) := by
  unfold doFiltered
  try dsimp only
  repeat' first
    | with_reducible assumption | split | with_reducible apply State.sampleCap_keeps
    | with_reducible apply State.changeCap_keeps | with_reducible apply State.level_keeps
    | with_reducible refine Keeps.flds ?_ rfl rfl rfl rfl rfl rfl rfl

theorem State.capRead_keeps {a s : State} (h : Keeps a s) (i : Nat) :
    Keeps a (State.capRead s i) := by
  unfold State.capRead
  try dsimp only
  repeat' first
    | with_reducible assumption | split | with_reducible apply State.changeCap_keeps
    | with_reducible apply State.updCapture_keeps | with_reducible refine Keeps.flds ?_ rfl rfl rfl rfl rfl rfl rfl

theorem State.writeCapCtl_keeps {a s : State} (h : Keeps a s) (i : Nat) (v : Word) :
    Keeps a (State.writeCapCtl s i v) := by
  unfold State.writeCapCtl
  try dsimp only
  repeat' first
    | with_reducible assumption | split | with_reducible apply State.changeCap_keeps
    | with_reducible apply State.level_keeps | with_reducible refine Keeps.flds ?_ rfl rfl rfl rfl rfl rfl rfl

theorem State.clearCap_keeps {a s : State} (h : Keeps a s) (i : Nat) (w : Word) :
    Keeps a (State.clearCap s i w) := by
  unfold State.clearCap
  try dsimp only
  repeat' first
    | with_reducible assumption | split | with_reducible apply State.changeCap_keeps
    | with_reducible refine Keeps.flds ?_ rfl rfl rfl rfl rfl rfl rfl

theorem State.thawed_keeps {a before after : State} (h : Keeps a after) : Keeps a (State.thawed before after) := by
  unfold State.thawed
  repeat' first
    | with_reducible assumption | split
    | with_reducible refine Keeps.flds ?_ rfl rfl rfl rfl rfl rfl rfl

theorem State.setHalt_keeps {a s : State} (h : Keeps a s) (v : Bool) :
    Keeps a (State.setHalt s v) := by
  unfold State.setHalt
  try dsimp only
  repeat' first
    | with_reducible assumption | split | with_reducible apply State.thawed_keeps
    | with_reducible apply State.noteDbg_keeps | with_reducible refine Keeps.flds ?_ rfl rfl rfl rfl rfl rfl rfl

theorem State.setFreeze_keeps {a s : State} (h : Keeps a s) (v : Bool) :
    Keeps a (State.setFreeze s v) := by
  unfold State.setFreeze
  try dsimp only
  repeat' first
    | with_reducible assumption | split | with_reducible apply State.thawed_keeps
    | with_reducible apply State.noteDbg_keeps | with_reducible refine Keeps.flds ?_ rfl rfl rfl rfl rfl rfl rfl

theorem State.makeUpTimers_keeps {a s : State} (h : Keeps a s) (e : Nat) :
    Keeps a (State.makeUpTimers s e) := by
  unfold State.makeUpTimers
  try dsimp only
  repeat' first
    | with_reducible assumption | split | intro _ | with_reducible refine Keeps.foldl ?_ (fun _ _ _ => ?_)
    | with_reducible apply State.tickCounter_keeps

theorem State.restartCaps_keeps {a s : State} (h : Keeps a s) (levels : BitVec 8) :
    Keeps a (State.restartCaps s levels) := by
  unfold State.restartCaps
  try dsimp only
  repeat' first
    | with_reducible assumption | split | intro _ | with_reducible refine Keeps.foldl ?_ (fun _ _ _ => ?_)
    | with_reducible apply State.sampleCap_keeps | with_reducible apply State.changeCap_keeps
    | with_reducible apply State.level_keeps | with_reducible refine Keeps.flds ?_ rfl rfl rfl rfl rfl rfl rfl

theorem State.caughtUp_keeps {a s : State} (h : Keeps a s) (e : Nat) (caps : BitVec 8) :
    Keeps a (State.caughtUp s e caps) := by
  unfold State.caughtUp
  repeat' first
    | with_reducible assumption | split | with_reducible apply State.restartCaps_keeps
    | with_reducible apply State.makeUpTimers_keeps

theorem State.makeUpBell_keeps {a s : State} (h : Keeps a s) (e : Nat) :
    Keeps a (State.makeUpBell s e) := by
  unfold State.makeUpBell
  try dsimp only
  repeat' first
    | with_reducible assumption | split | with_reducible apply State.newGlass_keeps
    | with_reducible refine Keeps.flds ?_ rfl rfl rfl rfl rfl rfl rfl

theorem State.atExit_keeps {a s : State} (h : Keeps a s) (slow x : Nat) (edge : Bool) :
    Keeps a (State.atExit s slow x edge) := by
  unfold State.atExit
  try dsimp only
  repeat' first
    | with_reducible assumption | split | with_reducible apply State.makeUpBell_keeps
    | exact Keeps.flds (Keeps.queues _ (State.makeUpBell_keeps h _) (tabMap_wf · _)) rfl rfl rfl rfl rfl rfl rfl
    | with_reducible refine Keeps.flds ?_ rfl rfl rfl rfl rfl rfl rfl

theorem doReckoning_keeps {a s : State} (h : Keeps a s) (edges : Nat) (edge : Bool) (caps : BitVec 8) :
    Keeps a (doReckoning edges edge caps s) := by
  unfold doReckoning
  try dsimp only
  repeat' first
    | with_reducible assumption | split | with_reducible apply State.atExit_keeps
    | with_reducible apply State.caughtUp_keeps | with_reducible apply State.raise_keeps

/-! ### Power -/

theorem State.targetLow_keeps {a s : State} (h : Keeps a s) (t : Nat) :
    Keeps a (State.targetLow s t) := by
  unfold State.targetLow
  try dsimp only
  repeat' first
    | with_reducible assumption | split | with_reducible apply State.queueLines_keeps
    | exact Keeps.flds (Keeps.queues _ (State.queueLines_keeps h _) (tabMap_wf · _)) rfl rfl rfl rfl rfl rfl rfl
    | with_reducible refine Keeps.flds ?_ rfl rfl rfl rfl rfl rfl rfl

theorem State.targetRun_keeps {a s : State} (h : Keeps a s) :
    Keeps a (State.targetRun s) := by
  unfold State.targetRun
  try dsimp only
  repeat' first
    | with_reducible assumption | split | with_reducible refine Keeps.flds ?_ rfl rfl rfl rfl rfl rfl rfl

theorem State.writeTarget_keeps {a s : State} (h : Keeps a s) (t : Nat) :
    Keeps a (State.writeTarget s t) := by
  unfold State.writeTarget
  repeat' first
    | with_reducible assumption | split | with_reducible apply State.targetRun_keeps
    | with_reducible apply State.targetLow_keeps

theorem doQuiesce_keeps {a s : State} (h : Keeps a s) :
    Keeps a (doQuiesce s) := by
  unfold doQuiesce
  try dsimp only
  repeat' first
    | with_reducible assumption | split | with_reducible refine Keeps.flds ?_ rfl rfl rfl rfl rfl rfl rfl

theorem doEntryEdge_keeps {a s : State} (h : Keeps a s) (edge : Bool) :
    Keeps a (doEntryEdge edge s) := by
  unfold doEntryEdge
  try dsimp only
  repeat' first
    | with_reducible assumption | split | with_reducible refine Keeps.flds ?_ rfl rfl rfl rfl rfl rfl rfl

theorem doWake_keeps {a s : State} (h : Keeps a s) (c : WakeCause) (port : Nat) :
    Keeps a (doWake c port s) := by
  unfold doWake
  repeat' first
    | with_reducible assumption | split | with_reducible apply State.wakeBy_keeps
    | with_reducible refine Keeps.flds ?_ rfl rfl rfl rfl rfl rfl rfl

theorem State.clearHolds_keeps {a s : State} (h : Keeps a s) : Keeps a (State.clearHolds s) :=
  (h.hold [] fun _ => Memory.nil_wf).engs _ (tabMap_wf · _)

theorem State.clearsGoOn_keeps {a s : State} (h : Keeps a s) :
    Keeps a (State.clearsGoOn s) := by
  unfold State.clearsGoOn
  try dsimp only
  repeat' first
    | with_reducible assumption | split | exact h.engs _ (tabMap_wf · _)
    | with_reducible refine Keeps.flds ?_ rfl rfl rfl rfl rfl rfl rfl

theorem State.toStep_keeps {a s : State} (h : Keeps a s) (n : Nat) :
    Keeps a (State.toStep s n) := by
  unfold State.toStep
  try dsimp only
  repeat' first
    | with_reducible assumption | split | with_reducible refine Keeps.flds ?_ rfl rfl rfl rfl rfl rfl rfl

theorem State.purState_keeps {a s : State} (h : Keeps a s) (n : Nat) :
    Keeps a (State.purState s n) := by
  unfold State.purState
  try dsimp only
  repeat' first
    | with_reducible assumption | split | with_reducible refine Keeps.flds ?_ rfl rfl rfl rfl rfl rfl rfl

theorem State.startLoad_keeps {a s : State} (h : Keeps a s) :
    Keeps a (State.startLoad s) := by
  unfold State.startLoad
  try dsimp only
  repeat' first
    | with_reducible assumption | split | with_reducible apply State.purState_keeps
    | with_reducible apply State.toStep_keeps | with_reducible apply State.purGo_keeps
    | with_reducible refine Keeps.flds ?_ rfl rfl rfl rfl rfl rfl rfl

theorem State.runLater_keeps {a s : State} (h : Keeps a s) (l : Later) : Keeps a (s.runLater l) := by
  cases l with
  | pause n => exact State.pauseActs_keeps h _
  | chCmd n all v => exact State.chCmd_keeps h _ _ _
  | enable i q on => exact doEnable_keeps h _ _ _
  | release i q skip =>
    cases skip
    · exact doRetry_keeps h _ _
    · exact doSkip_keeps h _ _
  | invalidate =>
    show Keeps a (if s.glb.ccGo then s.ccStart else s)
    split
    · exact State.ccStart_keeps h
    · exact h
  | load => exact State.startLoad_keeps h

theorem State.reachRun_keeps {a s : State} (h : Keeps a s) :
    Keeps a (State.reachRun s) := by
  unfold State.reachRun
  try dsimp only
  repeat' first
    | with_reducible assumption | split | with_reducible refine Keeps.flds ?_ rfl rfl rfl rfl rfl rfl rfl

theorem doWakeComplete_keeps {a s : State} (h : Keeps a s) (levels : List (Fin 512 × BitVec 12)) :
    Keeps a (doWakeComplete levels s) := by
  unfold doWakeComplete
  try dsimp only
  repeat' first
    | with_reducible assumption | split | intro _ | with_reducible refine Keeps.foldl ?_ (fun _ _ _ => ?_)
    | with_reducible apply State.reachRun_keeps | with_reducible apply State.runLater_keeps
    | with_reducible apply State.clearsGoOn_keeps | with_reducible apply State.clearHolds_keeps
    | with_reducible apply State.chLevel_keeps

theorem doLevel_keeps {a s : State} (h : Keeps a s) (n level : Nat) :
    Keeps a (doLevel n level s) := by
  unfold doLevel
  repeat' first
    | with_reducible assumption | split | with_reducible apply State.chLevel_keeps
    | with_reducible apply State.level_keeps

theorem State.writeOfs_keeps {a s : State} (h : Keeps a s) (k : Nat) (v : Word) :
    Keeps a (State.writeOfs s k v) := by
  unfold State.writeOfs
  try dsimp only
  repeat' first
    | with_reducible assumption | split | with_reducible apply State.raise_keeps
    | with_reducible refine Keeps.flds ?_ rfl rfl rfl rfl rfl rfl rfl

theorem State.stepLevels_keeps {a s : State} (h : Keeps a s) (before after : Nat) :
    Keeps a (State.stepLevels s before after) := by
  unfold State.stepLevels
  repeat' first
    | with_reducible assumption | split | intro _ | with_reducible refine Keeps.foldl ?_ (fun _ _ _ => ?_)
    | with_reducible apply State.level_keeps

theorem State.setStep_keeps {a s : State} (h : Keeps a s) (n : Nat) :
    Keeps a (State.setStep s n) := by
  unfold State.setStep
  try dsimp only
  repeat' first
    | with_reducible assumption | split | with_reducible apply State.stepLevels_keeps
    | with_reducible refine Keeps.flds ?_ rfl rfl rfl rfl rfl rfl rfl

theorem doDroop_keeps {a s : State} (h : Keeps a s) (rail vref : Nat) :
    Keeps a (doDroop rail vref s) := by
  unfold doDroop
  try dsimp only
  repeat' first
    | with_reducible assumption | split | intro _ | with_reducible apply State.setStep_keeps
    | with_reducible apply State.level_keeps | with_reducible apply State.unlessWritten_keeps
    | with_reducible refine Keeps.flds ?_ rfl rfl rfl rfl rfl rfl rfl

theorem doStepRise_keeps {a s : State} (h : Keeps a s) :
    Keeps a (doStepRise s) := by
  unfold doStepRise
  repeat' first
    | with_reducible assumption | split | with_reducible apply State.setStep_keeps

theorem doSelfTrim_keeps {a s : State} (h : Keeps a s) (c : Int) :
    Keeps a (doSelfTrim c s) := by
  unfold doSelfTrim
  try dsimp only
  repeat' first
    | with_reducible assumption | split | with_reducible apply State.raise_keeps
    | with_reducible refine Keeps.flds ?_ rfl rfl rfl rfl rfl rfl rfl

theorem doTemp_keeps {a s : State} (h : Keeps a s) (t : BitVec 8) :
    Keeps a (doTemp t s) := by
  unfold doTemp
  try dsimp only
  repeat' first
    | with_reducible assumption | split | with_reducible apply State.level_keeps
    | with_reducible apply State.raise_keeps | with_reducible refine Keeps.flds ?_ rfl rfl rfl rfl rfl rfl rfl

theorem doRecheck_keeps {a s : State} (h : Keeps a s) (same : Bool) :
    Keeps a (doRecheck same s) := by
  unfold doRecheck
  try dsimp only
  repeat' first
    | with_reducible assumption | split | with_reducible apply State.raise_keeps
    | with_reducible refine Keeps.flds ?_ rfl rfl rfl rfl rfl rfl rfl

/-! ### Startup -/

/-- A reset leaves the stores in their form. -/
theorem State.blank_canon {s : State} (h : s.Canon) (p : Power) : (State.blank s p).Canon :=
  ⟨Memory.nil_wf, List.Pairwise.nil, List.Pairwise.nil, List.Pairwise.nil, List.Pairwise.nil, tabMap_wf h.ports _,
    tabMap_wf h.fabs _, List.Pairwise.nil, List.Pairwise.nil, List.Pairwise.nil, fun k => srcFloor_le_default k⟩

theorem doPgoodRise_keeps {a s : State} (h : Keeps a s) :
    Keeps a (doPgoodRise s) := by
  unfold doPgoodRise
  try dsimp only
  repeat' first
    | with_reducible assumption | split | with_reducible refine Keeps.flds ?_ rfl rfl rfl rfl rfl rfl rfl

theorem doRelease__keeps {a s : State} (h : Keeps a s) (absent : Bool) :
    Keeps a (doRelease_ absent s) := by
  unfold doRelease_
  try dsimp only
  repeat' first
    | with_reducible assumption | split | with_reducible refine Keeps.flds ?_ rfl rfl rfl rfl rfl rfl rfl

theorem State.startFails_keeps {a s : State} (h : Keeps a s) (code : Nat) :
    Keeps a (State.startFails s code) := by
  unfold State.startFails
  try dsimp only
  repeat' first
    | with_reducible assumption | split | with_reducible apply State.purState_keeps
    | with_reducible apply State.toStep_keeps | with_reducible refine Keeps.flds ?_ rfl rfl rfl rfl rfl rfl rfl

/-- Step FUSE loads the factory values and changes nothing else of what is kept (R488). -/
theorem doFuse_keeps (s : State) (primary copy : Fuses) (ok : Bool) (hs : s.atStep 1 = true) :
    Keeps { s with droop := s.droop.load primary } (doFuse primary copy ok s) := by
  have h : Keeps { s with droop := s.droop.load primary } { s with droop := s.droop.load primary } := Keeps.rfl_
  have h1 : Keeps { s with droop := s.droop.load primary }
      ({ s with
        flt := { s.flt with waiting := s.flt.waiting.filter (fun d => srcLevel d.source) }
        droop := s.droop.load primary } : State) :=
    Keeps.flds (s := { s with droop := s.droop.load primary }) h rfl rfl rfl rfl rfl rfl rfl
  unfold doFuse
  rw [hs, if_neg (by decide)]
  split
  · have h2 := State.stepLevels_keeps (State.toStep_keeps h1 2) 0 s.droop.step
    dsimp only
    split
    · exact State.raise_keeps h2 _ _ _ _ _ _
    · exact h2
  · exact State.detect_keeps (State.raise_keeps h _ _ _ _ _ _) _

theorem doMeminit_keeps {a s : State} (h : Keeps a s) (failed : Fin 8) :
    Keeps a (doMeminit failed s) := by
  unfold doMeminit
  try dsimp only
  repeat' first
    | with_reducible assumption | split | with_reducible apply State.startFails_keeps
    | with_reducible apply State.toStep_keeps | with_reducible apply State.newGlass_keeps
    | with_reducible refine Keeps.flds ?_ rfl rfl rfl rfl rfl rfl rfl

theorem State.loadEnds_keeps {a s : State} (h : Keeps a s) :
    Keeps a (State.loadEnds s) := by
  unfold State.loadEnds
  repeat' first
    | with_reducible assumption | split | with_reducible apply State.accEnds_keeps
    | with_reducible apply State.disown_keeps

theorem doLoad_keeps {a s : State} (h : Keeps a s) :
    Keeps a (doLoad s) := by
  unfold doLoad
  try dsimp only
  repeat' first
    | with_reducible assumption | split | with_reducible apply State.loadEnds_keeps
    | with_reducible apply State.startFails_keeps | with_reducible apply State.purState_keeps
    | with_reducible apply State.toStep_keeps | with_reducible refine Keeps.flds ?_ rfl rfl rfl rfl rfl rfl rfl

theorem doVerify_keeps {a s : State} (h : Keeps a s) :
    Keeps a (doVerify s) := by
  unfold doVerify
  repeat' first
    | with_reducible assumption | split | with_reducible apply State.startFails_keeps
    | with_reducible apply State.toStep_keeps | with_reducible refine Keeps.flds ?_ rfl rfl rfl rfl rfl rfl rfl

theorem State.ready_keeps {a s : State} (h : Keeps a s) : Keeps a (State.ready s) :=
  Keeps.flds (h.insts _ fun _ => List.pairwise_singleton _ _) rfl rfl rfl rfl rfl rfl rfl

theorem doFwinit_keeps {a s : State} (h : Keeps a s) (done : Bool) :
    Keeps a (doFwinit done s) := by
  unfold doFwinit
  repeat' first
    | with_reducible assumption | split | with_reducible apply State.ready_keeps
    | with_reducible apply State.startFails_keeps | with_reducible apply State.done_keeps

theorem State.portDone_keeps {a s : State} (h : Keeps a s) (data : Word) :
    Keeps a (State.portDone s data) := by
  unfold State.portDone
  try dsimp only
  repeat' first
    | with_reducible assumption | split | with_reducible refine Keeps.flds ?_ rfl rfl rfl rfl rfl rfl rfl

end Sys2Proof.Machine
end

