-- ==== Sys2Proof/Laws/KeepPort.lean ====
section
/-! SUPPORT. What each operation keeps: register writes and the bus clock. -/

namespace Sys2Proof.Machine

open Sys2Proof

/-! ### RegWrite -/

theorem State.setGlob_keeps {a s : State} (h : Keeps a s) (f : Glob → Glob) (hf : s.glb.lock = true → (f s.glb).lock = true) :
    Keeps a (State.setGlob s f) := h.glb _ hf

theorem State.writeChCtl_keeps {a s : State} (h : Keeps a s) (n : Nat) (v : Word) :
    Keeps a (State.writeChCtl s n v) := by
  unfold State.writeChCtl
  try dsimp only
  repeat' first
    | with_reducible assumption | split | intro _ | with_reducible apply State.pauseActs_keeps
    | with_reducible apply State.steer_keeps | with_reducible apply State.updChan_keeps
    | with_reducible refine Keeps.flds ?_ rfl rfl rfl rfl rfl rfl rfl

theorem State.writePause_keeps {a s : State} (h : Keeps a s) (n : Nat) (v : Bool) :
    Keeps a (State.writePause s n v) := by
  unfold State.writePause
  repeat' first
    | with_reducible assumption | split | with_reducible apply State.writeChCtl_keeps

theorem State.writeChCmd_keeps {a s : State} (h : Keeps a s) (n : Nat) (all : Bool) (v : Word) :
    Keeps a (State.writeChCmd s n all v) := by
  unfold State.writeChCmd
  repeat' first
    | with_reducible assumption | split | intro _ | with_reducible apply State.chCmd_keeps
    | with_reducible apply State.steer_keeps

theorem State.writeCh_keeps {a s : State} (h : Keeps a s) (n : Nat) (r : ChReg) (v : Word) :
    Keeps a (State.writeCh s n r v) := by
  unfold State.writeCh
  try dsimp only
  repeat' first
    | with_reducible assumption | split | with_reducible apply State.writeChCmd_keeps
    | with_reducible apply State.writeChCtl_keeps | with_reducible apply State.act_keeps
    | with_reducible apply State.chLevel_keeps | with_reducible apply State.level_keeps
    | with_reducible apply State.noteWrite_keeps | with_reducible apply State.updChan_keeps
    | with_reducible refine Keeps.flds ?_ rfl rfl rfl rfl rfl rfl rfl

theorem State.writeChManager_keeps {a s : State} (h : Keeps a s) (n : Nat) (r : ChReg) (v : Word) :
    Keeps a (State.writeChManager s n r v) := by
  unfold State.writeChManager
  repeat' first
    | with_reducible assumption | split | with_reducible apply State.writeCh_keeps
    | with_reducible apply State.writeChCmd_keeps | with_reducible refine Keeps.flds ?_ rfl rfl rfl rfl rfl rfl rfl

theorem State.writeQctl_keeps {a s : State} (h : Keeps a s) (i q : Nat) (v : Word) :
    Keeps a (State.writeQctl s i q v) := by
  unfold State.writeQctl
  try dsimp only
  repeat' first
    | with_reducible assumption | split | with_reducible apply State.setRelease_keeps
    | with_reducible apply State.setEnable_keeps

theorem State.writeIntCtl_keeps {a s : State} (h : Keeps a s) (i : Nat) (v : Word) :
    Keeps a (State.writeIntCtl s i v) := by
  unfold State.writeIntCtl
  try dsimp only
  repeat' first
    | with_reducible assumption | split | intro _ | with_reducible apply State.withIrq_keeps
    | with_reducible refine Keeps.flds ?_ rfl rfl rfl rfl rfl rfl rfl

theorem State.writePage_keeps {a s : State} (h : Keeps a s) (i : Nat) (r : PageReg) (v : Word) :
    Keeps a (State.writePage s i r v) := by
  unfold State.writePage
  try dsimp only
  repeat' first
    | with_reducible assumption | split | with_reducible apply State.writeIntCtl_keeps
    | with_reducible apply State.writeQctl_keeps | with_reducible apply State.writeEvtCtl_keeps
    | with_reducible apply State.writeHead_keeps | with_reducible apply State.noteWrite_keeps
    | with_reducible apply State.updInst_keeps | with_reducible refine Keeps.flds ?_ rfl rfl rfl rfl rfl rfl rfl

/-- The SEV that a write of FLT_SRC leaves lies within the source's bounds (R414). -/
theorem State.sevWr_bounds (s : State) (k old v : Nat) (h : srcFloor k ≤ old ∧ old ≤ 5) :
    srcFloor k ≤ max (srcFloor k) (s.classWr old v) ∧ max (srcFloor k) (s.classWr old v) ≤ 5 := by
  have := srcFloor_le_default k
  unfold State.classWr
  split <;> simp_all <;> omega

theorem State.writeSrc_keeps {a s : State} (h : Keeps a s) (k : Nat) (v : Word) : Keeps a (State.writeSrc s k v) := by
  unfold State.writeSrc
  split
  · exact h
  · refine State.updSrc_keeps h _ _ fun q => ?_
    dsimp only
    split
    · exact q
    · exact State.sevWr_bounds _ _ _ _ q

theorem State.writeFrecCtl_keeps {a s : State} (h : Keeps a s) (v : Word) :
    Keeps a (State.writeFrecCtl s v) := by
  unfold State.writeFrecCtl
  try dsimp only
  repeat' first
    | with_reducible assumption | split | with_reducible apply State.closeRecord_keeps
    | with_reducible refine Keeps.flds ?_ rfl rfl rfl rfl rfl rfl rfl

theorem State.writeInj_keeps {a s : State} (h : Keeps a s) (v : Word) :
    Keeps a (State.writeInj s v) := by
  unfold State.writeInj
  try dsimp only
  repeat' first
    | with_reducible assumption | split | intro _ | with_reducible apply State.setGlob_keeps
    | with_reducible apply State.noteWrite_keeps | exact id
    | with_reducible refine Keeps.flds ?_ rfl rfl rfl rfl rfl rfl rfl

theorem State.writeGlob_keeps {a s : State} (h : Keeps a s) (r : Reg) (v : Word) :
    Keeps a (State.writeGlob s r v) := by
  unfold State.writeGlob
  try dsimp only
  repeat' first
    | with_reducible assumption | split | intro _ | with_reducible apply State.writeInj_keeps
    | with_reducible apply State.setGlob_keeps | with_reducible apply State.setFreeze_keeps
    | with_reducible apply State.ccInvalidate_keeps | with_reducible apply doLogSwap_keeps
    | with_reducible apply State.logWaits_keeps | with_reducible apply State.noteWrite_keeps
    | with_reducible apply State.updFab_keeps | exact id | (intro hq; simp_all) | simp_all
    | with_reducible refine Keeps.flds ?_ rfl rfl rfl rfl rfl rfl rfl

theorem State.writeTime_keeps {a s : State} (h : Keeps a s) (r : Reg) (v : Word) :
    Keeps a (State.writeTime s r v) := by
  unfold State.writeTime
  try dsimp only
  repeat' first
    | with_reducible assumption | split | with_reducible apply State.writeFrecCtl_keeps
    | with_reducible apply State.writeSrc_keeps | with_reducible apply State.clearCap_keeps
    | with_reducible apply State.writeCapCtl_keeps | with_reducible apply State.clearTmr_keeps
    | with_reducible apply State.writeCmp_keeps | with_reducible apply State.writeTmrCtl_keeps
    | with_reducible apply State.writeCnt_keeps | with_reducible apply State.noteWrite_keeps
    | with_reducible refine Keeps.flds ?_ rfl rfl rfl rfl rfl rfl rfl

theorem State.writePower_keeps {a s : State} (h : Keeps a s) (r : Reg) (v : Word) :
    Keeps a (State.writePower s r v) := by
  unfold State.writePower
  try dsimp only
  repeat' first
    | with_reducible assumption | split | intro _ | with_reducible apply State.writeOfs_keeps
    | with_reducible apply State.startLoad_keeps | with_reducible apply State.writeTarget_keeps
    | with_reducible apply State.mbCtl_keeps | with_reducible apply State.done_keeps
    | with_reducible apply doRelease_keeps | with_reducible apply State.steer_keeps
    | with_reducible apply State.noteWrite_keeps | with_reducible apply State.updMb_keeps
    | with_reducible apply State.updPort_keeps | with_reducible refine Keeps.flds ?_ rfl rfl rfl rfl rfl rfl rfl

theorem State.writeReg_keeps {a s : State} (h : Keeps a s) (r : Reg) (v : Word) :
    Keeps a (State.writeReg s r v) := by
  unfold State.writeReg
  repeat' first
    | with_reducible assumption | split | with_reducible apply State.writePower_keeps
    | with_reducible apply State.writeTime_keeps | with_reducible apply State.writeGlob_keeps
    | with_reducible apply State.writePage_keeps | with_reducible apply State.writeChManager_keeps
    | with_reducible apply State.writeCh_keeps | with_reducible refine Keeps.flds ?_ rfl rfl rfl rfl rfl rfl rfl

theorem State.portWrite_keeps {a s : State} (h : Keeps a s) (inFatal : Bool) (f : State → State) (hf : Keeps a (f s)) :
    Keeps a (State.portWrite s inFatal f) := by
  unfold State.portWrite
  dsimp only
  repeat' first
    | with_reducible assumption | split | with_reducible apply State.portDone_keeps
    | with_reducible apply State.wakeBy_keeps
    | with_reducible refine Keeps.flds ?_ rfl rfl rfl rfl rfl rfl rfl

theorem State.regWrite_keeps {a s : State} (h : Keeps a s) (off : Nat) (v : Word) :
    Keeps a (State.regWrite s off v) := by
  unfold State.regWrite
  repeat' first
    | with_reducible assumption | split | with_reducible apply State.portWrite_keeps
    | with_reducible apply State.writeReg_keeps | exact h
    | with_reducible refine Keeps.flds ?_ rfl rfl rfl rfl rfl rfl rfl

theorem State.pageWrite_keeps {a s : State} (h : Keeps a s) (i : Nat) (f : State → State) (hf : Keeps a (f s)) :
    Keeps a (State.pageWrite s i f) := by
  refine State.portWrite_keeps h _ _ ?_
  split
  · exact hf
  · exact h

theorem State.chWrite_keeps {a s : State} (h : Keeps a s) (via : Path) (n : Nat) (all only : State → State)
    (ha : Keeps a (all s)) (ho : Keeps a (only s)) : Keeps a (State.chWrite s via n all only) := by
  refine State.portWrite_keeps h _ _ ?_
  repeat' first
    | with_reducible assumption | split

theorem State.portRead_keeps {a s : State} (h : Keeps a s) (off : Nat) :
    Keeps a (State.portRead s off) := by
  unfold State.portRead
  try dsimp only
  repeat' first
    | with_reducible assumption | split | with_reducible apply State.portDone_keeps
    | with_reducible apply State.capRead_keeps | with_reducible refine Keeps.flds ?_ rfl rfl rfl rfl rfl rfl rfl

theorem doCapRead_keeps {a s : State} (h : Keeps a s) (i : Nat) :
    Keeps a (doCapRead i s) := by
  unfold doCapRead
  repeat' first
    | with_reducible assumption | split | with_reducible apply State.portRead_keeps

theorem doAccess_keeps {a s : State} (h : Keeps a s) (write : Bool) (off : Nat) (v : Word) :
    Keeps a (doAccess write off v s) := by
  unfold doAccess
  repeat' first
    | with_reducible assumption | split | with_reducible apply State.portRead_keeps
    | with_reducible apply State.regWrite_keeps | with_reducible apply State.portDone_keeps

theorem doRpTmo_keeps {a s : State} (h : Keeps a s) (write : Bool) (off : Nat) :
    Keeps a (doRpTmo write off s) := by
  unfold doRpTmo
  try dsimp only
  repeat' first
    | with_reducible assumption | split | with_reducible apply State.portDone_keeps
    | with_reducible apply State.wakeBy_keeps | with_reducible apply State.raise_keeps

theorem State.enableCap_keeps {a s : State} (h : Keeps a s) (i : Nat) (y : Bool) :
    Keeps a (State.enableCap s i y) := by
  unfold State.enableCap
  try dsimp only
  repeat' first
    | with_reducible assumption | split | with_reducible apply State.writeCapCtl_keeps
    | with_reducible apply State.sampleCap_keeps

/-! ### Tick -/

theorem State.clocks_keeps {a s : State} (h : Keeps a s) :
    Keeps a (State.clocks s) := by
  unfold State.clocks
  try dsimp only
  repeat' first
    | with_reducible assumption | split | with_reducible refine Keeps.flds ?_ rfl rfl rfl rfl rfl rfl rfl

/-- The registers of a source once the pulses end: only LIVE of an event source changes (R417). -/
theorem State.src_pulsesEnd (s : State) (k : Nat) :
    s.pulsesEnd.src k = { s.src k with live := (s.src k).live && srcLevel k } :=
  tabGet_map _ s.flt.srcs (fun j x => { x with live := x.live && srcLevel j }) k rfl

theorem State.pulsesEnd_keeps {a s : State} (h : Keeps a s) : Keeps a (State.pulsesEnd s) :=
  ⟨h.fuses, fun q =>
    let c := h.canon q
    ⟨c.hold, c.insts, c.queues, c.chans, c.engs, c.ports, c.fabs, c.mbs, c.cnt, c.cap, fun k => by
      rw [State.src_pulsesEnd]; exact c.sev k⟩, h.lock, h.fatal, h.lockdown⟩

theorem State.bellClock_keeps {a s : State} (h : Keeps a s) :
    Keeps a (State.bellClock s) := by
  unfold State.bellClock
  try dsimp only
  repeat' first
    | with_reducible assumption | split | with_reducible apply State.cutClock_keeps
    | with_reducible refine Keeps.flds ?_ rfl rfl rfl rfl rfl rfl rfl

theorem State.wakeClock_keeps {a s : State} (h : Keeps a s) :
    Keeps a (State.wakeClock s) := by
  unfold State.wakeClock
  try dsimp only
  repeat' first
    | with_reducible assumption | split | with_reducible refine Keeps.flds ?_ rfl rfl rfl rfl rfl rfl rfl

theorem State.workClock_keeps {a s : State} (h : Keeps a s) :
    Keeps a (State.workClock s) := by
  unfold State.workClock
  try dsimp only
  repeat' first
    | with_reducible assumption | split | intro _ | with_reducible refine Keeps.foldl ?_ (fun _ _ _ => ?_)
    | with_reducible apply State.suspended_keeps | with_reducible apply State.queueLines_keeps
    | with_reducible apply State.chLevel_keeps

theorem State.alarmClock_keeps {a s : State} (h : Keeps a s) :
    Keeps a (State.alarmClock s) := by
  unfold State.alarmClock
  try dsimp only
  repeat' first
    | with_reducible assumption | split | with_reducible refine Keeps.flds ?_ rfl rfl rfl rfl rfl rfl rfl

theorem Droop.count_fuses (d : Droop) : d.count.fuses = d.fuses := by
  unfold Droop.count
  split <;> rfl

theorem State.droopClock_keeps {a s : State} (h : Keeps a s) : Keeps a (State.droopClock s) := by
  unfold State.droopClock
  split
  · exact Keeps.flds h rfl rfl rfl rfl rfl rfl (Droop.count_fuses _)
  · exact h

theorem State.nextClock_keeps {a s : State} (h : Keeps a s) :
    Keeps a (State.nextClock s) := by
  unfold State.nextClock
  try dsimp only
  repeat' first
    | with_reducible assumption | split | with_reducible apply State.droopClock_keeps
    | with_reducible apply State.alarmClock_keeps | with_reducible apply State.workClock_keeps
    | with_reducible apply State.wakeClock_keeps | with_reducible apply State.bellClock_keeps
    | with_reducible apply State.pulsesEnd_keeps | with_reducible apply State.clocks_keeps
    | with_reducible apply State.publish_keeps | with_reducible refine Keeps.flds ?_ rfl rfl rfl rfl rfl rfl rfl

theorem tick_keeps {a s : State} (h : Keeps a s) :
    Keeps a (tick s) := by
  unfold tick
  try dsimp only
  repeat' first
    | with_reducible assumption | split | with_reducible apply State.nextClock_keeps
    | with_reducible refine Keeps.flds ?_ rfl rfl rfl rfl rfl rfl rfl

end Sys2Proof.Machine
end

