-- ==== Sys2Proof/Tests/Slice0.lean ====
section
/-! SUPPORT. Tests of the model, and for every statement with hypotheses concrete states and operands that meet them. -/

namespace Sys2Proof.Tests

set_option Elab.async false

open Sys2Proof Sys2Proof.Machine

/-! ### Small states -/

/-- Nobody sent a command and the block waits in FUSE. -/
def atStep (n : Nat) : State := { State.reset with pwr := { State.reset.pwr with step := n } }

/-- Eight equal figures. -/
def eight (n : Nat) : List Nat := List.replicate 8 n

/-- A share with 16 units of every figure and the same kept in bytes as what is left of the glass. -/
def share : Share :=
  { f := eight 16, s := eight 16, e := eight 64, h := eight 0, ro := [16, 16, 16, 16], ri := [16, 16, 16, 16], qmax := 16
    cmax := 4, ccs := 8, prate := 16777216 }

def tenant : Inst :=
  { state := .active, gen := 1, led := share, eff := share, leftF := eight 65536, leftS := eight 65536
    leftRO := [65536, 65536, 65536, 65536], leftRI := [65536, 65536, 65536, 65536] }

/-- A READY block with instance 0 and instance 1. -/
def ready : State :=
  { State.reset with
    age := 100000, now := 100000
    pwr := { State.reset.pwr with step := 7, fpPresent := true }
    bell := { State.reset.bell with running := true, pos := 10, glass := 5 }
    pur := { State.reset.pur with state := 3 }
    insts := [(0, { tenant with gen := 0 }), (1, tenant)] }

/-- A state with the commands in its queue. -/
def queued (s : State) (l : List Instr) : State := { s with pending := l }

def detection : Detection :=
  { source := 8, attr := { kind := 1, unit := 3, inst := some 1 }, detail := 0x1234, xcause := none, present := true }

/-! ### Hypotheses of the statements: the step and the whole machine -/

theorem ready_sev (k : Nat) : srcFloor k ≤ (ready.src k).sev ∧ (ready.src k).sev ≤ 5 := by
  show srcFloor k ≤ srcDefault k ∧ srcDefault k ≤ 5
  unfold srcFloor srcDefault
  constructor <;> repeat' split
  all_goals (simp_all <;> omega)

theorem ready_canon : ready.Canon := by
  constructor <;> first | exact ready_sev | (show List.Pairwise _ _; decide) | decide

theorem witness_step :
    (queued ready [.bell]).pending = .bell :: [] ∧ Instr.bell.wf = true ∧
      (Instr.faultDetection [{ detection with source := 80 }]).wf = false ∧ State.reset.pending = [] := by decide

def lockdownState : State := { ready with pwr := { ready.pwr with lockdown := true }, pending := [.registerWrite 0x80 1] }
def fatalState : State := { ready with pwr := { ready.pwr with fatal := true }, pending := [.registerWrite 0x80 1] }
def lockState : State := { ready with glb := { ready.glb with lock := true }, pending := [.registerWrite 0x80 1] }

theorem witness_canon_step : ready.Canon ∧ step ready = .next (tick ready) := ⟨ready_canon, rfl⟩

theorem witness_lockdown :
    lockdownState.pwr.lockdown = true ∧ (∃ t, step lockdownState = .next t) ∧
      (∀ rest, lockdownState.pending ≠ .pgoodFall :: rest) ∧ ∃ t, exec .pgoodFall lockdownState = .next t :=
  ⟨rfl, ⟨_, rfl⟩, fun _ h => Instr.noConfusion (List.cons.inj h).1, ⟨_, rfl⟩⟩

theorem witness_fatal :
    fatalState.pwr.fatal = true ∧ fatalState.isolated = true ∧ (∃ t, step fatalState = .next t) ∧
      ∀ rest, fatalState.pending ≠ .pgoodFall :: rest ∧ fatalState.pending ≠ .powerOnReset :: rest ∧
        fatalState.pending ≠ .blockReset :: rest :=
  ⟨rfl, rfl, ⟨_, rfl⟩, fun rest => by simp [fatalState]⟩

/-- The further hypotheses of the isolation statement: no plan pends, no context word is at fault, and the block is awake. -/
theorem witness_isolated :
    fatalState.led.plan = none ∧ (∀ d ∈ fatalState.flt.waiting, d.source ≠ 37) ∧
      (∀ found rest, fatalState.pending = .faultDetection found :: rest → ∀ d ∈ found, d.source ≠ 37) ∧
      fatalState.pwr.phase ≠ .waking :=
  ⟨rfl, by simp [fatalState, ready, State.reset], fun _ _ h => by simp [fatalState] at h, by decide⟩

theorem witness_fatal_reset :
    fatalState.pwr.fatal = true ∧ fatalState.pwr.lockdown = false ∧ fatalState.pwr.bound = .present ∧
      (∃ t, exec .blockReset fatalState = .next t) ∧ ∃ t, exec .powerOnReset fatalState = .next t :=
  ⟨rfl, rfl, rfl, ⟨_, rfl⟩, ⟨_, rfl⟩⟩

theorem witness_lock :
    lockState.glb.lock = true ∧ lockState.pwr.lockdown = false ∧ lockState.pwr.bound = .present ∧ ready.taking = true ∧
      bit (6 : Word) 0 = false ∧ (∃ t, step lockState = .next t) ∧
      ∀ rest, lockState.pending ≠ .pgoodFall :: rest ∧ lockState.pending ≠ .powerOnReset :: rest ∧
        lockState.pending ≠ .blockReset :: rest ∧ ∀ a b ok, lockState.pending ≠ .fuse a b ok :: rest :=
  ⟨rfl, rfl, rfl, by decide, by decide, ⟨_, rfl⟩, fun rest => by simp [lockState]⟩

/-! ### Boundary, resets and start-up -/

def offState : State := { State.reset with pwr := { State.reset.pwr with bound := .off, pgood := false, porstN := false } }
def inReset (porst : Bool) : State := { State.reset with pwr := { State.reset.pwr with bound := .inReset, porstN := porst } }

theorem witness_resets :
    ready.pwr.lockdown = false ∧ ready.pwr.bound ≠ .off ∧ (inReset true).pwr.bound = .inReset ∧
      lockdownState.pwr.lockdown = true ∧ offState.pwr.bound = .off ∧ ready.pwr.bound = .present ∧
      { ready.pwr with bound := .fusedAbsent }.bound = .fusedAbsent := by decide

def fuses : Fuses := { cal0 := 0x20140C, cal1 := 0x3404000000, cal2 := 3, cal3 := 4, sec := 1, key0 := List.replicate 48 1, key1 := List.replicate 48 2 }

theorem witness_fuse :
    (atStep 1).up = true ∧ (atStep 1).pwr.step = 1 ∧ ¬(fuses = { fuses with cal0 := 0 } ∧ true = true) ∧
      ¬(fuses = fuses ∧ false = true) ∧ (atStep 2).pwr.step ≠ 1 ∧ (Instr.fuse fuses fuses true).wf = true := by decide

/-- A boot image with one 64 B code block; its signature is nobody's. -/
def image : List Byte := ylvn ++ zeros 8 ++ leBytes 4 64 ++ zeros 48 ++ zeros 64 ++ zeros 256

def imageState : State := { atStep 5 with pur := { State.reset.pur with image := image.take 128, sig := image.drop 128 } }

/-- The image reads are over, with or without a failure, or one is still out. -/
def loading (data : List Byte) (out : Nat) (fail : Option (Option Nat)) : State :=
  { atStep 4 with now := 5000000, pur := { State.reset.pur with acc := some { image := true, data := data, out := out, fail := fail } } }

theorem witness_startup :
    (atStep 2).up = true ∧ (atStep 2).pwr.step = 2 ∧ (atStep 3).up = true ∧ (atStep 3).answersAbsent = false ∧
      (atStep 3).pwr.phase = .run ∧ (atStep 3).purWaits = false ∧ (loading image 0 none).up = true ∧
      (loading image 0 none).pur.acc.map (fun a => (a.isOver, a.fail)) = some (true, none) ∧ imageBad image = none ∧
      (atStep 6).up = true ∧ (atStep 6).pwr.step = 6 ∧ (atStep 2).pwr.clocked = true ∧ (atStep 5).pwr.step = 5 ∧
      (atStep 5).pwr.clocked = true ∧ (atStep 6).pwr.clocked = true ∧ (atStep 6).frozen = false := by decide +kernel

theorem witness_startup_fails :
    { atStep 2 with pwr := { (atStep 2).pwr with selfTest := true } }.up = true ∧ (1 : Fin 8) ≠ 0 ∧
      (loading image 0 (some (some 1))).pur.acc.map (fun a => a.fail.isSome) = some true ∧
      (loading image 2 none).pur.acc.map (fun a => (a.isOver, decide (a.at_ + 5000000 ≤ (loading image 2 none).now))) =
        some (false, true) ∧ imageBad (zeros 64) = some 3 ∧ imageBad (ylvn ++ zeros 60) = some 4 := by decide +kernel

theorem witness_verify_fails : verifyFails imageState.droop imageState.pur.image imageState.pur.sig = some 5 := by decide +kernel

/-- A public key, and its signature of the image's header and code and of the signature block's first 16 B, computed beside the model. -/
def pubkey : List Byte :=
  beBytes 96 0xfbf96095915eb587390f850ec95b35f618ae121c72a70808ad8f9f4c261b602b63541743e395f7c778e52bb28c18dc83016a6ff3f72c9368326ad50a3bd148a53cd2213bb480e4730ad019db87ae100995ec65df011e19811a15dc9ddfc9ab3c
def signed : List Byte :=
  beBytes 96 0x621f265ab6ed625cd60c8a892393c748caf8e5cee593b001fb9187b1b245791db1ff6487a69f0f3ed8e0ef57c3212ff5e8ca145dd8944ace03efb11e9d691447dba4fb82803da34a6cd4626efe61ce59bda55881eb96e88b5f11d59fdd2774fe

/-- A signature block of key 0. -/
def signature : List Byte := ysig ++ [0, 1] ++ zeros 2 ++ leBytes 4 0 ++ zeros 4 ++ pubkey ++ signed ++ zeros 48

/-- The factory values whose key 0 is that key. -/
def keyed : Droop := { State.reset.droop with key0 := sha384 pubkey }

theorem witness_verify : verifyFails keyed (image.take 128) signature = none := by decide +kernel

/-- The image with one bit changed verifies no more, nor does a revoked key, nor a version below the lowest. -/
theorem test_verify_refuses :
    verifyFails keyed ((image.take 128).set 100 1) signature = some 7 ∧
      verifyFails { keyed with sec := 1 } (image.take 128) signature = some 6 ∧
      verifyFails { keyed with sec := 0x100 } (image.take 128) signature = some 8 := by decide +kernel

/-- SHA-384 of the three letters abc, the example of its standard. -/
theorem test_sha384 :
    sha384 [0x61, 0x62, 0x63] = beBytes 48 0xcb00753f45a35e8bb5a03d699ac65007272c32ab0eded1631a8b605a43ff5bed8086072ba1e7cc2358baeca134c825a7 := by
  decide +kernel

/-! ### Hypotheses: the register port -/

def doze : State := { ready with pwr := { ready.pwr with phase := .doze, target := 1 } }

theorem witness_absent :
    offState.isPresent = false ∧ isWrite (.registerWrite 0x80 7) = true ∧ regAt (8 * (0x80 : BitVec 24).toNat) = some (.irqRoute 0) ∧
      lockdownState.isPresent = true ∧ lockdownState.pwr.lockdown = true ∧ fatalState.isPresent = true ∧
      fatalState.pwr.fatal = true ∧ fatalReg (.irqRoute 0) = false ∧ isWrite .pwrTargetDoze = true ∧
      ready.pwr.leftAt ≠ some ready.now ∧ { ready.pwr with leftAt := some 100000 }.leftAt = some ready.now ∧
      regAt (8 * (0x502 : BitVec 24).toNat) ≠ some (.capVal 0) := by decide

theorem witness_wakes :
    doze.isPresent = true ∧ doze.answersAbsent = false ∧ doze.pwr.phase = .doze ∧
      { doze.pwr with woke := some .fabric }.woke = some .fabric ∧ regAt (8 * (0xFFFFFF : BitVec 24).toNat) = none := by decide

theorem witness_lands :
    ready.taking = true ∧ regAt (8 * (0x402 : BitVec 24).toNat) = some (.tmrCmp 0) ∧
      regAt (8 * (0x47E : BitVec 24).toNat) = some (.tmrCmp 31) ∧ regAt (8 * (0x1F : BitVec 24).toNat) = none ∧ doze.up = true ∧
      doze.answersAbsent = false ∧ doze.pwr.phase = .doze ∧ doze.pwr.woke = none := by decide

/-! ### Hypotheses: bell and timers -/

/-- The block with its bell at a position, slaved and locked as told. -/
def bellAt (pos : Nat) (slave locked : Bool) : State :=
  { ready with bell := { ready.bell with pos := pos, locked := locked, ctl := if slave then ready.bell.ctl ||| 1 else ready.bell.ctl } }

/-- A locked bell that has rung at PERIOD + TOL without an edge so far. -/
def rang : State := { bellAt 0 true true with clk := { awaits := true } }

theorem witness_bell :
    (bellAt 4000 false false).bellRuns = true ∧ (bellAt 4000 false false).bell.locked = false ∧
      (bellAt 4000 false false).bell.period ≤ (bellAt 4000 false false).bell.pos ∧
      (bellAt 3992 true true).bell.slaved = true ∧
      (bellAt 3992 true true).bell.period ≤ (bellAt 3992 true true).bell.pos + (bellAt 3992 true true).bell.tol ∧
      (bellAt 3992 true true).bell.pos ≤ (bellAt 3992 true true).bell.period + (bellAt 3992 true true).bell.tol ∧
      (bellAt 4008 true true).bell.pos ≤ (bellAt 4008 true true).bell.period + (bellAt 4008 true true).bell.tol ∧
      (bellAt 4008 true true).bell.period + (bellAt 4008 true true).bell.tol ≤ (bellAt 4008 true true).bell.pos ∧
      (bellAt 2000 true false).bell.period / 2 ≤ (bellAt 2000 true false).bell.pos ∧
      (bellAt 3991 true true).bell.pos + (bellAt 3991 true true).bell.tol < (bellAt 3991 true true).bell.period ∧
      (bellAt 1999 true false).bell.pos < (bellAt 1999 true false).bell.period / 2 ∧ (bellAt 3992 true true).clk.awaits = false ∧
      rang.bellRuns = true ∧ rang.clk.awaits = true ∧ rang.bell.atEdge = false ∧ rang.bell.slaved = true ∧ rang.bell.locked = true ∧
      rang.bell.pos ≤ rang.bell.period + rang.bell.tol ∧ (bellAt 4008 true true).clk.awaits = false := by decide

/-- Counters 0 and 1 at their last value; the odd one chained or not. -/
def counters (chain : Bool) : State :=
  { ready with tmr := { ready.tmr with cnt := [(0, { ctl := 1, cnt := 0xFFFFFFFF }),
    (1, { ctl := if chain then 0x11 else 1, cnt := 6, cmp := 7 })] } }

theorem witness_counters :
    (counters true).timersRun = true ∧ ((counters true).counter 0).linkEv = 0 ∧ ((counters true).counter 1).linkEv = 0 ∧
      ((counters true).counter 0).chain = false ∧ ((counters true).counter 1).chain = true ∧
      ((counters false).counter 1).chain = false ∧ ((counters true).counter 0).expires = true ∧
      (((counters true).counter 1).run && ((counters true).counter 0).expires && ((counters true).counter 0).nextCnt == 0) = true ∧
      ((counters true).counter 0).cnt < 2 ^ 32 ∧ ((counters true).counter 1).cnt < 2 ^ 32 ∧
      (ready.counter 0).expires = false := by decide

/-- Capture input 2, enabled for rising edges of counter 3 with a divisor. -/
def captures (div count : Nat) (pending : Bool) : State :=
  { ready with tmr := { ready.tmr with cap := [(2, { ctl := BitVec.ofNat 64 (0x301 + div * 2 ^ 24), divcnt := count, pending })] } }

/-- The input with a filter of four bus clocks, sampled high for the first time. -/
def filtering : State := { ready with tmr := { ready.tmr with cap := [(2, { ctl := 0x020301, yAt := ready.now })] } }

theorem witness_captures :
    (captures 1 1 true).capsRun = true ∧ ((captures 1 1 true).capture 2).en = true ∧ ((captures 1 1 true).capture 2).level ≠ true ∧
      ((captures 1 1 true).capture 2).qualifies true = true ∧
      ((captures 1 1 true).capture 2).divcnt = ((captures 1 1 true).capture 2).div ∧
      ((captures 1 1 true).capture 2).pending = true ∧ ((captures 1 0 false).capture 2).divcnt < ((captures 1 0 false).capture 2).div ∧
      ((captures 0 0 false).capture 2).divcnt = ((captures 0 0 false).capture 2).div ∧
      (((captures 0 0 false).capture 2).en && ((captures 0 0 false).capture 2).qualifies false) = false ∧
      ready.taking = true ∧ (ready.capture 2).en = false ∧ ready.clk.cnt = [] ∧ ready.clk.cap = [] ∧ ready.clk.took = [] ∧
      ready.answersAbsent = false ∧ ready.flt.waiting = [] ∧ (captures 1 1 true).clk.took = [] ∧
      ((captures 1 1 true).capture 2).filter ≤ (captures 1 1 true).now + 1 - (captures 1 1 true).levelSince 2 true ∧
      filtering.capsRun = true ∧ filtering.now + 1 - filtering.levelSince 2 true < (filtering.capture 2).filter := by decide

/-! ### Hypotheses: power, droop and calibration, debug -/

def entering (quiesced : Bool) (target : Nat) : State :=
  { ready with pwr := { ready.pwr with phase := .entering, quiesced := quiesced, target := target, waitFrom := 1 } }

def waking (target : Nat) : State :=
  { ready with
    pwr := { ready.pwr with phase := .waking, target := target }, hold := [(5, 1)], engs := [(3, { halted := true })] }

theorem witness_power :
    ready.up = true ∧ ready.pwr.phase = .run ∧ (entering false 1).up = true ∧ (entering false 1).pwr.quiesced = false ∧
      (entering true 1).pwr.quiesced = true ∧ (entering false 2).quiescent = true ∧ { ready with glb := { ready.glb with ccGo := true } }.quiescent = false ∧ { doze.pwr with woke := some .register }.woke = some .register ∧ (entering true 2).pwr.held = none ∧
      (entering true 2).pwr.waitFrom + 32000 ≤ (entering true 2).now ∧ (entering true 2).pwr.exitWait = false ∧
      { doze.pwr with timeHeld := true }.timeHeld = true ∧ doze.pwr.woke = none ∧ (waking 1).pwr.later = [] ∧ ready.answersAbsent = false ∧ doze.up = true ∧
      { ready with fabs := [(0, { linkup := true })] }.fabs.any (fun p => p.2.linkup) = true ∧ (waking 2).up = true ∧
      (waking 2).pwr.phase = .waking ∧ (waking 2).pwr.target = 2 ∧ (waking 1).pwr.target ≠ 2 := by decide

def exitWait : State := { ready with pwr := { ready.pwr with exitWait := true, timeHeld := true, exitFrom := 68000 } }

theorem witness_reckoning :
    exitWait.isPresent = true ∧ exitWait.pwr.exitWait = true ∧ exitWait.pwr.exitFrom + 32000 ≤ exitWait.now ∧
      exitWait.bell.running = true := by decide

/-- A READY block with its trims at level bells and at the clock step given. -/
def stepped (step good : Nat) : State :=
  { ready with droop := { ready.droop with
      loaded := true, step := step, good := good, trims := [1, -1, 2, -2, 3, 0], turn := 5, bells := 4096, recheck := 65536 } }

theorem witness_droop :
    (stepped 1 499).droopRuns = true ∧ (stepped 1 499).droop.step ≠ 0 ∧ (stepped 1 499).droop.railGood = true ∧
      499 ≤ (stepped 1 499).droop.good ∧ 4096 ≤ (stepped 1 499).droop.bells ∧ (stepped 1 499).droop.turn < 6 ∧
      (stepped 1 499).taking = true ∧ (stepped 1 499).pwr.step = 7 ∧ 65536 ≤ (stepped 1 499).droop.recheck ∧
      (stepped 1 499).frozen = false ∧ (stepped 1 499).pwr.clocked = true ∧ (stepped 1 499).written 0x8028 = none ∧
      { stepped 1 499 with clk := { wrote := [(0x8028, 5)] } }.written 0x8028 = some 5 ∧ (stepped 1 499).droop.step ≤ 3 ∧
      { (stepped 0 0).droop with rail := 0, vref := 1000 }.tripped 1 = true ∧ 1 ∉ (stepped 0 0).droop.on ∧
      0 < { (stepped 0 0).droop with rail := 0, vref := 1000 }.deepest ∧ (stepped 0 0).droop.tripped 1 = false ∧
      125 < (126 : BitVec 8).toInt ∧ ¬125 < (stepped 1 499).pwr.temp.toInt ∧ (2 : Nat) < (3 : Int).natAbs := by decide

def calibrated : State := { atStep 3 with droop := (stepped 0 0).droop }

theorem witness_offsets : calibrated.droopRuns = true ∧ calibrated.taking = true ∧ calibrated.pwr.step = 3 := by decide

theorem witness_debug :
    ready.isPresent = true ∧ ready.taking = true ∧ ready.glb.lock = false ∧ { lockState with pending := [] }.taking = true ∧
      { ready with glb := { ready.glb with halt := true, freeze := true } }.frozen = true := by decide

/-! ### Hypotheses: fragments, requests, memory-port data -/

/-- A COPY of 64 B between addresses of its instance, at width 64 B on both sides, VALID with LAP 1. -/
def copyRaw (src dst : Nat) : List Byte :=
  leBytes 8 0x66000103 ++ leBytes 8 src ++ leBytes 8 dst ++ leBytes 8 64 ++ zeros 32

/-- A WRITE_IMM of 8 B to 0x2000. -/
def immRaw : List Byte := leBytes 8 0x60000703 ++ leBytes 8 0x2000 ++ leBytes 8 8 ++ leBytes 8 0x1122334455667788 ++ zeros 32

def entry (raw : List Byte) : Entry := { seq := 0, slot := 0, lap := true, raw := raw, gen := 1 }

/-- Queue 1 of instance 1, firm, with the entries given. -/
def ring (es : List Entry) : Queue :=
  { inst := 1, lnum := 0, cluster := 0, strict := false, firm := true, prio := 3, depth := 4, k := 4, n := 3, base := 0x10000
    enable := true, head := es.length, state := .polling, due := 100000, entries := es, nextSeq := es.length }

/-- The first GiB of instance 1. -/
def page : CacheEnt := { inst := 1, leaf := { va := 0, log2 := 30, pa := 0x40000000, r := true, w := true, rmt := true } }

/-- The block with queue 1 and its chart cached. -/
def work (es : List Entry) : State := { ready with queues := [(1, ring es)], cc := [page] }

/-- The fragment of a one-fragment entry in each of its phases. -/
def assigned (raw : List Byte) : State := doDispatch 0 (work [entry raw])
def localCopy : State := assigned (copyRaw 0x1000 0x2000)
def reading : State := doAdmission 1 localCopy

def beatOf (b : Byte) : RBeat :=
  { tag := { inst := 1, gen := 1, slot := 0 }, data := List.replicate 64 b, bad := [], stat := 0, last := true }

def staged : State := reading.beat 0 (beatOf 0xA5)
def writing : State := doWriteStart 1 [] staged
def drained : State := doWriteData 0 .good writing

theorem witness_dispatch :
    (work [entry (copyRaw 0x1000 0x2000)]).newWork = true ∧
      ((work [entry (copyRaw 0x1000 0x2000)]).dispatchChoice 0).map (fun f => (f.len, f.src.isSome)) = some (64, true) ∧
      ((work [entry immRaw]).dispatchChoice 0).map (fun f => (f.len, f.src.isSome)) = some (8, false) ∧
      ready.dispatchChoice 0 = none := by decide +kernel

/-- The fragment of a state that has one. -/
def only (s : State) : Frag :=
  match s.frags with
  | f :: _ => f
  | [] => { id := 0, ctx := .chan 0, pos := 0, len := 0, src := none, dst := none, swap := 0, inst := 0, gen := 0, cluster := 0,
            charge := .firm }

/-- The first write or read request waiting of the fragment, in a list. -/
def poor : State := { localCopy with
  insts := [(0, { tenant with gen := 0 }), (1, { tenant with leftF := [], leftS := [] })]
  frags := localCopy.frags.map (fun f => { f with resv := 4 }) }
def unmapped : State := { localCopy with cc := [], walked := [{ ctx := .frag 1, va := 0x1000, leaf := none, cause := 1 }] }
def missing : State := { localCopy with cc := [] }
def faraway : State := assigned (copyRaw (5 * 2 ^ 54 + 0x1000) 0x2000)

theorem witness_admission :
    localCopy.issues = true ∧ localCopy.countAllWaits.frag? 1 = some (only localCopy) ∧ (only localCopy).phase = .assigned ∧
      localCopy.countAllWaits.admitCheck (only localCopy) = .go .firm ∧ (only localCopy).src ≠ none ∧
      (localCopy.countAllWaits.sideReqs (only localCopy) false).length = 1 ∧ (localCopy.countAllWaits.ownTurn (only localCopy)).isSome = true ∧
      poor.countAllWaits.frag? 1 = some (only poor) ∧ (only poor).phase = .assigned ∧ poor.countAllWaits.admitCheck (only poor) = .giveBack ∧
      unmapped.countAllWaits.frag? 1 = some (only unmapped) ∧ unmapped.countAllWaits.admitCheck (only unmapped) = .xfail false 1 ∧
      missing.countAllWaits.frag? 1 = some (only missing) ∧ missing.countAllWaits.admitCheck (only missing) = .wait := by decide +kernel

theorem witness_admission_far :
    faraway.issues = true ∧ faraway.countAllWaits.frag? 1 = some (only faraway) ∧ (only faraway).phase = .assigned ∧
      faraway.countAllWaits.admitCheck (only faraway) = .noLink false := by decide +kernel

theorem witness_write_start :
    staged.issues = true ∧ staged.countAllWaits.frag? 1 = some (only staged) ∧ (only staged).phase = .staged ∧
      (only staged).wrReqs.length = 1 ∧ (staged.countAllWaits.ownTurn (only staged)).isSome = true ∧ (only staged).wport = none ∧
      (assigned immRaw).countAllWaits.frag? 1 = some (only (assigned immRaw)) ∧ (only (assigned immRaw)).phase = .assigned ∧
      (only (assigned immRaw)).src = none ∧
      { staged with frags := [{ only staged with halted := true }] }.countAllWaits.ownTurn { only staged with halted := true } = none := by
  decide +kernel

def pollReq : CtlReq :=
  { owner := .poll 1, write := false, inst := 1, gen := 1, addr := 0x40010000, va := 0x10000, bytes := 64, width := 6, cls := .top
    data := [] }

def txMsg : TxMsg := { cls := .top, resp := true, cluster := 0, firm := true, msg := { node := 2, hdr := zeros 64, flits := [] } }

/-- A poll waits on memory port 0 and a response on fabric port 1. -/
def offers : State := { work [] with ports := [(0, { ctl := [pollReq] })], fabs := [(1, { linkup := true, tx := [txMsg] })] }

theorem witness_arbiter :
    offers.issues = true ∧
      offers.countAllWaits.arbChoice (.mem 0) = some { rank := 0, who := 17, what := .ctl 0 pollReq } ∧
      ready.arbChoice (.mem 0) = none ∧ offers.countAllWaits.ctlDest pollReq = .mem ∧ pollReq.owner ≠ .pur ∧
      loggedOwner pollReq.owner = false ∧
      offers.countAllWaits.arbChoice (.fab 1) = some { rank := 0, who := 8, what := .tx txMsg } ∧
      (offers.fab 0).linkup = false := by decide +kernel

theorem witness_beat :
    reading.up = true ∧ (beatOf 0xA5).tag.slot.toNat ∉ (reading.port 0).oldRd ∧
      (∀ r ∈ (localCopy.port 0).rd, r.slot ≠ (beatOf 0xA5).tag.slot.toNat) ∧
      (reading.port 0).rd.find? (fun r => r.slot == (beatOf 0xA5).tag.slot.toNat) = (reading.port 0).rd.head? ∧
      (∀ r ∈ (reading.port 0).rd, (beatOf 0xA5).data.length = 2 ^ r.width ∧ r.first = true ∧ r.owner = .frag 1 ∧
        r.due ≤ (beatOf 0xA5).data.length) ∧ (reading.port 0).rd.length = 1 ∧
      (beatOf 0xA5).tag.gen.toNat = (reading.inst (beatOf 0xA5).tag.inst.toNat).gen ∧ reading.frag? 1 = some (only reading) ∧
      (only reading).dead = false ∧ reading.inReset 1 = false ∧ reading.isContained 1 = false ∧ (only reading).halted = false ∧ (only reading).srcErr = none ∧
      reading.written (cluErrOff 0) = none ∧ (∀ j, j < 64 → ∀ k, k < 64 → swapOff (only reading).swap 0 j = swapOff (only reading).swap 0 k → j = k) := by
  decide +kernel

theorem witness_write_data :
    writing.up = true ∧ writing.frag? 1 = some (only writing) ∧ (writing.port 0).wq.length = 1 ∧
      (∀ w ∈ (writing.port 0).wq, w.owner = .frag 1) ∧ drained.frag? 1 = some (only drained) ∧
      (drained.port 0).wr.map (fun w => (w.slot, w.owner)) = [(1024, .frag 1)] ∧ (drained.port 0).wq = [] ∧
      (1 : BitVec 16).toNat = (drained.inst 1).gen ∧ 1024 ∉ (drained.port 0).oldWr ∧
      writing.written (cluErrOff 0) = none ∧ (only writing).cluster = 0 ∧ drained.written (cluErrOff 0) = none ∧
      1 < { only drained with wrOut := 2 }.wrOut := by decide +kernel

/-! ### Hypotheses: accesses that no engine carries -/

/-- A MAN_COPY with a source manifest of one record at 0x3000 and a linear destination at 0x2000. -/
def manRaw : List Byte :=
  leBytes 8 0x66000503 ++ leBytes 8 0x3000 ++ leBytes 8 0x2000 ++ leBytes 4 1 ++ zeros 8 ++ [2] ++ zeros 27

def manWork : State := work [entry manRaw]

theorem witness_record :
    manWork.newWork = true ∧ manWork.queue? 1 = some (ring [entry manRaw]) ∧
      (ring [entry manRaw]).next = some (entry manRaw) ∧ (ring [entry manRaw]).susp = false ∧ manWork.active 1 = true ∧
      manWork.admits (.queue 1) = true ∧ opcode manRaw = 5 ∧ manNext manRaw 0 {} {} = .needs true false ∧
      (∀ x ∈ (ring [entry manRaw]).entries, (x.side false).reading = none) ∧
      (ring [entry manRaw]).entry? 0 = some (entry manRaw) ∧ manWork.canCharge 1 0 true 3 16 [] = some .firm ∧
      manWork.busy (.man 1 0 false) = false ∧ (entry manRaw).stop = none ∧
      manWork.xlate (.man 1 false) 1 (recAddr manRaw false 0) false = .ok 0x40003000 := by decide +kernel

/-- The record read waits on port 0. -/
def manWaits : State := doRecRead 1 false manWork

theorem witness_record_grant :
    manWaits.issues = true ∧
      (manWaits.countAllWaits.arbChoice (.mem 0)).map (fun o => match o.what with
        | .ctl 0 r => (r.owner, r.write, manWaits.countAllWaits.ctlDest r,
            manWaits.countAllWaits.ctlCost r)
        | _ => (.pur, true, .mem, .free)) = some (.man 1 0 false, false, .mem, .costs .firm) := by decide +kernel

theorem witness_chart :
    missing.issues = true ∧ missing.missOf (.frag 1) = some (1, 0x1000, 0, .top) ∧ missing.inReset 1 = false ∧
      isNewCtx (.frag 1) = false ∧ missing.walks = [] ∧
      (doChartRead (.frag 1) missing).missOf (.frag 1) = some (1, 0x1000, 0, .top) ∧
      (doChartRead (.frag 1) missing).walks.map (fun w => (w.ctx, w.va, w.busy)) = [(.frag 1, 0x1000, true)] := by decide +kernel

/-- Queue 1 changed. -/
def withRing (f : Queue → Queue) : State := { work [] with queues := [(1, f (ring []))] }
def due : State := withRing (fun q => { q with waiting := true })

theorem witness_polls :
    (work []).newWork = true ∧ (work []).pollsRun = true ∧ ready.polls = true ∧ { ready with pwr := { ready.pwr with phase := .doze } }.pollsRun = false ∧
      (work []).queue? 1 = some (ring []) ∧ (ring []).state = .polling ∧ (ring []).due ≤ (work []).age ∧
      (work []).age < { ring [] with due := 100001 }.due ∧ due.polls = true ∧ due.pollAt ≤ due.age ∧
      due.pollChoice = some (1, { ring [] with waiting := true }) ∧ (ring []).poll = false ∧
      (ring []).entries.length < (ring []).depth ∧ due.active 1 = true ∧ due.busy (.poll 1) = false ∧
      due.xlate (.poll 1) 1 ((ring []).slotAddr 0) false = .ok 0x40010000 ∧
      (withRing (fun q => { q with waiting := true, due := 99999 })).pollChoice.map (·.2.due) = some 99999 := by decide +kernel

/-- The poll of queue 1 is outstanding. -/
def polled (strict : Bool) : State :=
  doGrant (.mem 0) [] (doPollIssue (withRing (fun q => { q with waiting := true, strict := strict })))

def slotBeat (raw : List Byte) : RBeat :=
  { tag := { inst := 1, gen := 1, slot := 0 }, data := raw, bad := [], stat := 0, last := true }

/-- An entry of no opcode, and one of the last lap. -/
def badRaw : List Byte := leBytes 8 0x903 ++ zeros 56
def oldRaw : List Byte := leBytes 8 0x1 ++ zeros 56

theorem witness_poll_response :
    (polled true).up = true ∧ (polled true).port 0 = (polled false).port 0 ∧
      0 ∉ ((polled true).port 0).oldRd ∧ ((polled true).port 0).rd.map (fun r => (r.slot, r.owner, r.width)) = [(0, .poll 1, 6)] ∧
      (slotBeat oldRaw).data.length = 2 ^ 6 ∧ (1 : BitVec 16).toNat = ((polled true).inst 1).gen ∧
      (polled true).queue? 1 = some { ring [] with waiting := false, poll := true, strict := true } ∧
      (polled false).queue? 1 = some { ring [] with waiting := false, poll := true } ∧
      hbit (copyRaw 0x1000 0x2000) 0 = true ∧ hbit (copyRaw 0x1000 0x2000) 1 = (ring []).lap ∧
      malformed (1 == 0) (polled true).node (copyRaw 0x1000 0x2000) = 0 ∧ hbit oldRaw 1 ≠ (ring []).lap ∧
      ((1 : Nat) == 0 && (polled true).adminStays) = false ∧ (ring []).drop = false ∧ hbit badRaw 0 = true ∧ hbit badRaw 1 = (ring []).lap ∧ malformed (1 == 0) (polled true).node badRaw = 0x40 := by
  decide +kernel

def halted (cause : Nat) : State := withRing (fun q => { q with state := .halted, haltRaw := badRaw, err := { valid := true, cause := cause } })

theorem witness_queue_control :
    (work []).taking = true ∧ (work []).pwr.clocked = true ∧ { work [] with pwr := { ready.pwr with phase := .waking } }.taking = true ∧
      { work [] with pwr := { ready.pwr with phase := .waking } }.pwr.clocked = false ∧ (work []).exists_ 1 = true ∧ (work []).inReset 1 = false ∧
      (work []).localQueue 1 0 = some (1, ring []) ∧ (ring []).dying = false ∧
      (withRing (fun q => { q with state := .off })).localQueue 1 0 = some (1, { ring [] with state := .off }) ∧
      (halted 0).taking = true ∧ ((halted 0).localQueue 1 0).map (fun p => (p.1, p.2.state)) = some (1, .halted) ∧
      ((halted 1).localQueue 1 0).map (fun p => p.2.err.cause) = some 1 := by decide +kernel

/-- A NOP. -/
def nop : Entry := entry (leBytes 8 0x3 ++ zeros 56)

def record : EvRec := { code := 0x10, src := 1, glass := 5, load := zeros 24, port := 2, queue := none }

/-- Instance 1 with an event record, an MSI write due and an event ring of 256 records. -/
def ringing (lost : Nat) : State :=
  { work [] with insts := [(0, { tenant with gen := 0 }), (1, { tenant with
      evtEn := true, sizeM := 7, evtBase := 0x8000, evWait := if lost = 0 then [record] else [], lost := lost, tail := 3
      msiTrig := some (0, none), msiAddr := 0x9000, msiData := 7 })] }

theorem witness_own_writes :
    (work [nop]).issues = true ∧ (work [nop]).queue? 1 = some (ring [nop]) ∧
      (ring [nop]).entries.find? (fun e => (work [nop]).ovrReady 1 (ring [nop]) e) = some nop ∧
      (ring [nop]).entry? 0 = some nop ∧ (work [nop]).busy (.ovr 1 0) = false ∧
      (work [nop]).xlate (.ovr 1 0) 1 ((ring [nop]).slotAddr 0) true = .ok 0x40010000 ∧ (ringing 0).issues = true ∧
      ((ringing 0).inst 1).evWait = [record] ∧ ((ringing 0).inst 1).evOut = none ∧ ((ringing 0).inst 1).evtEn = true ∧ ((ringing 0).inst 1).ackAt ≠ some (ringing 0).now ∧
      (ringing 0).inReset 1 = false ∧ (ringing 0).busy (.evt 1) = false ∧
      (ringing 0).xlate (.evt 1) 1 ((ringing 0).inst 1).recAddr true = .ok 0x40008060 ∧
      ((ringing 0).inst 1).msiTrig = some (0, none) ∧ ((ringing 0).inst 1).msiOut = false ∧ (ringing 0).busy (.msi 1) = false ∧
      nodeOf ((ringing 0).inst 1).msiAddr.toNat = (ringing 0).node ∧
      (ringing 0).xlate (.msi 1) 1 ((ringing 0).inst 1).msiAddr.toNat true = .ok 0x40009000 := by decide +kernel

theorem witness_event_ring :
    ready.taking = true ∧ ready.exists_ 1 = true ∧ (ready.inst 1).evtEn = false ∧ bit (0x701 : Word) 0 = true ∧
      bit (0x800 : Word) 0 = false ∧ (ringing 0).taking = true ∧ ((ringing 0).inst 1).unread = 3 ∧
      fld (3 : Word) 16 0 < 2 ^ (((ringing 0).inst 1).sizeM + 1) ∧ (ringing 2).lostDue 1 = true := by decide +kernel

/-! ### Hypotheses: channels and engines -/

/-- A channel with 256 B to move in bursts of 64 B at widths of 8 B. -/
def channel (owner : Nat) : Chan := { owner := owner, src := 0x1000, dst := 0x2000, remain := 256, cfg := 0x01400198 }

/-- Channel 5 changed. -/
def withChan (owner : Nat) (f : Chan → Chan) : State := { work [] with chans := [(5, f (channel owner))] }

/-- The channel after its shadow set, filled, has been taken. -/
def shadowed : Chan :=
  { channel 1 with state := .linkwait, shSrc := 0x3000, shDst := 0x2000, shLen := 64, shCfg := (channel 1).cfg }.promoted
    ((withChan 1 id).chKept 5)

def burst (phase : FPhase) : Frag :=
  { id := 1, ctx := .chan 5, pos := 0, len := 64, src := none, dst := none, swap := 0, inst := 1, gen := 1, cluster := 0
    charge := .firm, phase := phase }

theorem witness_channels :
    (withChan 0 id).taking = true ∧ (withChan 0 id).pwr.clocked = true ∧
      { channel 1 with state := .linkwait, shLen := 64 }.state = .linkwait ∧
      badTransfer 0 0 64 (channel 1).cfg 0 = false ∧ ((withChan 0 id).chan 5).owner = 0 ∧ (withChan 1 id).shown 1 (5 % 64) = some 5 ∧
      (withChan 1 id).inReset 1 = false ∧ (channel 1).state = .idle ∧ (withChan 1 id).isContained 1 = false ∧
      (channel 1).remain ≠ 0 ∧
      badTransfer (channel 1).src (channel 1).dst (channel 1).remain (channel 1).cfg (channel 1).next = false ∧
      (channel 1).holding = false ∧ badTransfer 0x1001 (channel 1).dst (channel 1).remain (channel 1).cfg 0 = true ∧
      ((withChan 0 (fun x => { x with state := .active })).chan 5).state ≠ .idle ∧ (channel 1).shValid = false ∧
      (channel 1).fetch = false ∧ (channel 1).awaits = false ∧ (withChan 1 id).chKept 5 0x40 = false ∧
      { withChan 1 id with clk := { wrote := [(chOff 5 0x40, 3)] } }.chKept 5 0x40 = true ∧
      badTransfer shadowed.src shadowed.dst shadowed.remain shadowed.cfg shadowed.next = false ∧ shadowed.src = 0x3000 ∧
      (withChan 1 (fun x => { x with state := .active, fetch := true, rose := some 100000 })).now = 100000 := by decide

theorem witness_stop :
    ((withChan 1 (fun x => { x with state := .paused })).chan 5).state = .paused ∧
      ((withChan 1 (fun x => { x with state := .active })).chan 5).state = .active ∧
      (∀ f ∈ (withChan 1 id).frags, f.ctx ≠ .chan 5) ∧ (burst .writing).ctx = .chan 5 ∧ (burst .writing).writes = true ∧
      bit (channel 1).ctl 15 = false ∧ bit { channel 1 with ctl := 0x8000 }.ctl 15 = true ∧ (channel 1).susp = false := by decide

/-- A linked channel, paced by its level, with its link at 0x4000 and its transfer half way. -/
def linked (fetch : Bool) : State :=
  withChan 1 (fun x => { x with
    ctl := 1, high := 4, low := 1, cfg := x.cfg ||| 0x80000, next := 0x4000, state := .armed, fetch := fetch, fetchAt := 90000 })

theorem witness_levels :
    (linked false).up = true ∧ (linked false).pwr.phase = .run ∧ ((linked false).chan 5).state = .armed ∧
      bit ((linked false).chan 5).ctl 0 = true ∧ ((linked false).chan 5).gateAt 4 = true ∧
      ((linked false).chan 5).gateAt 1 = false ∧ (linked false).newWork = true ∧ (linked false).mayFetch 1 = true ∧
      (linked false).admits (.chan 5) = true ∧ (linked false).infl 5 = 0 ∧ ((linked false).chan 5).wantsFetch = true ∧
      (linked false).canCharge 1 (5 / 64) (bit ((linked false).chan 5).ctl 11) (fld ((linked false).chan 5).ctl 14 12) 32
        ((linked false).linkSpan 5) = some (.soft 0) ∧ (linked false).busy (.link 5) = false ∧
      nodeOf ((linked false).chan 5).next.toNat = (linked false).node ∧
      (linked false).xlate (.link 5) 1 ((linked false).chan 5).next.toNat false = .ok 0x40004000 ∧
      ((linked true).chan 5).fetch = true ∧ fld (linked true).glb.chgLinkTmo 19 0 ≠ 0 ∧
      ((linked true).chan 5).fetchAt + fld (linked true).glb.chgLinkTmo 19 0 ≤ (linked true).age ∧
      ((linked true).chan 5).awaits = false := by decide +kernel

/-- Engine 3 halted, with a byte of its own and one of the next engine in the hold. -/
def engine (clearing : Bool) : State :=
  { ready with engs := [(3, { halted := true, clearing := clearing, clearAt := 99488 })], hold := [(3 * 131072, 1), (4 * 131072, 2)] }

theorem witness_engines :
    (engine false).taking = true ∧ (engine false).engHalted 3 = true ∧ ((engine false).eng 3).clearing = false ∧
      (engine false).engHalted 4 = false ∧ (engine true).up = true ∧ ((engine true).eng 3).clearing = true ∧
      ((engine true).eng 3).clearAt + 512 ≤ (engine true).now ∧ (engine true).pwr.clocked = true ∧ (engine true).clk.wrote = [] ∧
      (engine false).clk.sets = [] ∧ (engine false).pwr.holdsOff = false ∧
      { engine false with pwr := { ready.pwr with phase := .waking, target := 2 } }.taking = true ∧
      { ready.pwr with phase := .waking, target := 2 }.holdsOff = true := by decide

/-! ### Hypotheses: the Purser -/

/-- The 64 B of a command: opcode, INST, OBJ, OP, K, N, ADDR, ADDR2, QF and LEN; D is 4, CLU is 1. -/
def cmdRaw (op inst obj sub k n addr addr2 qf len : Nat) : List Byte :=
  leBytes 8 (0x3 + 256 * op) ++ leBytes 2 inst ++ leBytes 2 obj ++ leBytes 1 sub ++ leBytes 1 k ++ leBytes 1 n ++ [4] ++
    leBytes 8 addr ++ leBytes 8 addr2 ++ zeros 2 ++ [1] ++ leBytes 1 qf ++ leBytes 4 len ++ zeros 24

def cmd (raw : List Byte) : Cmd := { src := .mailbox 2, raw := raw, start := 0 }

/-- A state whose Purser executes a command. -/
def executing (s : State) (raw : List Byte) : State := { s with pur := { s.pur with cur := some (cmd raw) } }

/-- Requests in mailboxes 2 and 5; an admin queue with a QUERY. -/
def queryRaw : List Byte := cmdRaw 0x80 1 0 0 0 0 0x4000 0 0 0
def submitted (raw : List Byte) : State := { ready with mbs := [(2, { busy := true, sub := some raw }), (5, { busy := true, sub := some queryRaw })] }
def admin : State := { ready with queues := [(0, { ring [entry queryRaw] with inst := 0 })] }

theorem witness_command_start :
    ready.taking = true ∧ ready.pur.state = 3 ∧ (ready.mb 2).busy = false ∧ ((submitted queryRaw).mb 2).busy = true ∧
      (submitted queryRaw).purRuns = true ∧ (submitted queryRaw).pur.cur = none ∧ (submitted queryRaw).pwr.phase = .run ∧
      (submitted queryRaw).nextMb = some (2, queryRaw) ∧ opcode queryRaw ∈ cmdOpcodes ∧
      opcode (cmdRaw 0x86 0 0 0 0 0 0 0 0 0) ∉ cmdOpcodes ∧ admin.purRuns = true ∧ admin.nextMb = none ∧
      admin.queue? 0 = some { ring [entry queryRaw] with inst := 0 } ∧
      [entry queryRaw].find? (fun e => !e.started) = some (entry queryRaw) ∧ (entry queryRaw).bad = 0 ∧
      (entry queryRaw).ended = 0 ∧ (ring [entry queryRaw]).fenceMet (entry queryRaw) = true ∧
      ready.pur.accAt ≠ some ready.now ∧ { ready.pur with accAt := some 100000 }.accAt = some ready.now ∧
      State.reset.purRuns = false := by decide +kernel

theorem witness_completion :
    (zeros 32).length ≤ 32 ∧ (cmd queryRaw).src = .mailbox 2 ∧ { cmd queryRaw with src := .queue 0 }.src = .queue 0 := by decide

/-- The Purser's access: over, with or without a failure, or with requests outstanding. -/
def accessing (s : State) (data : List Byte) (out : Nat) (fail : Option (Option Nat)) : State :=
  { s with pur := { s.pur with acc := some { data := data, out := out, fail := fail } } }

/-- Whether the access of a state is over, its failure, and its bytes. -/
def accessOf (s : State) : Option (Bool × Option (Option Nat) × Nat) := s.pur.acc.map (fun a => (a.isOver, a.fail, a.data.length))

/-- A state with the first GiB of instance 0 in the chart cache. -/
def cached0 (s : State) : State := { s with cc := [{ page with inst := 0 }] }

/-- A QUERY of OP 0 to 3. -/
def query (op : Nat) : State := executing ready (cmdRaw 0x80 1 0 op 0 0 0x4000 0 0 0)

theorem witness_query :
    (∀ op, op < 4 → (query op).purRuns = true ∧ (query op).pur.cur = some (cmd (cmdRaw 0x80 1 0 op 0 0 0x4000 0 0 0)) ∧
      opcode (cmdRaw 0x80 1 0 op 0 0 0x4000 0 0 0) = 0x80 ∧ cOp (cmdRaw 0x80 1 0 op 0 0 0x4000 0 0 0) = op) ∧
      cInst (cmdRaw 0x80 1 0 1 0 0 0x4000 0 0 0) < 1024 ∧ (query 1).exists_ 1 = true ∧
      nodeOf (cAddr (cmdRaw 0x80 1 0 1 0 0 0x4000 0 0 0)) = (query 1).node ∧
      localOf (cAddr (cmdRaw 0x80 1 0 1 0 0 0x4000 0 0 0)) % 64 = 0 := by decide +kernel

theorem witness_query_access :
    (query 1).pur.acc = none ∧ (query 1).purWaits = false ∧
      (cached0 (query 1)).xlate .pur 0 (cAddr (cmdRaw 0x80 1 0 1 0 0 0x4000 0 0 0)) true = .ok 0x40004000 ∧
      accessOf (accessing (query 1) (zeros 136) 0 none) = some (true, none, 136) ∧
      accessOf (accessing (query 2) (zeros 128) 0 (some (some 1))) = some (true, some (some 1), 128) ∧
      (accessing (query 2) (zeros 128) 0 (some (some 1))).memErrHalts = false ∧
      accessOf (accessing (query 2) (zeros 128) 1 none) = some (false, none, 128) := by decide +kernel

/-- A share record of one unit of soft budget in cluster 0. -/
def shareRec : List Byte := shareBytes { share with f := [], s := [1], e := [], h := [], ro := [], ri := [], cmax := 1, ccs := 1 }
def creating : State := executing ready (cmdRaw 0x81 2 0 0 0 0 0x4000 0x100000 0 0)
def setting : State := executing ready (cmdRaw 0x85 1 0 0 0 0 0x4000 0 0 0)

theorem witness_shares :
    creating.purRuns = true ∧ opcode (cmdRaw 0x81 2 0 0 0 0 0x4000 0x100000 0 0) = 0x81 ∧
      cInst (cmdRaw 0x81 2 0 0 0 0 0x4000 0x100000 0 0) = 2 ∧ cAddr (cmdRaw 0x81 2 0 0 0 0 0x4000 0x100000 0 0) = 0x4000 ∧
      cAddr2 (cmdRaw 0x81 2 0 0 0 0 0x4000 0x100000 0 0) = 0x100000 ∧ nodeOf 0x4000 = creating.node ∧ localOf 0x4000 % 8 = 0 ∧
      nodeOf 0x100000 = creating.node ∧ localOf 0x100000 % 4096 = 0 ∧ shareRec.length = 128 ∧ shareOk shareRec 2 = [] ∧
      creating.pur.acc = none ∧
      accessOf (accessing creating shareRec 0 none) = some (true, none, 128) ∧ creating.led.plan = none ∧ creating.exists_ 2 = false ∧
      (creating.books.setShare 2 (shareOf shareRec 2)).checks 2 0x11 = [] ∧
      setting.purRuns = true ∧ opcode (cmdRaw 0x85 1 0 0 0 0 0x4000 0 0 0) = 0x85 ∧ setting.exists_ 1 = true ∧
      setting.pur.defer = [] ∧ shareOk shareRec 1 = [] ∧
      (setting.books.setShare 1 (shareOf shareRec 1)).checks 1 0x11 = [] := by decide +kernel

/-- A command on instance 1, which has queue 1 and a fragment in flight. -/
def instCmd (op sub : Nat) (st : InstState) : State :=
  executing { localCopy with insts := [(0, { tenant with gen := 0 }), (1, { tenant with state := st })] } (cmdRaw op 1 0 sub 0 0 0 0 0 0)

theorem witness_instances :
    (instCmd 0x83 0 .active).purRuns = true ∧ (instCmd 0x83 0 .active).pur.cur = some (cmd (cmdRaw 0x83 1 0 0 0 0 0 0 0 0)) ∧
      cInst (cmdRaw 0x83 1 0 0 0 0 0 0 0 0) = 1 ∧ (instCmd 0x83 0 .active).exists_ 1 = true ∧
      (instCmd 0x83 0 .active).pur.defer = [] ∧ opcode (cmdRaw 0x83 1 0 0 0 0 0 0 0 0) = 0x83 ∧
      opcode (cmdRaw 0x82 1 0 0 0 0 0 0 0 0) = 0x82 ∧ (cOp (cmdRaw 0x84 1 0 0 0 0 0 0 0 0)).testBit 0 = false ∧
      (cOp (cmdRaw 0x84 1 0 1 0 0 0 0 0 0)).testBit 0 = true ∧ ((instCmd 0x84 0 .active).inst 1).state = .active ∧
      ((instCmd 0x84 1 .suspended).inst 1).state = .suspended := by decide +kernel

theorem inst_canon : (instCmd 0x83 0 .active).Canon := by
  constructor <;> first | exact ready_sev | (show List.Pairwise _ _; decide +kernel) | decide +kernel

/-- Queue commands: a ring of 16 slots at 0x40000 polled every 2^8 × 32 bus clocks, QF a soft queue of priority 2. -/
def queueCmd (op obj sub qf : Nat) (f : Queue → Queue) : State := executing (withRing f) (cmdRaw op 1 obj sub 4 8 0x40000 0x100000 qf 0)
def queueRaw (op obj sub qf : Nat) : List Byte := cmdRaw op 1 obj sub 4 8 0x40000 0x100000 qf 0
def adminInit : State := executing ready (queueRaw 0xF0 0 0 0)

theorem witness_admin_init :
    adminInit.purRuns = true ∧ opcode (queueRaw 0xF0 0 0 0) = 0xF0 ∧ (cmd (queueRaw 0xF0 0 0 0)).byQueue = false ∧
      ringOk (queueRaw 0xF0 0 0 0) false = [] ∧ newQueueOk (queueRaw 0xF0 0 0 0) = [] ∧
      adminInit.ringBaseOk (queueRaw 0xF0 0 0 0) = [] ∧ nodeOf (cAddr2 (queueRaw 0xF0 0 0 0)) = adminInit.node ∧
      localOf (cAddr2 (queueRaw 0xF0 0 0 0)) % 4096 = 0 ∧ adminInit.queue? 0 = none ∧
      ({ adminInit.books with queues := adminInit.books.queues ++ [(0, newQueue (queueRaw 0xF0 0 0 0) 0 0 true false 7 0 true)] } :
        Books).checks 0 0x13 = [] := by decide +kernel

theorem witness_queue_create (qf : Nat) (h : qf = 4 ∨ qf = 0x64) :
    (queueCmd 0x88 3 0 qf id).purRuns = true ∧ opcode (queueRaw 0x88 3 0 qf) = 0x88 ∧ cInst (queueRaw 0x88 3 0 qf) = 1 ∧
      cObj (queueRaw 0x88 3 0 qf) = 3 ∧ (queueCmd 0x88 3 0 qf id).exists_ 1 = true ∧ (queueCmd 0x88 3 0 qf id).pur.defer = [] ∧
      (queueCmd 0x88 3 0 qf id).localQueue 1 3 = none ∧ (queueCmd 0x88 3 0 qf id).isContained 1 = false ∧
      (queueCmd 0x88 3 0 qf id).inReset 1 = false ∧ ringOk (queueRaw 0x88 3 0 qf) ((cQf (queueRaw 0x88 3 0 qf)).testBit 5) = [] ∧
      newQueueOk (queueRaw 0x88 3 0 qf) = [] ∧ (queueCmd 0x88 3 0 qf id).ringBaseOk (queueRaw 0x88 3 0 qf) = [] ∧
      (queueCmd 0x88 3 0 qf id).freeQueue = 2 ∧
      ({ (queueCmd 0x88 3 0 qf id).books with queues := (queueCmd 0x88 3 0 qf id).books.queues ++
        [(2, newQueue (queueRaw 0x88 3 0 qf) 1 3 false false 2 0 true)] } : Books).checks 1 0x13 = [] := by
  rcases h with rfl | rfl <;> decide +kernel

theorem witness_queue_commands :
    (queueCmd 0x89 0 1 0 id).localQueue 1 0 = some (1, ring []) ∧ opcode (queueRaw 0x89 0 1 0) = 0x89 ∧
      (cOp (queueRaw 0x89 0 1 0)).testBit 0 = true ∧ cN (queueRaw 0x89 0 1 0) ≤ 24 ∧ (ring []).state ≠ .fenced ∧
      ({ (queueCmd 0x89 0 1 0 id).books with queues := tabSet (queueCmd 0x89 0 1 0 id).books.queues 1 { ring [] with n := 8 } } :
        Books).checks 1 0x13 = [] ∧
      (cOp (queueRaw 0x89 0 0 0)).testBit 0 = false ∧ ringOk (queueRaw 0x89 0 0 0) true = [] ∧
      (queueCmd 0x89 0 0 0 (fun q => { q with state := .off })).qIdle 1 { ring [] with state := .off } = true ∧
      opcode (queueRaw 0x8B 0 0 0) = 0x8B ∧ opcode (queueRaw 0x8C 0 1 0) = 0x8C ∧
      ((queueCmd 0x8C 0 1 0 (fun q => { q with state := .off })).queues.filter (fun q => q.2.strict)).length < 256 ∧
      (queueCmd 0x8C 0 0 0 (fun q => { q with state := .off, strict := true })).localQueue 1 0 =
        some (1, { ring [] with state := .off, strict := true }) ∧ opcode (queueRaw 0x8A 0 0 0) = 0x8A := by decide +kernel

def binding : State := executing ready (cmdRaw 0x90 1 5 0 0 0 0 0 0 0)
def unbinding : State := executing (withChan 1 id) (cmdRaw 0x91 1 5 0 0 0 0 0 0 0)

theorem witness_bind :
    binding.purRuns = true ∧ cObj (cmdRaw 0x90 1 5 0 0 0 0 0 0 0) = 5 ∧ (binding.chan 5).state = .idle ∧
      opcode (cmdRaw 0x90 1 5 0 0 0 0 0 0 0) = 0x90 ∧ (binding.chan 5).owner = 0 ∧ binding.exists_ 1 = true ∧
      binding.pur.defer = [] ∧ binding.isContained 1 = false ∧ binding.inReset 1 = false ∧
      binding.bound 1 + 1 ≤ (binding.inst 1).led.cmax ∧ (unbinding.chan 5).state = .idle ∧ (unbinding.chan 5).owner ≠ 0 ∧
      unbinding.purRuns = true ∧ opcode (cmdRaw 0x91 1 5 0 0 0 0 0 0 0) = 0x91 := by decide +kernel

/-- LOG_CTL on instance 1, logged or not. -/
def logCmd (op : Nat) (log : Bool) : State :=
  executing { ready with insts := [(0, { tenant with gen := 0 }), (1, { tenant with log := log, logBase := 0x40000, logLen := 4096 })] }
    (cmdRaw 0x98 1 0 op 0 0 0x40000 0 0 4096)

/-- A plan with no record for glass 9, with its CRC. -/
def planBare : List Byte := [1, 0, 8, 0] ++ leBytes 4 4000 ++ leBytes 8 9 ++ zeros 48
def planRec : List Byte := putBytes planBare 20 (leBytes 4 (crc32c 0 planBare))
def planning : State := executing ready (cmdRaw 0xA0 0 0 0 0 0 0x4000 0 0 64)
def cancelling : State :=
  executing { ready with led := { ready.led with plan := some (planOf planRec 5) } } (cmdRaw 0xA0 0 0 1 0 0 0 0 0 0)

theorem witness_logs :
    (logCmd 1 false).purRuns = true ∧ opcode (cmdRaw 0x98 1 0 1 0 0 0x40000 0 0 4096) = 0x98 ∧ (logCmd 1 false).exists_ 1 = true ∧
      (logCmd 1 false).pur.defer = [] ∧ (logCmd 1 false).swapping 1 = false ∧ ((logCmd 1 false).inst 1).log = false ∧
      cLen (cmdRaw 0x98 1 0 1 0 0 0x40000 0 0 4096) = 4096 ∧ nodeOf (cAddr (cmdRaw 0x98 1 0 1 0 0 0x40000 0 0 4096)) = ready.node ∧
      localOf (cAddr (cmdRaw 0x98 1 0 1 0 0 0x40000 0 0 4096)) % 4096 = 0 ∧ ((logCmd 0 true).inst 1).log = true ∧
      cOp (cmdRaw 0x98 1 0 0 0 0 0x40000 0 0 4096) = 0 ∧ cOp (cmdRaw 0x98 1 0 2 0 0 0x40000 0 0 4096) = 2 := by decide +kernel

theorem witness_plans :
    planning.purRuns = true ∧ opcode (cmdRaw 0xA0 0 0 0 0 0 0x4000 0 0 64) = 0xA0 ∧ planRec.length = 64 ∧
      cLen (cmdRaw 0xA0 0 0 0 0 0 0x4000 0 0 64) = 64 ∧ planning.led.plan = none ∧ planning.pur.acc = none ∧
      accessOf (accessing planning planRec 0 none) = some (true, none, 64) ∧
      planning.planOk planRec 64 = [] ∧
      (planning.booksNow.after (planOf planRec planning.bell.glass)).pools = [] ∧
      cancelling.purRuns = true ∧ cancelling.led.plan ≠ none ∧ cancelling.booksNow.pools = [] ∧ (cOp (cmdRaw 0xA0 0 0 1 0 0 0 0 0 0)).testBit 0 = true := by decide +kernel

/-- One deferred command on instance 1. -/
def deferred (op sub : Nat) (f : Inst → Inst) : State :=
  { withRing (fun q => { q with state := .off }) with
    insts := [(0, { tenant with gen := 0 }), (1, f tenant)]
    pur := { ready.pur with defer := [{ src := .mailbox 2, raw := cmdRaw op 1 0 sub 0 0 0 0 0 0, inst := 1, at_ := 4 }] } }

theorem witness_deferred :
    (deferred 0x84 0 (fun x => { x with state := .suspending })).purRuns = true ∧
      (deferred 0x84 0 (fun x => { x with state := .suspending })).quiet 1 = true ∧
      ((deferred 0x84 0 (fun x => { x with state := .suspended })).inst 1).state = .suspended ∧
      ((deferred 0x98 1 (fun x => { x with log := true })).inst 1).log = true ∧
      ((deferred 0x98 1 (fun x => { x with log := true })).inst 1).logNext = none ∧
      (deferred 0x8A 0 id).localQueue 1 0 = some (1, { ring [] with state := .off }) ∧
      (deferred 0x8A 0 id).qIdle 1 { ring [] with state := .off } = true ∧
      (∀ x ∈ (deferred 0x8A 0 id).pur.defer, opcode x.raw ≠ 0x82) := by decide +kernel

theorem witness_supervision :
    (query 0).up = true ∧ (query 0).pur.state = 3 ∧ (cmd queryRaw).late = false ∧
      (cmd queryRaw).start + 500 * execBound queryRaw < (query 0).age := by decide +kernel

/-! ### Hypotheses: settling, invalidations, the logbook -/

/-- Instance 1 settles in a state, with a channel of its own; `out` leaves a write of it outstanding on port 0. -/
def settling (st : InstState) (out : Bool) : State :=
  { withChan 1 id with
    insts := [(0, { tenant with gen := 0 }), (1, { tenant with state := st, settling := true, stopAt := 90000, settle := 90000 })]
    glb := { ready.glb with settleTmo := 1 }
    ports := if out then [(0, { wr := [{ slot := 1024, inst := 1, gen := 1, owner := .frag 7, addr := 0x2000, bytes := 64, at_ := 80000 }] })]
      else [] }

theorem witness_settle :
    (settling .resetting false).up = true ∧ (settling .resetting false).frozen = false ∧ (settling .resetting false).pwr.clocked = true ∧
      (settling .resetting false).inReset 1 = true ∧ (settling .resetting false).settled 1 = true ∧
      (settling .resetting false).pur.state = 3 ∧ ((settling .containing false).inst 1).state = .containing ∧
      (settling .containing false).settled 1 = true ∧ (settling .resetting true).settled 1 = false ∧
      ((settling .resetting true).port 0).wr.find? (fun w => w.slot == (1024 : BitVec 14).toNat) =
        some { slot := 1024, inst := 1, gen := 1, owner := .frag 7, addr := 0x2000, bytes := 64, at_ := 80000 } ∧
      ((settling .resetting true).inst 1).settling = true ∧ (settling .resetting true).waitsFor 1 (.frag 7) 80000 = true ∧
      fld (settling .resetting true).glb.settleTmo 19 0 ≠ 0 ∧
      ((settling .resetting true).inst 1).settle + 500 * fld (settling .resetting true).glb.settleTmo 19 0 ≤
        (settling .resetting true).age := by decide +kernel

def invalidating (frags : List Nat) : State := { localCopy with glb := { ready.glb with ccGo := true, ccFrags := frags } }

theorem witness_invalidation :
    localCopy.taking = true ∧ localCopy.glb.ccGo = false ∧ (invalidating []).taking = true ∧ (invalidating []).glb.ccGo = true ∧
      (invalidating []).pwr.clocked = true ∧ { invalidating [] with pwr := { ready.pwr with phase := .waking } }.taking = true ∧
      { localCopy with clk := { wrote := [(0x808, 2 ^ 63)] } }.goAgain 0x808 ≠ none ∧ (invalidating []).goAgain 0x808 = none ∧
      (invalidating []).up = true ∧ (∀ p ∈ (invalidating []).ports, p.2.rd = [] ∧ p.2.wr = []) ∧
      (∀ p ∈ (invalidating []).fabs, p.2.slots = []) ∧ (∀ f ∈ (invalidating []).frags, f.id ∉ (invalidating []).glb.ccFrags) ∧
      (∃ f ∈ (invalidating [1]).frags, f.id ∈ (invalidating [1]).glb.ccFrags) := by decide +kernel

/-- A line of the logbook that is queued for its flush. -/
def logLine : LogLine := { inst := 1, line := 2, base := 0x40000, bits := [3, 500], since := 90000, queued := true }
def logging : State := { ready with
  insts := [(0, { tenant with gen := 0 }), (1, { tenant with log := true, logBase := 0x40000, logLen := 4096 })], logc := [logLine] }
def swapping : State := { ready with glb := { ready.glb with swapGo := true, swapOld := some (1, 0x40000) } }

/-- A write of before the bell of the swap is still outstanding. -/
def swapWait : State :=
  { swapping with
    ports := [(0, { wr := [{ slot := 1024, inst := 1, gen := 1, owner := .frag 7, addr := 0x2000, bytes := 64, at_ := 80000 }] })]
    glb := { swapping.glb with swapOuts := [(1024, 80000)] } }

theorem witness_logbook_wait :
    swapWait.glb.swapOld = some (1, 0x40000) ∧ (1024, 80000) ∈ swapWait.writesOut 1 ∧ (1024, 80000) ∈ swapWait.glb.swapOuts ∧
      swapWait.taking = true ∧ swapWait.glb.swapGo = true := by decide +kernel

theorem witness_logbook :
    logging.issues = true ∧ logging.flushChoice = some logLine ∧ ready.flushChoice = none ∧ logging.taking = true ∧
      logging.glb.swapGo = false ∧ logging.exists_ (fld (0x80001 : Word) 9 0) = true ∧
      (logging.inst (fld (0x80001 : Word) 9 0)).log = true ∧ logging.logPending (fld (0x80001 : Word) 9 0) = false ∧
      swapping.up = true ∧ swapping.glb.swapOld = some (1, 0x40000) ∧ swapping.writesOut 1 = [] ∧ swapping.pwr.clocked = true ∧ swapping.goAgain 0xC40 = none ∧ swapping.taking = true ∧
      swapping.logBusy 1 0x40000 = false := by decide +kernel

/-! ### Hypotheses: the span -/

/-- A span header: type, status, length, address and tag in the places of R364, at width 64 B. -/
def hdr (ty st len addr tag : Nat) : List Byte :=
  leBytes 1 ty ++ leBytes 1 st ++ [6, 0] ++ leBytes 2 len ++ zeros 2 ++ leBytes 8 addr ++ leBytes 8 tag ++ zeros 40

def message (h : List Byte) (n : Nat) : InMsg :=
  { port := 1, src := 2, hdr := h, hdrOk := true, flits := List.replicate n { data := List.replicate 64 0x5A, bad := [] }
    buffer := true }

/-- The span is open for node 2 to the first 64 KiB. -/
def spanOpen : State :=
  { ready with
    glb := { ready.glb with spanCtl := 0x10000, spanAllow := [(0, 4)], winBase := [(0, 7)], winLim := [(0, 0xF000)] }
    gls := { ready.gls with inbLeft := eight 4096 } }

theorem witness_inbound :
    spanOpen.receives = true ∧ hType (message (hdr 1 0 128 0x1000 9) 0).hdr = 1 ∧
      spanOpen.inCheck (message (hdr 1 0 128 0x1000 9) 0) false = 0 ∧ hType (message (hdr 2 0 128 0x1000 9) 2).hdr = 2 ∧
      spanOpen.inCheck (message (hdr 2 0 128 0x1000 9) 2) true = 0 ∧
      spanOpen.inCheck { message (hdr 2 0 128 0x1000 9) 2 with buffer := false } true = 7 ∧
      spanOpen.inCheck (message (hdr 1 0 128 0x10000 9) 0) false = 4 ∧ ready.receives = true ∧
      ready.inCheck (message (hdr 1 0 0 0x1000 9) 0) false = 6 := by decide +kernel

/-- A read of 128 B for node 2, with its data. -/
def served (out : Nat) : Inb :=
  { id := 3, port := 1, src := 2, hdr := hdr 1 0 128 0x1000 9, write := false, cluster := 1, reqs := [], out := out
    data := List.replicate 128 7, firm := true }

theorem witness_inbound_response :
    { ready with inbs := [served 0] }.up = true ∧
      { ready with inbs := [served 0] }.inbs.find? (fun b => b.id == 3) = some (served 0) ∧ (served 0).reqs = [] ∧
      (served 0).out = 0 ∧ (served 0).bad = none ∧ (served 1).out ≠ 0 := by decide

/-- A request of fragment 1 of queue 1 on slot 4 of fabric port 1, to node 2. -/
def slot (write : Bool) (busy : Option Nat) : FSlot :=
  { idx := 4, epoch := 6, node := 2, inst := 1, gen := 1, owner := .frag 1, write := write, addr := 2 * 2 ^ 54 + 0x1000, bytes := 64
    off := 0, sent := 50000, tmo := 100, msg := { node := 2, hdr := zeros 64, flits := [] }, cls := .top, cluster := 0
    busyAt := busy }

/-- The fragment of a state in the phase of its remote request, which is outstanding. -/
def remote (write : Bool) (busy : Option Nat) : State :=
  { (if write then staged else reading) with
    fabs := [(1, { linkup := true, seen := true, slots := [slot write busy], epochs := [(4, 6)] })]
    frags := [{ only (if write then staged else reading) with
      rdOut := if write then 0 else 1, wrOut := if write then 1 else 0, phase := if write then .writing else .reading, wrReqs := [] }] }

def tagOf : Nat := 6 * 2 ^ 40 + 2 ^ 14 + 2 ^ 9 + 4

theorem witness_remote (write : Bool) :
    (remote write none).receives = true ∧
      hType (message (hdr (rspType write) 0 64 0x1000 tagOf) 1).hdr = rspType write ∧
      (remote write none).matchSlot (message (hdr (rspType write) 0 64 0x1000 tagOf) 1) = some (slot write none) ∧
      rspFlits write 0 64 = (if write then 0 else 1) ∧ rspFlits write 5 64 = 0 ∧
      hStatus (hdr (rspType write) 7 64 0x1000 tagOf) = 7 ∧
      hTag (hdr (rspType write) 0 64 0x1000 tagOf) / 2 ^ 14 % 65536 = ((remote write none).inst 1).gen ∧
      (remote write none).frag? 1 = some (only (remote write none)) ∧ (only (remote write none)).dead = false ∧
      (only (remote write none)).srcErr = none ∧
      (remote write none).matchSlot (message (hdr (rspType write) 0 64 0x1000 (tagOf + 1)) 1) = none ∧
      (remote write none).written (spanStatOff 1) = none ∧ hLen (hdr (rspType write) 0 64 0x1000 tagOf) = 64 ∧
      hTag (hdr (rspType write) 0 64 0x1000 (tagOf + 2 ^ 14)) / 2 ^ 14 % 65536 ≠ ((remote write none).inst 1).gen ∧
      ((remote write none).matchSlot (message (hdr (rspType write) 0 64 0x1000 (tagOf + 2 ^ 14)) 1)).isSome = true := by
  cases write <;> decide +kernel

theorem witness_span_timers :
    (remote false (some 99000)).up = true ∧ (remote false (some 99000)).frozen = false ∧
      ((remote false (some 99000)).fab 1).slots.find? (fun l => l.idx == 4) = some (slot false (some 99000)) ∧
      99000 ≤ (remote false (some 99000)).age ∧ (remote false none).age < 100001 ∧
      (List.range 4).flatMap (fun f => (((remote false none).fab f).slots.filter
        (fun l => decide (l.sent + 500 * l.tmo ≤ (remote false none).age))).map (fun l => (f, l))) = [(1, slot false none)] ∧
      (remote false none).written (spanStatOff 1) = none ∧ offState.isPresent = false ∧ (∀ p ∈ ready.ports, p.2.ctl = []) ∧
      (remote false none).isPresent = true ∧ ((remote false none).fab 1).seen = true ∧
      ((remote false none).fab 1).linkup ≠ false ∧
      hType (message (hdr 3 0 64 0 0) 0).hdr ∉ [0x01, 0x02, 0x81, 0x82] ∧
      hType (message (hdr 0x82 0 64 0 0) 0).hdr ∈ [0x01, 0x02, 0x81, 0x82] ∧
      { message (hdr 3 0 64 0 0) 0 with hdrOk := false }.hdrOk = false := by decide +kernel

/-! ### Hypotheses: faults -/

/-- A state in which source 8 has a class, and a record may be open. -/
def graded (sev : Nat) (open_ : Bool) : State :=
  { localCopy with flt := { ready.flt with srcs := [(8, { sev := sev })], open_ := open_, cls := 3, source := 20 } }

theorem witness_detection :
    (graded 2 false).collects = true ∧ (graded 2 false).flt.waiting = [] ∧ detection.source < 80 ∧
      srcLevel detection.source = false ∧ detection.present = true ∧ (graded 2 false).injEvent = none ∧
      (graded 2 false).injHeld = none ∧ (graded 2 false).written 0x4830 = none ∧ 2 = (graded 2 false).effClass detection false ∧
      (graded 2 false).flt.minclass ≤ 2 ∧ (graded 4 true).flt.open_ = true ∧ 4 = (graded 4 true).effClass detection false ∧
      (graded 4 true).flt.alarmMinclass ≤ 4 ∧ (graded 4 true).isolated = false ∧ 5 = (graded 5 false).effClass detection false ∧
      1 = (graded 1 false).effClass detection false ∧ 1 < (graded 1 false).flt.minclass := by decide +kernel

theorem witness_controls :
    ready.isPresent = true ∧ ready.answersAbsent = false ∧ ready.pwr.lockdown = false ∧ ready.pwr.phase = .run ∧
      { ready with flt := { ready.flt with min := 1 } }.flt.min = 1 ∧ ready.flt.min ≠ 1 ∧ ready.taking = true ∧
      ready.glb.lock = false ∧ bit ready.glb.injCtl 1 = false ∧ lockState.taking = true ∧ lockState.glb.lock = true ∧
      bit { ready.glb with injCtl := 0x402 }.injCtl 1 = true ∧ ready.frozen = false ∧
      { ready with glb := { ready.glb with halt := true, freeze := true } }.frozen = true := by decide

/-- The scrubber is due, and has bank 7 in its turn. -/
def scrubbing : State := { ready with flt := { ready.flt with due := true, scrubOn := true, bank := 7 }, hold := [(7 * 65536, 1)] }

theorem witness_scrub :
    scrubbing.isPresent = true ∧ scrubbing.pwr.clocked = true ∧ scrubbing.frozen = false ∧ scrubbing.flt.due = true ∧ scrubbing.flt.scrubOn = true ∧
      scrubbing.bankMode (scrubbing.flt.bank / 2) (scrubbing.flt.bank % 2) = 0 ∧ ready.flt.due = false ∧
      { scrubbing with engs := [(3, { halted := true })] }.bankMode 3 1 ≠ 0 := by decide

/-! ### Operands that no port can carry -/

/-- Each check of WellFormed.lean refuses an operand of a wrong length, or a source the block does not have. -/
theorem test_ill_formed :
    (Instr.fuse { fuses with key0 := zeros 47 } fuses true).wf = false ∧ (Instr.fuse fuses { fuses with key1 := [] } true).wf = false ∧
      (Instr.readBeat 0 { beatOf 0 with data := zeros 3 }).wf = false ∧ (Instr.pollResponse 0 { beatOf 0 with bad := [64] }).wf = false ∧
      (Instr.fuse { fuses with cal0 := 0 } { fuses with cal0 := 0 } true).wf = false ∧
      (Instr.faultDetection [{ detection with source := 80 }]).wf = false := by decide +kernel

def oddMessage (hdr flit : Nat) (bad : List Nat) : InMsg :=
  { port := 0, src := 0, hdr := zeros hdr, hdrOk := true, flits := [{ data := zeros flit, bad }], buffer := true }

theorem test_ill_formed_messages :
    (Instr.rdReq (oddMessage 63 64 [])).wf = false ∧ (Instr.wrReq (oddMessage 64 65 [])).wf = false ∧
      (Instr.rdRsp (oddMessage 64 64 [64])).wf = false ∧ (Instr.wrRsp (oddMessage 0 64 [])).wf = false ∧
      (Instr.strayMessage (oddMessage 64 0 [])).wf = false := by decide +kernel

theorem test_ill_formed_refused :
    step (queued ready [.wrReq (oddMessage 64 65 [])]) = .refused .illFormed ∧
      step (queued ready [.faultDetection [{ detection with source := 80 }]]) = .refused .illFormed := by
  constructor <;> rfl

/-! ### The spec's own examples -/

/-- 12_timers.md, "a 100 ms Sleep": x, E and FRAC. -/
theorem test_sleep_arithmetic : 3277 * 1953125 + 40 = 128 * 50003052 + 9 := by decide

/-- The same example: the bell. -/
theorem test_sleep_bell :
    let b := ({ State.reset.bell with running := true, pos := 1500, glass := 12000 }.makeUp 50003052)
    b.glass = 24501 ∧ b.pos = 552 := by decide +kernel

/-- The same example: counter 4, which wraps at 19,999. -/
theorem test_sleep_counter :
    let x : Tmr := { ctl := 0x000A1101, cnt := 1000, cmp := 19999, phase := 300 }
    let t := (x.makeUpClocks true 50003052).1
    t.cnt = 9831 ∧ t.phase = 408 ∧ t.hit = true ∧ t.ovf = true := by decide +kernel

/-- The same example: the chained pair 0. -/
theorem test_sleep_pair :
    let p := pairMakeUp { ctl := 1, cnt := 0xFFF00000, cmp := 0xFFFFFFFF } { ctl := 0x11, cnt := 7, cmp := 0 } true true 50003052
    p.1.cnt = 0x02EAFC6C ∧ p.1.hit = true ∧ p.1.ovf = true ∧ p.2.cnt = 8 := by decide +kernel

/-- 06_entries_and_manifests.md, "a diagonal move": the rows run 3, 2, 1, 0. -/
def diagonal : List Byte :=
  leBytes 8 0x0000005166050303 ++ leBytes 8 0x01000000 ++ leBytes 8 0x01000E00 ++ leBytes 4 3072 ++ leBytes 4 4 ++ leBytes 4 4096 ++
    leBytes 4 4096 ++ zeros 24

theorem test_diagonal :
    malformed false 0 diagonal = 0 ∧ fragCount diagonal = 4 ∧ reversed diagonal = true ∧
      (cutAt diagonal 0).src = 0x01000000 + 12288 ∧ (cutAt diagonal 0).dst = 0x01000000 + 15872 ∧
      (shape false false 6 (cutAt diagonal 0).src 3072).map (fun c => c.bytes) = List.replicate 12 256 := by decide +kernel

/-- 03_engines_and_hold.md, "a big-endian receive FIFO": the requests of a fragment. -/
theorem test_fifo :
    (shape false true 2 0x5000 65536).length = 256 ∧ (shape false false 6 0x10000 65536).length = 256 := by decide +kernel

/-- 13_power_and_bringup.md, "power-on of node 5": what TLT_ID reads at release. -/
theorem test_tlt_id : (atStep 1).regRead 0 = 0x0CE0812808100100 := by decide +kernel

/-! ### One step each -/

/-- CRC-32C of the nine digits, the check value of its definition (R134). -/
theorem test_crc : crc32c 0 [0x31, 0x32, 0x33, 0x34, 0x35, 0x36, 0x37, 0x38, 0x39] = 0xE3069283 := by decide +kernel

/-- A COPY writes the bytes it read (R120). -/
theorem test_copy_moves_bytes :
    ((drained.port 0).lastBeat.map (fun b => b.data)) = some (List.replicate 64 0xA5) := by decide +kernel

/-- B32 turns each word of four bytes around (R133). -/
theorem test_swap : swapBytes 2 [1, 2, 3, 4, 5, 6, 7, 8] = [4, 3, 2, 1, 8, 7, 6, 5] := by decide +kernel

/-- A free bell rings after its last position and begins the next glass (R66). -/
theorem test_bell_rings :
    (doBell (bellAt 4000 false false)).bell.glass = 6 ∧ (doBell (bellAt 4000 false false)).bell.pos = 0 := by decide +kernel

/-- A register keeps the bits it has from the next bus clock on (R450), and the lock keeps a guarded one (R496). -/
theorem test_register_write :
    (tick (ready.regWrite (8 * 0x402) 0x123456789)).regRead (8 * 0x402) = 0x23456789 ∧
      (ready.regWrite (8 * 0x102) 7).regRead (8 * 0x102) = 7 ∧ (lockState.regWrite (8 * 0x102) 7).regRead (8 * 0x102) ≠ 7 := by decide +kernel

/-- A block in reset answers nothing and shows Off on its power-state outputs. -/
theorem test_off_pins : offState.ttPstate = 3 ∧ offState.ttAlarmN = true ∧ offState.ttLockdown = false := by decide +kernel

end Sys2Proof.Tests
end

section
/-! SUPPORT. One lemma for all commands: what `Keeps` says of the operations holds of every command but the ones that reset
the block or load its fuses. -/

namespace Sys2Proof.Machine

open Sys2Proof

/-- The commands that may take back what `Keeps` says: the power, the two resets, and the load of the fuses. -/
def takesBack : Instr → Bool
  | .pgoodFall => true
  | .powerOnReset => true
  | .blockReset => true
  | .fuse _ _ _ => true
  | _ => false

theorem ite_keeps {a s t : State} {p : Prop} [Decidable p] (hs : Keeps a s) (ht : Keeps a t) :
    Keeps a (if p then s else t) := by
  split
  · exact hs
  · exact ht

/-- What holds of the state that a command computes holds of the one it answers. -/
theorem Keeps.of_next {s t u : State} (h : (.next u : Result) = .next t) (k : Keeps s u) : Keeps s t := by
  cases h
  exact k

/-- A write that the register port carries. -/
theorem write_keeps {c : Instr} {s t : State} (hc : isWrite c = true) (h : exec c s = .next t) : Keeps s t := by
  have k : Keeps s s := Keeps.rfl_
  cases c with
  | startCtlLoad => exact .of_next h (State.portWrite_keeps k _ _ (State.steer_keeps k _ _ (State.startLoad_keeps k)))
  | registerWrite => exact .of_next h (State.regWrite_keeps k ..)
  | glbCtlLock => exact .of_next h (State.portWrite_keeps k _ _ (State.writeReg_keeps k ..))
  | engCtlRelease => exact .of_next h (State.portWrite_keeps k _ _ (doRelease_keeps k ..))
  | qctlEnableSet => exact .of_next h (State.pageWrite_keeps k _ _ (State.setEnable_keeps k ..))
  | qctlEnableClear => exact .of_next h (State.pageWrite_keeps k _ _ (State.setEnable_keeps k ..))
  | qctlRetry => exact .of_next h (State.pageWrite_keeps k _ _ (State.setRelease_keeps k ..))
  | qctlSkip => exact .of_next h (State.pageWrite_keeps k _ _ (State.setRelease_keeps k ..))
  | evtCtlWrite => exact .of_next h (State.pageWrite_keeps k _ _ (State.writeEvtCtl_keeps k ..))
  | evtHeadWrite => exact .of_next h (State.pageWrite_keeps k _ _ (State.writeHead_keeps k ..))
  | chStart => exact .of_next h (State.chWrite_keeps k _ _ _ _ (State.writeChCmd_keeps k ..) k)
  | chStop => exact .of_next h (State.chWrite_keeps k _ _ _ _ (State.writeChCmd_keeps k ..) (State.writeChCmd_keeps k ..))
  | chLoad => exact .of_next h (State.chWrite_keeps k _ _ _ _ (State.writeChCmd_keeps k ..) k)
  | chDrop => exact .of_next h (State.chWrite_keeps k _ _ _ _ (State.writeChCmd_keeps k ..) k)
  | chPauseSet => exact .of_next h (State.chWrite_keeps k _ _ _ _ (State.writePause_keeps k ..) k)
  | chPauseClear => exact .of_next h (State.chWrite_keeps k _ _ _ _ (State.writePause_keeps k ..) k)
  | mbCtlGo => exact .of_next h (State.portWrite_keeps k _ _ (State.mbCtl_keeps k ..))
  | ccInvGo => exact .of_next h (State.portWrite_keeps k _ _ (State.ccInvalidate_keeps k ..))
  | logSwapGo => exact .of_next h (State.portWrite_keeps k _ _ (doLogSwap_keeps k ..))
  | frecClose => exact .of_next h (State.portWrite_keeps k _ _ (State.closeRecord_keeps (Keeps.flds k rfl rfl rfl rfl rfl rfl rfl)))
  | injGo => exact .of_next h (State.portWrite_keeps k _ _ (State.writeInj_keeps k ..))
  | injHold => exact .of_next h (State.portWrite_keeps k _ _ (State.writeInj_keeps k ..))
  | tmrCntWrite => exact .of_next h (State.portWrite_keeps k _ _ (State.writeCnt_keeps k ..))
  | capEnable => exact .of_next h (State.portWrite_keeps k _ _ (State.enableCap_keeps k ..))
  | pwrTargetDoze => exact .of_next h (State.portWrite_keeps k _ _ (State.writeTarget_keeps k ..))
  | pwrTargetSleep => exact .of_next h (State.portWrite_keeps k _ _ (State.writeTarget_keeps k ..))
  | pwrTargetRun => exact .of_next h (State.portWrite_keeps k _ _ (State.writeTarget_keeps k ..))
  | calOfsWrite => exact .of_next h (State.portWrite_keeps k _ _ (State.writeOfs_keeps k ..))
  | dbgCtlFreeze => exact .of_next h (State.portWrite_keeps k _ _ (ite_keeps k (State.setFreeze_keeps k _)))
  | _ => cases hc

/-- Any other command but a reset, the power and the load of the fuses. -/
theorem exec_keeps {c : Instr} {s t : State} (hc : takesBack c = false) (h : exec c s = .next t) : Keeps s t := by
  have k : Keeps s s := Keeps.rfl_
  cases c with
  | pgoodFall => cases hc
  | powerOnReset => cases hc
  | blockReset => cases hc
  | fuse => cases hc
  | resetRelease => exact .of_next h (doRelease__keeps k ..)
  | meminit => exact .of_next h (doMeminit_keeps k ..)
  | load => exact .of_next h (doLoad_keeps k ..)
  | verify => exact .of_next h (doVerify_keeps k ..)
  | fwinit => exact .of_next h (doFwinit_keeps k ..)
  | absenceResponder => exact .of_next h (doAccess_keeps k ..)
  | rpTmo => exact .of_next h (doRpTmo_keeps k ..)
  | bell => exact .of_next h (doBell_keeps k ..)
  | bellInEdge => exact .of_next h (doEdge_keeps k ..)
  | bellMiss => exact .of_next h (doMiss_keeps k ..)
  | bellAcquire => exact .of_next h (doAcquire_keeps k ..)
  | dispatchAssign => exact .of_next h (doDispatch_keeps k ..)
  | admission => exact .of_next h (doAdmission_keeps k ..)
  | fragmentWriteStart => exact .of_next h (doWriteStart_keeps k ..)
  | readBeat => exact .of_next h (State.beat_keeps k ..)
  | writeDataAccept => exact .of_next h (doWriteData_keeps k ..)
  | writeAck => exact .of_next h (doWriteAck_keeps k ..)
  | manifestRecordRead => exact .of_next h (doRecRead_keeps k ..)
  | chartRead => exact .of_next h (doChartRead_keeps k ..)
  | engineClearDone => exact .of_next h (doClearDone_keeps k ..)
  | pollDue => exact .of_next h (State.pollDue_keeps k ..)
  | pollIssue => exact .of_next h (doPollIssue_keeps k ..)
  | pollResponse => exact .of_next h (ite_keeps (State.beat_keeps k ..) k)
  | completionOverwrite => exact .of_next h (doOverwrite_keeps k ..)
  | eventRecordWrite => exact .of_next h (doRecordWrite_keeps k ..)
  | lostRecord => exact .of_next h (ite_keeps (State.addLost_keeps k ..) k)
  | msiWrite => exact .of_next h (doMsi_keeps k ..)
  | levelCrossing => exact .of_next h (doLevel_keeps k ..)
  | linkFetch => exact .of_next h (doLinkFetch_keeps k ..)
  | chLinkTmo => exact .of_next h (doLinkTmo_keeps k ..)
  | commandStart => exact .of_next h (doCommandStart_keeps k ..)
  | queryVersions => exact .of_next h (State.onCmd_keeps k _ _ _ (doQueryVersions_keeps k))
  | queryInstance => exact .of_next h (State.onCmd_keeps k _ _ _ (doQueryInstance_keeps k))
  | queryPool => exact .of_next h (State.onCmd_keeps k _ _ _ (doQueryPool_keeps k))
  | instCreate => exact .of_next h (State.onCmd_keeps k _ _ _ (doInstCreate_keeps k))
  | instRemove => exact .of_next h (State.onCmd_keeps k _ _ _ (doInstEnd_keeps k _))
  | instReset => exact .of_next h (State.onCmd_keeps k _ _ _ (doInstEnd_keeps k _))
  | settleEnd => exact .of_next h (doSettleEnd_keeps k ..)
  | settleTmo => exact .of_next h (doSettleTmo_keeps k ..)
  | instSuspend => exact .of_next h (State.onCmd_keeps k _ _ _ (doSuspend_keeps k))
  | instResume => exact .of_next h (State.onCmd_keeps k _ _ _ (doResume_keeps k))
  | shareSet => exact .of_next h (State.onCmd_keeps k _ _ _ (doShareSet_keeps k))
  | qCreate => exact .of_next h (State.onCmd_keeps k _ _ _ (doQCreate_keeps k))
  | qResize => exact .of_next h (State.onCmd_keeps k _ _ _ (doQResize_keeps k))
  | qDestroy => exact .of_next h (State.onCmd_keeps k _ _ _ (doQDestroy_keeps k))
  | qReadCtx => exact .of_next h (State.onCmd_keeps k _ _ _ (doQReadCtx_keeps k))
  | qStrictGrant => exact .of_next h (State.onCmd_keeps k _ _ _ (doQStrict_keeps k _))
  | qStrictRevoke => exact .of_next h (State.onCmd_keeps k _ _ _ (doQStrict_keeps k _))
  | chBind => exact .of_next h (State.onCmd_keeps k _ _ _ (doChBind_keeps k))
  | chUnbind => exact .of_next h (State.onCmd_keeps k _ _ _ (doChUnbind_keeps k))
  | logCtlOn => exact .of_next h (State.onCmd_keeps k _ _ _ (doLogOn_keeps k))
  | logCtlOff => exact .of_next h (State.onCmd_keeps k _ _ _ (doLogOff_keeps k))
  | logCtlFlush => exact .of_next h (State.onCmd_keeps k _ _ _ (doLogFlushCmd_keeps k))
  | planLoad => exact .of_next h (State.onCmd_keeps k _ _ _ (doPlanLoad_keeps k))
  | planCancel => exact .of_next h (State.onCmd_keeps k _ _ _ (doPlanCancel_keeps k))
  | adminInit => exact .of_next h (State.onCmd_keeps k _ _ _ (doAdminInit_keeps k))
  | commandCompletion => exact .of_next h (doCompletion_keeps k ..)
  | purCmdTmo => exact .of_next h (doCmdTmo_keeps k ..)
  | purWdog => exact .of_next h (ite_keeps (State.raise_keeps k ..) k)
  | contained => exact .of_next h (doContained_keeps k ..)
  | ccInvDone => exact .of_next h (doCcDone_keeps k ..)
  | logFlush => exact .of_next h (doLogFlush_keeps k ..)
  | logSwapDone => exact .of_next h (doSwapDone_keeps k ..)
  | rdReq => exact .of_next h (State.inRequest_keeps k ..)
  | wrReq => exact .of_next h (State.inRequest_keeps k ..)
  | inboundResponse => exact .of_next h (doInbResponse_keeps k ..)
  | rdRsp => exact .of_next h (State.inResponse_keeps k ..)
  | wrRsp => exact .of_next h (State.inResponse_keeps k ..)
  | busyReissue => exact .of_next h (doReissue_keeps k ..)
  | remoteTimeout => exact .of_next h (doRemoteTimeout_keeps k ..)
  | linkupChange => exact .of_next h (doLinkup_keeps k ..)
  | faultDetection => exact .of_next h (State.detect_keeps k ..)
  | mpStall => exact .of_next h (State.stall_keeps k ..)
  | fpTxStall => exact .of_next h (State.stall_keeps k ..)
  | alarmMinExpiry => exact .of_next h (ite_keeps (Keeps.flds k rfl rfl rfl rfl rfl rfl rfl) k)
  | scrubStep => exact .of_next h (doScrub_keeps k ..)
  | holdScrub => exact .of_next h (doHoldScrub_keeps k ..)
  | timerTick => exact .of_next h (doTimer_keeps k ..)
  | captureEdge => exact .of_next h (doCapture_keeps k ..)
  | capValRead => exact .of_next h (doCapRead_keeps k ..)
  | debugHaltAssert => exact .of_next h (State.setHalt_keeps k ..)
  | debugHaltRelease => exact .of_next h (State.setHalt_keeps k ..)
  | quiescencePoint => exact .of_next h (doQuiesce_keeps k ..)
  | entryEdge => exact .of_next h (doEntryEdge_keeps k ..)
  | wakeEvent => exact .of_next h (doWake_keeps k ..)
  | wakeComplete => exact .of_next h (doWakeComplete_keeps k ..)
  | deadReckoning => exact .of_next h (doReckoning_keeps k ..)
  | droopTrip => exact .of_next h (doDroop_keeps k ..)
  | stepRise => exact .of_next h (doStepRise_keeps k ..)
  | droopSelfTrim => exact .of_next h (doSelfTrim_keeps k ..)
  | tempSample => exact .of_next h (doTemp_keeps k ..)
  | codeRecheck => exact .of_next h (doRecheck_keeps k ..)
  | pgoodRise => exact .of_next h (doPgoodRise_keeps k ..)
  | arbiterGrant => exact .of_next h (doGrant_keeps k ..)
  | strayMessage => exact .of_next h (doStray_keeps k ..)
  | filteredEdge => exact .of_next h (doFiltered_keeps k ..)
  | _ => exact write_keeps rfl h

/-- What a step does: on an empty queue one bus clock passes, else the front command runs on the rest of the queue. -/
theorem step_cases {s t : State} (h : step s = .next t) :
    (s.pending = [] ∧ t = tick s) ∨ ∃ c rest, s.pending = c :: rest ∧ exec c { s with pending := rest } = .next t := by
  unfold step at h
  split at h
  · rename_i hp
    cases h
    exact .inl ⟨hp, rfl⟩
  · rename_i c rest hp
    split at h
    · exact .inr ⟨c, rest, hp, h⟩
    · cases h

end Sys2Proof.Machine
end

section
/-! PROOFS. Register writes that the block takes, and the lock of GLB_CTL. -/

namespace Sys2Proof.Machine

open Sys2Proof

/-- The phases in which a register write is no wake event: RUN, WAKING, and ENTERING before the quiescence point (R477). -/
def Power.awake (p : Power) : Bool := p.phase == .run || p.phase == .waking || (p.phase == .entering && !p.quiesced)

theorem State.taking_iff (s : State) :
    s.taking = true ↔ s.isPresent = true ∧ s.isolated = false ∧ s.answersAbsent = false ∧ s.pwr.awake = true := by
  simp [State.taking, State.up, Power.awake, and_assoc]

theorem State.awake_of_taking {s : State} (h : s.taking = true) : s.pwr.awake = true := (s.taking_iff.1 h).2.2.2

theorem State.answersAbsent_of_taking {s : State} (h : s.taking = true) : s.answersAbsent = false := (s.taking_iff.1 h).2.2.1

theorem State.up_of_taking {s : State} (h : s.taking = true) : s.up = true := by
  obtain ⟨hp, hi, -, -⟩ := s.taking_iff.1 h
  simp [State.up, hp, hi]

/-- The power registers after a wake event (R474, R477). -/
def Power.wokenBy (p : Power) (c : WakeCause) : Power :=
  match p.phase with
  | .doze => { p with woke := some (lowestCause p.woke c) }
  | .sleep => { p with woke := some (lowestCause p.woke c) }
  | .entering => if p.quiesced then { p with held := some (lowestCause p.held c) } else p
  | _ => p

/-- A wake event touches the power registers alone. -/
theorem State.wakeBy_eq (s : State) (c : WakeCause) : s.wakeBy c = { s with pwr := s.pwr.wokenBy c } := by
  unfold State.wakeBy Power.wokenBy
  split <;> simp_all
  split <;> rfl

theorem Power.wokenBy_awake {p : Power} (h : p.awake = true) (c : WakeCause) : p.wokenBy c = p := by
  unfold Power.wokenBy
  cases hp : p.phase <;> simp_all [Power.awake]

theorem State.wakeBy_awake {s : State} (h : s.pwr.awake = true) (c : WakeCause) : s.wakeBy c = s := by
  rw [State.wakeBy_eq, Power.wokenBy_awake h]

/-- A write that the block takes does what it does and completes (R41, R42). -/
theorem State.portWrite_taking {s : State} (h : s.taking = true) (inFatal : Bool) {f : State → State}
    (ha : (f s).pwr.awake = true) : s.portWrite inFatal f = (f s).answered := by
  obtain ⟨-, hi, habs, -⟩ := s.taking_iff.1 h
  obtain ⟨hf, hl⟩ : s.pwr.fatal = false ∧ s.pwr.lockdown = false := by simpa [State.isolated] using hi
  simp [State.portWrite, habs, hf, hl, State.wakeBy_awake ha, State.answered]

/-- A change that leaves the power registers leaves the block awake. -/
theorem State.portWrite_taking_of_pwr {s : State} (h : s.taking = true) (inFatal : Bool) {f : State → State}
    (hp : (f s).pwr = s.pwr) : s.portWrite inFatal f = (f s).answered :=
  State.portWrite_taking h inFatal (hp ▸ State.awake_of_taking h)

theorem State.regWrite_of_some {s : State} {off : Nat} {r : Reg} (h : regAt off = some r) (v : Word) :
    s.regWrite off v = s.portWrite (fatalReg r) (fun s => s.writeReg r v) := by
  simp [State.regWrite, h]

theorem State.regWrite_of_none {s : State} {off : Nat} (h : regAt off = none) (v : Word) :
    s.regWrite off v = s.portWrite true id := by
  simp [State.regWrite, h]

theorem State.writeReg_glbCtl (s : State) (v : Word) :
    s.writeReg .glbCtl v = { s with glb := { s.glb with lock := s.glb.lock || bit v 0 } } := rfl

/-- GLB_CTL is the register of word 2 (R521). -/
theorem regAt_glbCtl : regAt 16 = some .glbCtl := by decide

/-- Step FUSE leaves the lock: it loads the factory values, and what follows keeps it. -/
theorem doFuse_lock {s : State} (f g : Fuses) (ok : Bool) (hl : s.glb.lock = true) : (doFuse f g ok s).glb.lock = true := by
  by_cases hs : s.atStep 1 = true
  · exact (doFuse_keeps s f g ok hs).lock hl
  · simpa [doFuse, hs] using hl

/-- No command but the power and the two resets takes the lock back (R17). -/
theorem exec_lock {c : Instr} {s t : State} (hl : s.glb.lock = true) (h : exec c s = .next t)
    (hc : c ≠ .pgoodFall ∧ c ≠ .powerOnReset ∧ c ≠ .blockReset) : t.glb.lock = true := by
  by_cases hk : takesBack c = true
  · cases c with
    | fuse f g ok =>
      cases h
      exact doFuse_lock f g ok hl
    | _ => simp_all [takesBack]
  · exact (exec_keeps (by simpa using hk) h).lock hl

/-- Settles O7: every command but a reset and every bus clock keeps the lock (`exec_keeps`, `tick_keeps`), a block reset sets the
registers to their reset values, and a write of GLB_CTL only ever adds its bit 0 to it. -/
theorem lockHoldsUntilReset : Obligations.LockHoldsUntilReset := by
  unfold Obligations.LockHoldsUntilReset
  intro s
  refine ⟨fun t hl h hr => ?_, fun _ hd hb => ?_, fun v ht hv => ?_⟩
  · rcases step_cases h with ⟨-, rfl⟩ | ⟨c, rest, hp, h⟩
    · exact (tick_keeps Keeps.rfl_).lock hl
    · refine exec_lock (s := { s with pending := rest }) hl h ?_
      obtain ⟨h1, h2, h3⟩ := hr rest
      simp_all
  · exact ⟨_, rfl, by simp [doRst, hd, hb, State.blank, State.reset]⟩
  · show Host.Outcome.next (s.regWrite 16 v) = _
    rw [State.regWrite_of_some regAt_glbCtl, State.portWrite_taking_of_pwr ht _ rfl, State.writeReg_glbCtl]
    simp [hv]

end Sys2Proof.Machine
end

section
/-! PROOFS. No register write puts an awake block to sleep (R475, R477). -/

namespace Sys2Proof.Machine

open Sys2Proof

theorem Frame.awake {ps : List Part} {s t : State} (h : Frame ps s t) (hs : s.pwr.awake = true)
    (hp : ps.contains .pwr = false) : t.pwr.awake = true := by
  rw [show t.pwr = s.pwr from h.get .pwr hp]
  exact hs

theorem State.steer_awake {s : State} {l : Later} {f : State → State} (hs : s.pwr.awake = true)
    (hf : (f s).pwr.awake = true) : (s.steer l f).pwr.awake = true := by
  unfold State.steer
  split
  · exact hf
  · exact hs

theorem State.writeChCtl_awake {s : State} (hs : s.pwr.awake = true) (n : Nat) (v : Word) :
    (s.writeChCtl n v).pwr.awake = true := by
  unfold State.writeChCtl
  dsimp only
  split
  · exact State.steer_awake hs ((State.pauseActs_frame _ n).awake hs rfl)
  · exact hs

theorem State.writeChCmd_awake {s : State} (hs : s.pwr.awake = true) (n : Nat) (all : Bool) (v : Word) :
    (s.writeChCmd n all v).pwr.awake = true :=
  State.steer_awake hs ((State.chCmd_frame s n all v).awake hs rfl)

theorem State.writeCh_awake {s : State} (hs : s.pwr.awake = true) (n : Nat) (r : ChReg) (v : Word) :
    (s.writeCh n r v).pwr.awake = true := by
  cases r with
  | ctl => exact State.writeChCtl_awake hs n v
  | cmd => exact State.writeChCmd_awake hs n true v
  | level =>
    unfold State.writeCh
    dsimp only
    split
    · exact (State.chLevel_frame _ n _).awake hs rfl
    · exact hs
  | linklim | xfers | stat | errinfo => exact hs
  | _ =>
    unfold State.writeCh
    dsimp only
    split <;> exact hs

theorem State.writeChManager_awake {s : State} (hs : s.pwr.awake = true) (n : Nat) (r : ChReg) (v : Word) :
    (s.writeChManager n r v).pwr.awake = true := by
  unfold State.writeChManager
  split
  · exact State.writeCh_awake hs n r v
  · split
    · exact State.writeChCmd_awake hs n false v
    · exact hs

/-- What a write of ENABLE leaves while the clusters hold no clock is not acted on, and no power register. -/
theorem State.setEnable_awake {s : State} (hs : s.pwr.awake = true) (i q : Nat) (en : Bool) :
    (s.setEnable i q en).pwr.awake = true := by
  unfold State.setEnable onLocal
  have act : ∀ u : State, u.pwr.awake = true → (doEnable i q en u).pwr.awake = true :=
    fun u hu => (doEnable_frame u i q en).awake hu rfl
  dsimp only
  repeat' split
  all_goals exact State.steer_awake (by simpa using hs) (act _ (by simpa using hs))

theorem State.setRelease_awake {s : State} (hs : s.pwr.awake = true) (i q : Nat) (skip : Bool) :
    (s.setRelease i q skip).pwr.awake = true := by
  refine State.steer_awake hs ?_
  cases skip
  · exact (doRetry_frame s i q).awake hs rfl
  · exact (doSkip_frame s i q).awake hs rfl

theorem State.writePage_awake {s : State} (hs : s.pwr.awake = true) (i : Nat) (r : PageReg) (v : Word) :
    (s.writePage i r v).pwr.awake = true := by
  cases r with
  | qctl q =>
    have he := State.setEnable_awake hs i q (bit v 0)
    show (State.writeQctl s i q v).pwr.awake = true
    unfold State.writeQctl
    dsimp only
    split
    · exact State.setRelease_awake he i q true
    · split
      · exact State.setRelease_awake he i q false
      · exact he
  | evtCtl => exact (State.writeEvtCtl_frame s i v).awake hs rfl
  | evtHead => exact (State.writeHead_frame s i _).awake hs rfl
  | intCtl => exact (State.writeIntCtl_frame s i v).awake hs rfl
  | evtBase | msiAddr | msiData =>
    unfold State.writePage
    dsimp only
    split <;> exact hs
  | _ => exact hs

theorem State.ccInvalidate_awake {s : State} (hs : s.pwr.awake = true) (v : Word) :
    (s.ccInvalidate v).pwr.awake = true := by
  unfold State.ccInvalidate
  dsimp only
  split
  · exact hs
  · split
    · exact State.steer_awake hs ((State.ccStart_frame _).awake hs rfl)
    · exact hs

theorem State.writeGlob_awake {s : State} (hs : s.pwr.awake = true) (r : Reg) (v : Word) :
    (s.writeGlob r v).pwr.awake = true := by
  cases r with
  | ccInv => exact State.ccInvalidate_awake hs v
  | logSwap => exact (doLogSwap_frame s v).awake hs rfl
  | injCtl => exact (State.writeInj_frame s v).awake hs rfl
  | dbgCtl =>
    show (if s.glb.lock then s else s.setFreeze (bit v 0)).pwr.awake = true
    split
    · exact hs
    · exact (State.setFreeze_frame s _).awake hs rfl
  | spanTmo =>
    show (if _ then s else _ : State).pwr.awake = true
    split <;> exact hs
  | _ => exact hs

/-- TARGET is taken in RUN and before the quiescence point, and leaves the block in one of the two (R475). -/
theorem State.writeTarget_awake {s : State} (hs : s.pwr.awake = true) (n : Nat) : (s.writeTarget n).pwr.awake = true := by
  unfold State.writeTarget State.targetRun State.targetLow
  repeat' split
  all_goals simp_all [Power.awake]

theorem State.startLoad_awake {s : State} (hs : s.pwr.awake = true) : s.startLoad.pwr.awake = true := by
  unfold State.startLoad
  split
  · exact (State.purGo_frame _).awake hs rfl
  · exact hs

theorem State.writePower_awake {s : State} (hs : s.pwr.awake = true) (r : Reg) (v : Word) :
    (s.writePower r v).pwr.awake = true := by
  cases r with
  | pwrCtl => exact State.writeTarget_awake hs _
  | startCtl =>
    show (if bit v 0 then s.steer .load State.startLoad else s).pwr.awake = true
    split
    · exact State.steer_awake hs (State.startLoad_awake hs)
    · exact hs
  | calOfs k => exact (State.writeOfs_frame s k v).awake hs rfl
  | mbReq m w =>
    show (if (s.mb m).busy then s else _ : State).pwr.awake = true
    split <;> exact hs
  | mbCtl m => exact (State.mbCtl_frame s m _ _).awake hs rfl
  | engCtl e =>
    show (if bit v 0 then doRelease e s else s).pwr.awake = true
    split
    · exact (doRelease_frame s e).awake hs rfl
    · exact hs
  | _ => exact hs

theorem State.writeReg_awake {s : State} (hs : s.pwr.awake = true) (r : Reg) (v : Word) :
    (s.writeReg r v).pwr.awake = true := by
  cases r with
  | chan n c => exact State.writeChManager_awake hs n c v
  | page i p =>
    show (if s.exists_ i then s.writePage i p v else s).pwr.awake = true
    split
    · exact State.writePage_awake hs i p v
    · exact hs
  | window i w c =>
    unfold State.writeReg
    dsimp only
    split
    · exact State.writeCh_awake hs _ c v
    · exact hs
  | _ =>
    exact State.writePower_awake ((State.writeTime_frame _ _ v).awake (State.writeGlob_awake hs _ v) rfl) _ v

/-- Where the block takes writes, a register at the offset is written and the access completes. -/
theorem State.regWrite_taking_some {s : State} (h : s.taking = true) {off : Nat} {r : Reg} (hr : regAt off = some r)
    (v : Word) : s.regWrite off v = (s.writeReg r v).answered := by
  rw [State.regWrite_of_some hr, State.portWrite_taking h _ (State.writeReg_awake (State.awake_of_taking h) r v)]

/-- A write of reserved space only completes (R517). -/
theorem State.regWrite_taking_none {s : State} (h : s.taking = true) {off : Nat} (hr : regAt off = none) (v : Word) :
    s.regWrite off v = s.answered := by
  rw [State.regWrite_of_none hr, State.portWrite_taking_of_pwr h _ rfl]
  rfl

end Sys2Proof.Machine
end

section
/-! PROOFS. What a register write leaves (R16, R42, R517, R519). -/

namespace Sys2Proof.Machine

open Sys2Proof

/-- The low n bits of a word as a field. -/
theorem fld_zero (v : Word) (hi : Nat) : fld v hi 0 = v.toNat % 2 ^ (hi + 1) := by simp [fld]

theorem regAt_irqRoute (j : Fin 128) : regAt (8 * (BitVec.ofNat 24 (0x80 + j.val)).toNat) = some (.irqRoute j.val) := by
  revert j
  decide

theorem regAt_tmrCmp (n : Fin 32) : regAt (8 * (BitVec.ofNat 24 (0x402 + 4 * n.val)).toNat) = some (.tmrCmp n.val) := by
  revert n
  decide

theorem State.writeReg_irqRoute (s : State) (j : Nat) (v : Word) : s.writeReg (.irqRoute j) v =
    { s with glb := { s.glb with irqRoute := tabSet s.glb.irqRoute j (v &&& routeMask) } } := rfl

theorem State.writeReg_tmrCmp (s : State) (n : Nat) (v : Word) : s.writeReg (.tmrCmp n) v = s.writeCmp n (fld v 31 0) := rfl

@[simp] theorem State.counter_noteCounter (s : State) (n k : Nat) : (s.noteCounter n).counter k = s.counter k := rfl

@[simp] theorem State.counter_answered (s : State) (k : Nat) : s.answered.counter k = s.counter k := rfl

theorem State.counter_writeCmp (s : State) (n v k : Nat) :
    (s.writeCmp n v).counter k = if k = n then { s.counter n with cmp := v } else s.counter k := by
  simp [State.writeCmp]

/-- In DOZE and SLEEP a wake event is noted if nothing has woken the block yet (R477). -/
theorem Power.wokenBy_asleep {p : Power} (h : p.phase = .doze ∨ p.phase = .sleep) (hw : p.woke = none)
    (c : WakeCause) : p.wokenBy c = { p with woke := some c } := by
  rcases h with h | h <;> simp [Power.wokenBy, h, hw, lowestCause]

/-- What RP_TMO raises for an access to an offset: nothing for reserved space (R517). -/
def rpTmoRaises (off : Nat) : List Detection :=
  if regAt off = none then [] else
    [{ source := 67, attr := { kind := 0, unit := 0, inst := none }, detail := BitVec.ofNat 64 off, xcause := none, present := true }]

/-- A timed-out access where the block answers: it completes with data 0, a write wakes, and RP_TMO is raised unless the offset
is reserved space (R42, R517, R519). -/
theorem doRpTmo_of_answers {s : State} (h : s.answersAbsent = false) (w : Bool) (off : Nat) :
    doRpTmo w off s = { s with
      glb := { s.glb with rpRdata := 0, rpDone := true }
      flt := { s.flt with waiting := s.flt.waiting ++ rpTmoRaises off }
      pwr := if w then s.pwr.wokenBy .register else s.pwr } := by
  cases w <;> cases hr : regAt off <;> simp [doRpTmo, h, hr, rpTmoRaises, State.wakeBy_eq, State.portDone, State.raise]

/-- Settles O15: a write that the block takes is `writeReg` of the register at its offset (`regWrite_taking_some`), and a timed-out
access is `doRpTmo_of_answers`. -/
theorem registerWritesLand : Obligations.RegisterWritesLand := by
  unfold Obligations.RegisterWritesLand
  intro s ht
  have hreg {off : BitVec 24} {r : Reg} (hr : regAt (8 * off.toNat) = some r) (v : Word) :
      exec (.registerWrite off v) s = .next (s.writeReg r v).answered :=
    congrArg Host.Outcome.next (State.regWrite_taking_some ht hr v)
  refine ⟨fun off v r hr => hreg hr v, fun off v hr => ?_, fun j v => ?_, fun n v => ?_, ?_, fun w off => ?_,
    fun u w off hu ha hp hw => ?_⟩
  · exact congrArg Host.Outcome.next (State.regWrite_taking_none ht hr v)
  · refine ⟨_, hreg (regAt_irqRoute j) v, ?_, fun k hk => ?_, ?_⟩ <;>
      simp_all [State.writeReg_irqRoute, State.answered, State.readReg, routeMask]
  · refine ⟨_, hreg (regAt_tmrCmp n) v, ?_, fun k hk => ?_⟩ <;>
      simp_all [State.writeReg_tmrCmp, State.counter_writeCmp, fld_zero]
  · show Host.Outcome.next (s.portWrite false fun s => s.writeReg .glbCtl 1) = _
    rw [State.portWrite_taking_of_pwr ht _ rfl, State.writeReg_glbCtl, show bit 1 0 = true by decide, Bool.or_true]
    rfl
  · have hwake := Power.wokenBy_awake (State.awake_of_taking ht) .register
    refine ⟨_, congrArg Host.Outcome.next (doRpTmo_of_answers (State.answersAbsent_of_taking ht) w _), ?_, rfl, rfl⟩
    simp [hwake]
  · refine ⟨_, congrArg Host.Outcome.next (doRpTmo_of_answers ha w _), rfl, ?_, rfl⟩
    cases w <;> simp [Power.wokenBy_asleep hp hw, ← hw]

end Sys2Proof.Machine
end

section
/-! PROOFS. Register accesses of a block that is absent, isolated, or answers (R19, R61, R64, R445, R447). -/

namespace Sys2Proof.Machine

open Sys2Proof

/-- Every row that is a write goes through the register port, and Fatal lets it act only if it closes the record or writes a
register of the collector (R445). -/
theorem exec_write {c : Instr} (hc : isWrite c = true) :
    ∃ inFatal f, (∀ s, exec c s = .next (s.portWrite inFatal f)) ∧
      (inFatal = true → f = id ∨ (∃ n, c = .frecClose n) ∨
        ∃ off v r, c = .registerWrite off v ∧ regAt (8 * off.toNat) = some r ∧ fatalReg r = true) := by
  cases c with
  | registerWrite off v =>
    cases hr : regAt (8 * off.toNat) with
    | none => exact ⟨true, id, fun s => congrArg Host.Outcome.next (State.regWrite_of_none hr v), fun _ => .inl rfl⟩
    | some r =>
      exact ⟨fatalReg r, _, fun s => congrArg Host.Outcome.next (State.regWrite_of_some hr v),
        fun hf => .inr (.inr ⟨off, v, r, rfl, hr, hf⟩)⟩
  | frecClose n => exact ⟨true, _, fun _ => rfl, fun _ => .inr (.inl ⟨n, rfl⟩)⟩
  | glbCtlLock | startCtlLoad | qctlEnableSet | qctlEnableClear | qctlRetry | qctlSkip | evtCtlWrite | evtHeadWrite
  | chStart | chStop | chLoad | chDrop | chPauseSet | chPauseClear | engCtlRelease | mbCtlGo | ccInvGo | logSwapGo | injGo
  | injHold | tmrCntWrite | capEnable | dbgCtlFreeze | pwrTargetDoze | pwrTargetSleep | pwrTargetRun | calOfsWrite =>
    exact ⟨false, _, fun _ => rfl, nofun⟩
  | _ => cases hc

theorem State.answersAbsent_iff (s : State) :
    s.answersAbsent = true ↔ s.isPresent = false ∨ s.pwr.leftAt = some s.now := by
  simp [State.answersAbsent]

theorem State.answersAbsent_eq_false {s : State} (hp : s.isPresent = true) (hl : s.pwr.leftAt ≠ some s.now) :
    s.answersAbsent = false := by
  simp [State.answersAbsent, hp, hl]

/-- The absence responder discards a write (R61). -/
theorem State.portWrite_absent {s : State} (h : s.answersAbsent = true) (inFatal : Bool) (f : State → State) :
    s.portWrite inFatal f = s.portDone 0 := by
  simp [State.portWrite, h]

/-- The absence responder answers a read with 0 (R61). -/
theorem State.portRead_absent {s : State} (h : s.answersAbsent = true) (off : Nat) : s.portRead off = s.portDone 0 := by
  simp [State.portRead, State.regRead, h]

/-- An isolated block ignores a write that R445 does not let act: it completes, and wakes (R447). -/
theorem State.portWrite_ignored {s : State} (h : s.answersAbsent = false) {inFatal : Bool} {f : State → State}
    (hi : s.pwr.lockdown = true ∨ s.pwr.fatal = true ∧ (inFatal = true → f = id)) :
    s.portWrite inFatal f = (s.wakeBy .register).answered := by
  unfold State.portWrite State.answered
  cases inFatal <;> rcases hi with hl | ⟨hf, hid⟩ <;> simp_all

/-- A read where the block answers, of a register that a read does not change (R14, R42). -/
theorem State.portRead_plain {s : State} {off : Nat} (h : s.answersAbsent = false) (hr : ∀ i, regAt off ≠ some (.capVal i)) :
    s.portRead off = s.portDone (s.regRead off) := by
  unfold State.portRead
  rw [h]
  dsimp only
  split
  · rfl
  · split
    · rename_i i hi
      exact absurd hi (hr i)
    · rfl

/-- Settles O13: `exec_write` takes every write to the register port, where `portWrite_absent` and `portWrite_ignored` say what
becomes of it. -/
theorem absentAndIsolatedBlocksIgnoreWrites : Obligations.AbsentAndIsolatedBlocksIgnoreWrites := by
  unfold Obligations.AbsentAndIsolatedBlocksIgnoreWrites
  refine ⟨fun s c ha hc => ?_, fun s c hp hl hw hi => ?_, fun s off v hp hl => ?_⟩
  · have habs := s.answersAbsent_iff.2 ha
    rcases hc with hw | ⟨i, rfl⟩ | ⟨w, off, v, rfl⟩
    · obtain ⟨inFatal, f, he, -⟩ := exec_write hw
      rw [he, State.portWrite_absent habs]
      rfl
    · exact congrArg Host.Outcome.next (State.portRead_absent habs _)
    · show Host.Outcome.next (doAccess w (8 * off.toNat) v s) = _
      rw [doAccess, habs, if_pos rfl]
      rfl
  · obtain ⟨inFatal, f, he, hin⟩ := exec_write hw
    rw [he, State.portWrite_ignored (State.answersAbsent_eq_false hp hl)]
    refine hi.imp id fun ⟨hf, hnc, hnr⟩ => ⟨hf, fun ht => ?_⟩
    rcases hin ht with hid | ⟨n, rfl⟩ | ⟨off, v, r, rfl, hr, hfr⟩
    · exact hid
    · exact absurd rfl (hnc n)
    · rw [hnr off v rfl r hr] at hfr
      cases hfr
  · have habs := State.answersAbsent_eq_false hp hl
    refine ⟨congrArg Host.Outcome.next ?_, fun hr => congrArg Host.Outcome.next ?_⟩
    · rw [doAccess, habs, if_neg Bool.false_ne_true, if_pos rfl]
    · rw [doAccess, habs, if_neg Bool.false_ne_true, if_neg Bool.false_ne_true, State.portRead_plain habs hr]
      rfl

end Sys2Proof.Machine
end

section
/-! PROOFS. Engines: RELEASE and the end of the clear (R148, R150, R476). -/

namespace Sys2Proof.Machine

open Sys2Proof

/-- Reading a table of which only some keys are kept. -/
theorem tabGet_filter {α : Type} (d : α) (t : List (Nat × α)) (p : Nat → Bool) (k : Nat) :
    tabGet d (t.filter (fun c => p c.1)) k = if p k then tabGet d t k else d := by
  induction t with
  | nil => simp
  | cons c rest ih =>
    obtain ⟨j, v⟩ := c
    by_cases hj : p j = true
    · by_cases hk : j = k
      · subst hk
        simp [tabGet, hj]
      · simp [tabGet, hj, hk, ih]
    · by_cases hk : j = k
      · subst hk
        simpa [hj] using ih
      · simp [tabGet, hj, hk, ih]

/-- The hold with the bytes of one range taken away: they read 0, the others stay. -/
theorem Memory.read_filter (m : List Host.Cell) (p : Nat → Bool) (a : Nat) :
    Memory.read (m.filter (fun c => p c.1)) a = if p a then Memory.read m a else 0 :=
  tabGet_filter holdDefault m p a

theorem State.engCtlRelease_taking {s : State} (h : s.taking = true) (e : Fin 128) :
    exec (.engCtlRelease e) s = .next (doRelease e.val s).answered :=
  congrArg Host.Outcome.next (State.portWrite_taking_of_pwr h false ((doRelease_frame s e.val).get .pwr rfl))

/-- Whether a hold address lies in one of the two banks of an engine (R112). -/
def inEngineBanks (e a : Nat) : Bool := e * 131072 ≤ a && a < (e + 1) * 131072

/-- A clear that nothing starts again ends (R150). -/
theorem doClearDone_ends {e : Nat} {s : State} (hu : s.up = true) (hk : s.pwr.clocked = true) (hw : s.clk.wrote = [])
    (hc : (s.eng e).clearing = true) (ha : (s.eng e).clearAt + 512 ≤ s.now) :
    doClearDone e s = (({ s with hold := s.hold.filter (fun c => !inEngineBanks e c.1) }.updEng e
      (fun x => { x with halted := false, clearing := false })).noteSet (engCtlOff e) 1) := by
  simp [doClearDone, inEngineBanks, State.written, hu, hk, hw, hc, ha]

/-- Settles O41: the first three clauses are the branches of `doRelease`, the last is `doClearDone_ends`. -/
theorem enginesAreReleased : Obligations.EnginesAreReleased := by
  unfold Obligations.EnginesAreReleased
  intro s e
  refine ⟨fun ht ho hh hc => ?_, fun ht ho => ?_, fun ht hs hh hc => ?_, fun hu hk hw hc ha => ?_⟩
  · rw [State.engCtlRelease_taking ht]
    simp [doRelease, State.up_of_taking ht, ho, hc, hh]
  · rw [State.engCtlRelease_taking ht]
    simp [doRelease, ho]
  · rw [State.engCtlRelease_taking ht]
    simp [doRelease, State.up_of_taking ht, hc, hh, hs, bit]
  · refine ⟨_, congrArg Host.Outcome.next (doClearDone_ends hu hk hw hc ha), ?_, ?_, fun a h1 h2 => ?_, fun a h => ?_,
      fun k hk => ?_, rfl⟩
    · simp [State.noteSet, State.eng, State.updEng]
    · simp [State.noteSet, State.eng, State.updEng]
    · have hin : inEngineBanks e.val a = true := by simp [inEngineBanks, h1, h2]
      simp [State.noteSet, Memory.read_filter _ (fun a => !inEngineBanks e.val a), hin]
    · have hout : inEngineBanks e.val a = false := by
        simp [inEngineBanks]
        omega
      simp [State.noteSet, Memory.read_filter _ (fun a => !inEngineBanks e.val a), hout]
    · simp [State.noteSet, State.eng, State.updEng, hk]

end Sys2Proof.Machine
end

section
/-! PROOFS. CC_INV: GO and the end of an invalidation (R335, R336, R477). -/

namespace Sys2Proof.Machine

open Sys2Proof

/-- A word with GO set has its bit 63. -/
theorem bit_go (v : Word) : bit (v ||| mask 63 63) 63 = true := by
  have h : (mask 63 63).toNat.testBit 63 = true := by decide
  simp [bit, h]

/-- GO stands outside the other fields of its register. -/
theorem go_and {m : Word} (h : mask 63 63 &&& m = 0) (v : Word) : (v ||| mask 63 63) &&& m = v &&& m := by
  rw [BitVec.and_comm, BitVec.and_or_distrib_left, BitVec.and_comm m (mask 63 63), h, BitVec.and_comm m v]
  simp

/-- SCOPE, INST and ADDR of CC_INV (R335). -/
def ccInvMask : Word := mask 59 58 ||| mask 57 48 ||| mask 38 12

/-- The state in which CC_INV has taken a request and nothing else has happened (R335). -/
def State.ccTaken (s : State) (v : Word) : State :=
  { s.noteWrite 0x808 v with glb := { s.glb with ccInv := v &&& ccInvMask, ccGo := true, ccAt := s.age, ccFrags := [] } }

/-- GO written while it is 0 takes the range and starts the invalidation, at once or once RUN is reached (R335, R477). -/
theorem State.ccInvalidate_go {s : State} {v : Word} (hg : s.glb.ccGo = false) (hv : bit v 63 = true) :
    s.ccInvalidate v = (s.ccTaken v).steer .invalidate State.ccStart := by
  simp [State.ccInvalidate, State.ccTaken, State.noteWrite, ccInvMask, hg, hv]

/-- A write while GO is 1 is only noted. -/
theorem State.ccInvalidate_busy {s : State} (v : Word) (hg : s.glb.ccGo = true) :
    s.ccInvalidate v = s.noteWrite 0x808 v := by
  simp [State.ccInvalidate, State.noteWrite, hg]

theorem State.ccInvGo_taking {s : State} (h : s.taking = true) (v : Word) :
    exec (.ccInvGo v) s = .next (s.ccInvalidate (v ||| mask 63 63)).answered :=
  congrArg Host.Outcome.next (State.portWrite_taking h false (State.ccInvalidate_awake (State.awake_of_taking h) _))

/-- The invalidation ends once no fragment and no request of before it is left (R336). -/
theorem doCcDone_ends {s : State} (hu : s.up = true) (hk : s.pwr.clocked = true) (hg : s.glb.ccGo = true)
    (hp : ∀ p ∈ s.ports, p.2.rd = [] ∧ p.2.wr = []) (hf : ∀ p ∈ s.fabs, p.2.slots = [])
    (hid : ∀ f ∈ s.frags, f.id ∉ s.glb.ccFrags) :
    doCcDone s = if (s.goAgain 0x808).isSome
      then { s with glb := { s.glb with ccGo := false, ccAt := 0, ccFrags := [] } }.ccStart
      else { s with glb := { s.glb with ccGo := false, ccAt := 0, ccFrags := [] } } := by
  unfold doCcDone
  dsimp only
  rw [if_pos]
  simp only [hu, hk, hg, Bool.and_self, Bool.true_and, Bool.not_eq_true', Bool.or_eq_false_iff, List.any_eq_false]
  refine ⟨⟨fun f hfm => by simpa using hid f hfm, fun p hpm => ?_⟩, fun p hpm => ?_⟩
  · obtain ⟨hr, hw⟩ := hp p hpm
    simp [hr, hw]
  · simp [hf p hpm]

/-- A fragment that used a translation in the range holds it up (R336). -/
theorem doCcDone_waits {s : State} (h : ∃ f ∈ s.frags, f.id ∈ s.glb.ccFrags) : doCcDone s = s := by
  have hany : s.frags.any (fun f => s.glb.ccFrags.contains f.id) = true := by simpa using h
  unfold doCcDone
  dsimp only
  rw [hany]
  simp

theorem invalidationsRun : Obligations.InvalidationsRun := by
  unfold Obligations.InvalidationsRun
  intro s
  refine ⟨fun v ht hg => ?_, fun v ht hg => ?_, fun hu hk hg hp hf hid t ht => ?_, fun h => ?_⟩
  · have hm : (v ||| mask 63 63) &&& ccInvMask = v &&& ccInvMask := go_and (by decide) v
    rw [State.ccInvGo_taking ht, State.ccInvalidate_go hg (bit_go v)]
    have hk : (s.ccTaken (v ||| mask 63 63)).pwr = s.pwr := rfl
    unfold State.steer
    rw [hk]
    by_cases hc : s.pwr.clocked = true
    · rw [if_pos hc]
      refine ⟨_, _, _, _, rfl, rfl, hm, rfl, fun _ => ⟨rfl, rfl⟩, fun hn => ?_⟩
      rw [hc] at hn
      cases hn
    · rw [if_neg hc]
      exact ⟨_, _, _, _, rfl, rfl, hm, rfl, fun hy => absurd hy hc, fun _ => rfl⟩
  · rw [State.ccInvGo_taking ht, State.ccInvalidate_busy _ hg]
  · subst ht
    refine (congrArg Host.Outcome.next (doCcDone_ends hu hk hg hp hf hid)).trans ?_
    cases s.goAgain 0x808 <;> rfl
  · exact congrArg Host.Outcome.next (doCcDone_waits h)

end Sys2Proof.Machine
end

section
/-! PROOFS. The logbook: flushes and bitmap swaps (R381, R382, R385). -/

namespace Sys2Proof.Machine

open Sys2Proof

theorem minBy_mem {α : Type} {key : α → Nat} {l : List α} {x : α} (h : minBy key l = some x) : x ∈ l := by
  induction l generalizing x with
  | nil => cases h
  | cons y ys ih =>
    simp only [minBy] at h
    split at h
    · cases h
      exact List.mem_cons_self
    · rename_i z hz
      split at h <;> cases h
      · exact List.mem_cons_of_mem _ (ih hz)
      · exact List.mem_cons_self

/-- The entry chosen for a flush stands in the log cache (R382). -/
theorem State.flushChoice_mem {s : State} {l : LogLine} (h : s.flushChoice = some l) : l ∈ s.logc := by
  unfold State.flushChoice at h
  dsimp only at h
  split at h
  · rename_i x hx
    cases h
    exact (List.mem_filter.mp (List.mem_of_find?_eq_some hx)).1
  · split at h
    · exact (List.mem_filter.mp (minBy_mem h)).1
    · cases h

/-- An entry that a change leaves with a flush stays in the log cache. -/
theorem State.mem_updLine {s : State} {l : LogLine} (hl : l ∈ s.logc) {f : LogLine → LogLine} (hf : (f l).flush ≠ .idle) :
    f l ∈ (s.updLine l.inst l.line l.base f).logc := by
  refine List.mem_filter.2 ⟨List.mem_map.2 ⟨l, hl, by simp⟩, ?_⟩
  simp [hf]

/-- ADDR and INST of LOG_SWAP (R385). -/
def logSwapMask : Word := mask 53 12 ||| mask 9 0

/-- INST of LOG_SWAP is the low field of what is written. -/
theorem fld_logSwap (v : Word) : fld (v &&& logSwapMask) 9 0 = fld v 9 0 := by
  have hm : logSwapMask.toNat % 2 ^ 10 = 2 ^ 10 - 1 := by decide
  simp only [fld_zero, BitVec.toNat_and]
  rw [Nat.and_mod_two_pow, hm, Nat.and_two_pow_sub_one_eq_mod, Nat.mod_mod]

theorem State.logSwapGo_taking {s : State} (h : s.taking = true) (v : Word) :
    exec (.logSwapGo v) s = .next (doLogSwap (v ||| mask 63 63) s).answered :=
  congrArg Host.Outcome.next (State.portWrite_taking_of_pwr h false ((doLogSwap_frame s _).get .pwr rfl))

/-- The state in which LOG_SWAP has taken ADDR and INST (R385). -/
def State.swapTaken (s : State) (v : Word) : State :=
  { s.noteWrite 0xC40 v with glb := { s.glb with logSwap := v &&& logSwapMask } }

theorem doLogSwap_go {s : State} {v : Word} (hg : s.glb.swapGo = false) (hv : bit v 63 = true) :
    doLogSwap v s = (s.swapTaken v).swapAsked := by
  simp [doLogSwap, State.swapTaken, State.noteWrite, logSwapMask, hg, hv]

theorem doLogSwap_busy {s : State} (v : Word) (hg : s.glb.swapGo = true) : doLogSwap v s = s.noteWrite 0xC40 v := by
  simp [doLogSwap, State.noteWrite, hg]

/-- A swap can be had of an instance that exists, is logged and has no LOG_CTL outstanding (R385). -/
abbrev State.swapOk (s : State) (i : Nat) : Prop := s.exists_ i = true ∧ (s.inst i).log = true ∧ s.logPending i = false

theorem State.swapAsked_ok {s : State} (h : s.swapOk (fld s.glb.logSwap 9 0)) :
    s.swapAsked = { s with glb := { s.glb with swapGo := true, swapAt := some (s.bell.glass + 1) } } := by
  obtain ⟨h1, h2, h3⟩ := h
  simp [State.swapAsked, h1, h2, h3]

theorem State.swapAsked_refused {s : State} (h : ¬ s.swapOk (fld s.glb.logSwap 9 0)) :
    s.swapAsked = { s with glb := { s.glb with logRefused := true } }.noteSet 0xC48 1 := by
  unfold State.swapAsked
  dsimp only
  rw [if_pos]
  grind

/-- A flush of the entry chosen takes its bits and asks for its line (R382). -/
theorem doLogFlush_chosen {s : State} {l : LogLine} (hi : s.issues = true) (hl : s.flushChoice = some l) :
    doLogFlush s = (s.updLine l.inst l.line l.base
      (fun l => { l with flush := .reading, taken := l.bits, bits := [], queued := false })).logCtl
        (.logRd l.inst l.line l.base) false l.addr [] := by
  simp [doLogFlush, hi, hl]

/-- A swap ends once nothing that it waited for is outstanding and no bit of the old bitmap is pending (R385). -/
theorem doSwapDone_ends {s : State} {i base : Nat} (hu : s.up = true) (hk : s.pwr.clocked = true)
    (hg : s.glb.swapGo = true) (ho : s.glb.swapOld = some (i, base)) (hw : ∀ p ∈ s.writesOut i, p ∉ s.glb.swapOuts)
    (hb : s.logBusy i base = false) : doSwapDone s = s.swapEnds := by
  have hall : (s.writesOut i).all (fun p => !s.glb.swapOuts.contains p) = true := by simpa using hw
  simp only [doSwapDone, ho, hu, hk, hg, hall, hb, Bool.and_self, Bool.not_false, if_true]

/-- A write of before the bell holds it up (R385). -/
theorem doSwapDone_waits {s : State} {i base : Nat} (ho : s.glb.swapOld = some (i, base)) {p : Nat × Nat}
    (hp : p ∈ s.writesOut i) (hout : p ∈ s.glb.swapOuts) : doSwapDone s = s := by
  have hall : (s.writesOut i).all (fun p => !s.glb.swapOuts.contains p) = false := by
    simpa using ⟨p.1, p.2, hp, hout⟩
  simp only [doSwapDone, ho, hall, Bool.and_false, Bool.false_and, Bool.false_eq_true, if_false]

/-- Settles O53: a flush is `doLogFlush_chosen`, a request of a swap `swapAsked_ok` or `swapAsked_refused`, and its end
`doSwapDone_ends`. -/
theorem logbookRuns : Obligations.LogbookRuns := by
  unfold Obligations.LogbookRuns
  intro s
  refine ⟨fun l hi hl => ?_, fun hn => ?_, fun v ht hg => ?_, fun v ht hg => ?_, fun i base hu hk hg ho hw hb ha => ?_, ?_⟩
  · have hx := State.mem_updLine (State.flushChoice_mem hl)
      (f := fun l => { l with flush := .reading, taken := l.bits, bits := [], queued := false }) (by simp)
    refine ⟨_, s.ctlReq (.logRd l.inst l.line l.base) false 0 l.addr l.addr 64 6 .background [],
      congrArg Host.Outcome.next (doLogFlush_chosen hi hl), ⟨_, hx, rfl, rfl, rfl, rfl, rfl, rfl⟩, ?_,
      rfl, rfl, rfl, rfl, rfl, rfl⟩
    simp only [State.logCtl, State.putCtl, State.port_updPort, if_true]
    rfl
  · refine congrArg Host.Outcome.next ?_
    rw [doLogFlush, hn]
    split <;> rfl
  · have hm : (v ||| mask 63 63) &&& logSwapMask = v &&& logSwapMask := go_and (by decide) v
    have hi : fld (s.swapTaken (v ||| mask 63 63)).glb.logSwap 9 0 = fld v 9 0 := by
      show fld ((v ||| mask 63 63) &&& logSwapMask) 9 0 = _
      rw [hm, fld_logSwap]
    rw [State.logSwapGo_taking ht, doLogSwap_go hg (bit_go v)]
    by_cases hok : s.swapOk (fld v 9 0)
    · rw [State.swapAsked_ok (hi.symm ▸ hok)]
      refine ⟨_, rfl, rfl, hm, ?_⟩
      rw [if_pos hok]
      exact ⟨rfl, rfl, rfl⟩
    · rw [State.swapAsked_refused (hi.symm ▸ hok)]
      refine ⟨_, rfl, rfl, hm, ?_⟩
      rw [if_neg hok]
      exact ⟨hg, rfl⟩
  · rw [State.logSwapGo_taking ht, doLogSwap_busy _ hg]
  · refine congrArg Host.Outcome.next ?_
    rw [doSwapDone_ends hu hk hg ho hw hb, State.swapEnds, ha]
    rfl
  · rintro ⟨i, base, p, ho, hp, hout⟩
    exact congrArg Host.Outcome.next (doSwapDone_waits ho hp hout)

end Sys2Proof.Machine
end

section
/-! PROOFS. The droop sensor and the clock step (R480 to R484). -/

namespace Sys2Proof.Machine

open Sys2Proof

/-- The level source of step k begins or ends (R482). -/
def stepDetection (k : Nat) (present : Bool) : Detection :=
  { source := 67 + k, attr := { kind := 0, unit := 0, inst := none }, detail := 0, xcause := none, present }

/-- What a change of the clock step brings to the collector for step k: its source begins as the step passes it downwards and ends
as it passes it upwards (R482). -/
def stepEvent (before after k : Nat) : List Detection :=
  if before < k ∧ k ≤ after then [stepDetection k true]
  else if after < k ∧ k ≤ before then [stepDetection k false]
  else []

theorem State.stepLevels_eq (s : State) (before after : Nat) : s.stepLevels before after =
    { s with flt := { s.flt with waiting := s.flt.waiting ++ [1, 2, 3].flatMap (stepEvent before after) } } := by
  unfold State.stepLevels
  generalize [1, 2, 3] = ks
  induction ks generalizing s with
  | nil => simp
  | cons k ks ih =>
    rw [List.foldl_cons, ih, List.flatMap_cons, ← List.append_assoc]
    unfold stepEvent
    split
    · rfl
    · split
      · rfl
      · simp

/-- The lowest step of the glass follows the step (R102). -/
def State.stepSeen (s : State) (n : Nat) : Nat := if s.bell.running then max s.gls.stepNow n else n

theorem State.setStep_eq (s : State) (n : Nat) : s.setStep n =
    { s with
      droop := { s.droop with step := n, good := 0 }, gls := { s.gls with stepNow := s.stepSeen n }
      flt := { s.flt with waiting := s.flt.waiting ++ [1, 2, 3].flatMap (stepEvent s.droop.step n) } } := by
  rw [State.setStep, State.stepLevels_eq]
  rfl

/-- A step that falls to k or below, k being deeper than the one left, begins the source of k. -/
theorem stepEvents_begin {before after k : Nat} (h0 : before < k) (h1 : k ≤ after) (h3 : k ≤ 3) :
    ∃ f ∈ [1, 2, 3].flatMap (stepEvent before after), f.source = 67 + k ∧ f.present = true := by
  refine ⟨stepDetection k true, List.mem_flatMap.2 ⟨k, ?_, ?_⟩, rfl, rfl⟩
  · simp
    omega
  · simp [stepEvent, h0, h1]

/-- A step that rises by one ends the source of the level left, and only that. -/
theorem stepEvents_rise {n : Nat} (h0 : n ≠ 0) (h3 : n ≤ 3) :
    ∃ f, [1, 2, 3].flatMap (stepEvent n (n - 1)) = [f] ∧ f.source = 67 + n ∧ f.present = false := by
  obtain rfl | rfl | rfl : n = 1 ∨ n = 2 ∨ n = 3 := by omega
  all_goals exact ⟨_, rfl, rfl, rfl⟩

theorem Droop.deepest_le (d : Droop) : d.deepest ≤ 3 := by
  unfold Droop.deepest
  split
  · omega
  · split
    · omega
    · split <;> omega

/-- The count of level k after the rail and the reference have become those of d: unless software writes the counts on this bus
clock (R22), a level that is newly tripped is counted (R480). -/
def State.tripCount (s : State) (d : Droop) (k before : Nat) : Nat :=
  if (s.written 0x8028).isSome then before else satAdd 16 before (b2n (d.tripped k && !s.droop.on.contains k))

theorem State.tripCount_spec (s : State) (d : Droop) (k before : Nat) :
    (s.written 0x8028 = none → d.tripped k = true → k ∉ s.droop.on → s.tripCount d k before = satAdd 16 before 1) ∧
    (s.written 0x8028 = none → d.tripped k = false ∨ k ∈ s.droop.on → s.tripCount d k before = satAdd 16 before 0) ∧
    (∀ v, s.written 0x8028 = some v → s.tripCount d k before = before) := by
  refine ⟨fun hw ht hk => ?_, fun hw hk => ?_, fun v hw => ?_⟩
  · simp [State.tripCount, hw, ht, hk, b2n]
  · rcases hk with hk | hk <;> simp [State.tripCount, hw, hk, b2n]
  · simp [State.tripCount, hw]

/-- The state after a sample of the rail, before the step follows it (R480). -/
def State.sampled (s : State) (d : Droop) : State :=
  { s with droop := { d with
      level := d.deepest, on := [1, 2, 3].filter d.tripped
      trip1 := s.tripCount d 1 d.trip1, trip2 := s.tripCount d 2 d.trip2, trip3 := s.tripCount d 3 d.trip3 } }

/-- A sample of the rail: the step follows a deeper level at once (R484). -/
theorem doDroop_eq {s : State} (h : s.droopRuns = true) (rail vref : Nat) {d : Droop} (hd : d = { s.droop with rail, vref }) :
    doDroop rail vref s =
      if s.droop.step < d.deepest then (s.sampled d).setStep d.deepest else s.sampled d := by
  subst hd
  have hw : (State.written { s with droop := { s.droop with
      rail, vref, level := { s.droop with rail, vref }.deepest
      on := [1, 2, 3].filter { s.droop with rail, vref }.tripped } } 0x8028) = s.written 0x8028 := rfl
  unfold doDroop State.unlessWritten
  simp only [h, hw, State.sampled, State.tripCount]
  cases s.written 0x8028 <;> rfl

/-- Settles O22: a sample of the rail is `doDroop_eq`, a change of the step `setStep_eq`. -/
theorem droopMovesTheStep : Obligations.DroopMovesTheStep := by
  unfold Obligations.DroopMovesTheStep
  intro s hr
  refine ⟨fun rail vref d hd => ?_, fun h0 h3 hg hn => ?_, fun h => ?_⟩
  · refine ⟨_, congrArg Host.Outcome.next (doDroop_eq hr rail vref hd), ?_⟩
    subst hd
    by_cases hs : s.droop.step < { s.droop with rail, vref }.deepest
    · simp only [if_pos hs, State.setStep_eq, Nat.max_eq_right (Nat.le_of_lt hs)]
      refine ⟨rfl, ?_, rfl, fun k hk hkd => ?_, fun hle => absurd hs (Nat.not_lt.2 hle), rfl⟩
      · rintro k before after (⟨rfl, rfl, rfl⟩ | ⟨rfl, rfl, rfl⟩ | ⟨rfl, rfl, rfl⟩) <;> exact s.tripCount_spec ..
      · obtain ⟨f, hf, hfk⟩ := stepEvents_begin hk hkd (Nat.le_trans hkd (Droop.deepest_le _))
        exact ⟨f, List.mem_append_right _ hf, hfk⟩
    · have hle := Nat.not_lt.1 hs
      simp only [if_neg hs, Nat.max_eq_left hle]
      refine ⟨rfl, ?_, rfl, fun k hk hkd => absurd (Nat.lt_of_lt_of_le hk hkd) hs, fun _ => rfl, rfl⟩
      rintro k before after (⟨rfl, rfl, rfl⟩ | ⟨rfl, rfl, rfl⟩ | ⟨rfl, rfl, rfl⟩) <;> exact s.tripCount_spec ..
  · have he : doStepRise s = s.setStep (s.droop.step - 1) := by simp [doStepRise, hr, h0, hg, hn]
    obtain ⟨f, hf, hsrc, hpres⟩ := stepEvents_rise h0 h3
    refine ⟨_, congrArg Host.Outcome.next (he.trans (State.setStep_eq ..)), rfl, rfl, ⟨f, ?_, hsrc, hpres⟩, rfl⟩
    rw [hf]
  · refine congrArg Host.Outcome.next ?_
    rw [doStepRise, if_neg]
    simp only [Bool.and_eq_true, decide_eq_true_eq, bne_iff_ne]
    rintro ⟨⟨⟨-, h0⟩, hg⟩, hn⟩
    rcases h with h | h | h
    · exact h0 h
    · rw [h] at hg
      cases hg
    · omega

end Sys2Proof.Machine
end

section
/-! PROOFS. What the end of a fragment leaves: the conditions found stay for their detection (R411), and on the memory ports only
the control path changes. -/

namespace Sys2Proof.Machine

open Sys2Proof

/-- Every condition that waits for its detection still waits. -/
def Finds (s t : State) : Prop := s.flt.waiting ⊆ t.flt.waiting

theorem Finds.rfl_ {s : State} : Finds s s := List.Subset.refl _

theorem Finds.trans {s t u : State} (h : Finds s t) (g : Finds t u) : Finds s u := List.Subset.trans h g

/-- A change that leaves the collector. -/
theorem Frame.finds {ps : List Part} {s t : State} (h : Frame ps s t) (hp : ps.contains .flt = false) : Finds s t := by
  rw [Finds, show t.flt = s.flt from h.get .flt hp]
  exact List.Subset.refl _

theorem State.raise_finds (s : State) (k kind unit : Nat) (inst : Option Nat) (d : Word) (x : Option Nat) :
    Finds s (s.raise k kind unit inst d x) := List.subset_append_left _ _

/-- The condition just raised waits. -/
theorem State.mem_raiseAt (s : State) (k : Nat) (a : Attr) (d : Word) (x : Option Nat) :
    ∃ c ∈ (s.raiseAt k a d x).flt.waiting, c.source = k ∧ c.attr = a :=
  ⟨_, List.mem_append_right _ List.mem_cons_self, rfl, rfl⟩

theorem ite_finds {s t u : State} {p : Prop} [Decidable p] (ht : Finds s t) (hu : Finds s u) :
    Finds s (if p then t else u) := by
  split
  · exact ht
  · exact hu

/-! ### Events and channels -/

theorem State.loseEvent_finds (s : State) (i n : Nat) : Finds s (s.loseEvent i n) :=
  ite_finds (State.raise_finds _ _ _ _ _ _ _) Finds.rfl_

theorem State.post_finds (s : State) (i : Nat) (r : EvRec) : Finds s (s.post i r) := by
  unfold State.post
  refine ite_finds Finds.rfl_ ?_
  have hl : Finds s (if s.lostDue i then s.addLost i else s) := ite_finds ((State.addLost_frame _ _).finds rfl) Finds.rfl_
  refine hl.trans (ite_finds (State.loseEvent_finds _ _ _) (ite_finds ?_ ?_))
  · exact Finds.trans ((State.updInst_frame _ _ _).finds rfl) (State.loseEvent_finds _ _ _)
  · exact (State.updInst_frame _ _ _).finds rfl

theorem State.chEvent_finds (s : State) (n code : Nat) (load : List Byte) : Finds s (s.chEvent n code load) :=
  State.post_finds _ _ _

theorem State.chDone_finds (s : State) (n : Nat) : Finds s (s.chDone n) := State.chEvent_finds (s.updChan n _) _ _ _

theorem State.chIdle_finds (s : State) (n endc : Nat) : Finds s (s.chIdle n endc) := State.chEvent_finds (s.updChan n _) _ _ _

theorem State.chError_finds (s : State) (n err : Nat) : Finds s (s.chError n err) := State.chEvent_finds (s.updChan n _) _ _ _

theorem State.badDesc_finds (s : State) (n : Nat) : Finds s (s.badDesc n) :=
  Finds.trans (State.raise_finds (s.updChan n _) _ _ _ _ _ _) (State.chError_finds _ _ _)

theorem State.promote_finds (s : State) (n : Nat) : Finds s (s.promote n) :=
  ite_finds (State.badDesc_finds _ _) Finds.rfl_

theorem State.afterTransfer_finds (s : State) (n : Nat) : Finds s (s.afterTransfer n) := by
  refine ite_finds (State.promote_finds _ _) ?_
  split
  · exact State.chError_finds (s.updChan n _) _ _
  · exact ite_finds (State.chIdle_finds _ _ _) (ite_finds (State.chIdle_finds _ _ _) Finds.rfl_)

theorem State.countTransfer_finds (s : State) (n : Nat) : Finds s (s.countTransfer n) :=
  Finds.trans (ite_finds (State.chDone_finds _ _) Finds.rfl_) ((State.chCount_frame _ _ _).finds rfl)

theorem State.transferDone_finds (s : State) (n : Nat) : Finds s (s.transferDone n) :=
  (State.countTransfer_finds s n).trans (State.afterTransfer_finds _ _)

theorem State.asCalled_finds (s : State) (n : Nat) : Finds s (s.asCalled n) :=
  ite_finds (State.afterTransfer_finds (s.updChan n _) n) (ite_finds (State.badDesc_finds _ _) Finds.rfl_)

theorem State.drained_finds (s : State) (n : Nat) : Finds s (s.drained n) := by
  unfold State.drained
  dsimp only
  split
  · exact ite_finds Finds.rfl_ (State.asCalled_finds _ _)
  · exact ite_finds (State.chError_finds (s.updChan n _) _ _) (State.chIdle_finds (s.updChan n _) _ _)
  · split
    · exact Finds.rfl_
    · exact ite_finds (State.chIdle_finds ((s.updChan n _).updChan n _) _ _)
        (ite_finds (State.chError_finds (s.updChan n _) _ _) (State.chError_finds ((s.updChan n _).updChan n _) _ _))
  · exact ite_finds Finds.rfl_ Finds.rfl_
  · exact Finds.rfl_

theorem State.ifDrained_finds (s : State) (n : Nat) : Finds s (s.ifDrained n) :=
  ite_finds (State.drained_finds _ _) Finds.rfl_

theorem State.burstOk_finds (s : State) (n : Nat) (f : Frag) : Finds s (s.burstOk n f) := by
  have counted (g h : Chan → Chan) : Finds s ((s.chCount n g).updChan n h) :=
    Finds.trans ((State.chCount_frame _ _ _).finds rfl) ((State.updChan_frame _ _ _).finds rfl)
  exact ite_finds ((counted _ _).trans (State.transferDone_finds _ _))
    (ite_finds ((counted _ _).trans ((State.countTransfer_finds _ _).trans (State.ifDrained_finds _ _)))
      ((counted _ _).trans (State.ifDrained_finds _ _)))

theorem State.burstFailed_finds (s : State) (n : Nat) (f : Frag) (err side stat : Nat) (out late : Bool) :
    Finds s (s.burstFailed n f err side stat out late) := State.ifDrained_finds (s.updChan n _) n

theorem State.burstEnds_finds (s : State) (n : Nat) (f : Frag) : Finds s (s.burstEnds n f) := by
  have failed (err side stat : Nat) (out late : Bool) := State.burstFailed_finds s n f err side stat out late
  exact ite_finds (State.ifDrained_finds _ _) (ite_finds (State.burstOk_finds _ _ _)
    (ite_finds (ite_finds (failed _ _ _ _ _) (failed _ _ _ _ _))
      (ite_finds (failed _ _ _ _ _) (ite_finds (failed _ _ _ _ _) (failed _ _ _ _ _)))))

theorem State.endFrag_finds (s : State) (id : Nat) : Finds s (s.endFrag id) := by
  unfold State.endFrag
  split
  · exact Finds.rfl_
  · dsimp only
    split
    · exact State.burstEnds_finds ((s.dropFrag id).dropWalks (.frag id)) _ _
    · exact Finds.trans (s := s) ((State.updEntry_frame ((s.dropFrag id).dropWalks (.frag id)) _ _ _).finds rfl)
        ((State.cancelRecs_frame _ _ _).finds rfl)

theorem State.writesOver_finds (s : State) (id : Nat) : Finds s (s.writesOver id) := by
  unfold State.writesOver
  split
  · exact Finds.rfl_
  · exact ite_finds (ite_finds (State.endFrag_finds (s.updFrag id _) id) Finds.rfl_) Finds.rfl_

/-! ### The memory ports -/

theorem State.port_of_ports {s t : State} (h : t.ports = s.ports) (c : Nat) : t.port c = s.port c := by
  rw [State.port, State.port, h]

/-- On the memory ports only the control path changes. -/
def DataPath (s t : State) : Prop := ∀ c, { t.port c with ctl := [] } = { s.port c with ctl := [] }

theorem DataPath.rfl_ {s : State} : DataPath s s := fun _ => rfl

theorem DataPath.trans {s t u : State} (h : DataPath s t) (g : DataPath t u) : DataPath s u := fun c => (g c).trans (h c)

theorem Frame.dataPath {ps : List Part} {s t : State} (h : Frame ps s t) (hp : ps.contains .ports = false) : DataPath s t :=
  fun c => by rw [State.port_of_ports (h.get .ports hp) c]

theorem ite_dataPath {s t u : State} {p : Prop} [Decidable p] (ht : DataPath s t) (hu : DataPath s u) :
    DataPath s (if p then t else u) := by
  split
  · exact ht
  · exact hu

theorem State.updCtl_dataPath (s : State) (c : Nat) (f : MPort → List CtlReq) :
    DataPath s (s.updPort c (fun p => { p with ctl := f p })) := by
  intro k
  rw [State.port_updPort]
  split
  · rename_i h
    rw [h]
  · rfl

theorem State.cancelRecs_dataPath (s : State) (g seq : Nat) : DataPath s (s.cancelRecs g seq) := by
  unfold State.cancelRecs
  split
  · exact DataPath.rfl_
  · have dropped (u : State) (p : Prop) [Decidable p] (x : XCtx) : DataPath u (if p then u.dropWalks x else u) :=
      ite_dataPath ((State.dropWalks_frame _ _).dataPath rfl) DataPath.rfl_
    dsimp only
    exact ite_dataPath DataPath.rfl_ ((((State.updCtl_dataPath _ _ _).trans (dropped _ _ _)).trans (dropped _ _ _)).trans
      ((State.updEntry_frame _ _ _ _).dataPath rfl))

theorem State.endFrag_dataPath (s : State) (id : Nat) : DataPath s (s.endFrag id) := by
  unfold State.endFrag
  split
  · exact DataPath.rfl_
  · dsimp only
    split
    · exact (State.burstEnds_frame ((s.dropFrag id).dropWalks (.frag id)) _ _).dataPath rfl
    · exact DataPath.trans (s := s) ((State.updEntry_frame ((s.dropFrag id).dropWalks (.frag id)) _ _ _).dataPath rfl)
        (State.cancelRecs_dataPath _ _ _)

theorem State.writesOver_dataPath (s : State) (id : Nat) : DataPath s (s.writesOver id) := by
  unfold State.writesOver
  split
  · exact DataPath.rfl_
  · exact ite_dataPath (ite_dataPath (State.endFrag_dataPath (s.updFrag id _) id) DataPath.rfl_) DataPath.rfl_

end Sys2Proof.Machine
end

section
/-! PROOFS. Write beats that leave the hold, and acknowledgements of a fragment's writes (R124, R131, R139, R140). -/

namespace Sys2Proof.Machine

open Sys2Proof

/-- The beat as it leaves: the bytes that stand in the hold, poisoned for a check at write-out or a poisoned line (R131, R139,
R140). -/
def State.beatOut (s : State) (f : Frag) (w : WBeat) (par : OutPar) : WBeat :=
  { w with
    data := Memory.reads s.hold (f.at_ + w.off) w.bytes
    poison := par != .good || f.lines.any (fun l => w.off / 64 ≤ l && l ≤ (w.off + w.bytes - 1) / 64) }

/-- The port presents a beat and has the rest of its beats before it (R131, R154). -/
def State.sendsBeat (s : State) (c : Nat) (w : WBeat) (rest : List WBeat) (x : WBeat) : State :=
  (s.updAcc c (fun a => { a with allWr := a.allWr + 1, topWr := a.topWr + b2n w.top })).updPort c
    (fun p => { p with wq := rest, lastBeat := some x })

/-- A beat of a fragment has left, with what the checks at write-out find of it (R131, R139). -/
def State.beatLeft (s : State) (c id : Nat) (f : Frag) (w : WBeat) (rest : List WBeat) (par : OutPar) : State :=
  ((s.sendsBeat c w rest (s.beatOut f w par)).outParity f w.addr par).updFrag id (fun f => { f with wrBeats := f.wrBeats - 1 })

/-- The first waiting beat is accepted, if it is a fragment's (R131). -/
theorem doWriteData_frag {s : State} {c id : Nat} {par : OutPar} {w : WBeat} {rest : List WBeat} {f : Frag}
    (hu : s.up = true) (hf : s.frag? id = some f) (hq : (s.port c).wq = w :: rest) (ho : w.owner = .frag id) :
    doWriteData c par s = (s.beatLeft c id f w rest par).writesOver id := by
  have hfa (g : PortAcc → PortAcc) : (s.updAcc c g).frag? id = some f := hf
  simp only [doWriteData, hu, hq, ho, hfa, State.beatLeft, State.beatOut, State.sendsBeat]
  rfl

/-- A check at write-out that fails is counted, where software does not write the counter, and raised (R139, R141). -/
theorem State.outParity_bad {s : State} {f : Frag} {par : OutPar} (hp : par ≠ .good)
    (hw : s.written (cluErrOff f.cluster) = none) (va : Nat) :
    s.outParity f va par = (((s.updPort f.cluster (fun p => { p with outPar := satAdd 16 p.outPar 1 })).updFrag f.id
      (fun f => { f with outPoison := true })).raiseAt (if par = .holdPar then 12 else 13) f.attr (BitVec.ofNat 64 va)) := by
  simp [State.outParity, hp, State.unlessWritten, hw]

/-- What the memory ports show of an operation that changes only their control path. -/
theorem DataPath.fields {s t : State} (h : DataPath s t) (c : Nat) :
    (t.port c).wq = (s.port c).wq ∧ (t.port c).lastBeat = (s.port c).lastBeat ∧ (t.port c).outPar = (s.port c).outPar ∧
      (t.port c).wr = (s.port c).wr ∧ (t.port c).wrErr = (s.port c).wrErr := by
  have hp := h c
  simp only [MPort.mk.injEq] at hp
  simp [hp]

/-- What the checks at write-out leave on the port that a beat leaves by. -/
theorem State.outParity_port {s : State} {f : Frag} {c : Nat} (hc : f.cluster = c) (hw : s.written (cluErrOff c) = none)
    (va : Nat) (par : OutPar) : (s.outParity f va par).port c =
      { s.port c with outPar := if par = .good then (s.port c).outPar else satAdd 16 (s.port c).outPar 1 } := by
  subst hc
  by_cases hp : par = .good
  · subst hp
    rfl
  · rw [State.outParity_bad hp hw]
    simp [hp]

theorem State.beatLeft_port {s : State} {f : Frag} {c : Nat} (hc : f.cluster = c) (hw : s.written (cluErrOff c) = none)
    (id : Nat) (w : WBeat) (rest : List WBeat) (par : OutPar) : (s.beatLeft c id f w rest par).port c =
      { s.port c with
        wq := rest, lastBeat := some (s.beatOut f w par)
        outPar := if par = .good then (s.port c).outPar else satAdd 16 (s.port c).outPar 1 } := by
  have hs : (s.sendsBeat c w rest (s.beatOut f w par)).port c =
      { s.port c with wq := rest, lastBeat := some (s.beatOut f w par) } := by simp [State.sendsBeat]
  rw [State.beatLeft, State.updFrag_at_port, State.outParity_port (s := s.sendsBeat ..) hc hw, hs]

/-- What a failed check at write-out raises for the fragment (R139). -/
theorem State.beatLeft_raises {s : State} {f : Frag} (hw : s.written (cluErrOff f.cluster) = none) (c id : Nat) (w : WBeat)
    (rest : List WBeat) {par : OutPar} (hp : par ≠ .good) :
    ∃ d ∈ (s.beatLeft c id f w rest par).flt.waiting, d.source = (if par = .holdPar then 12 else 13) ∧ d.attr = f.attr := by
  have hs : (s.sendsBeat c w rest (s.beatOut f w par)).written (cluErrOff f.cluster) = none := hw
  rw [State.beatLeft, State.updFrag_flt, State.outParity_bad hp hs]
  exact State.mem_raiseAt _ _ _ _ _

/-! ### Acknowledgements -/

/-- The state that an acknowledgement leaves to its access: its slot is free, and a failed write is counted (R35, R141). -/
def State.slotFreed (s : State) (c slot : Nat) (failed : Bool) : State :=
  let freed := s.updPort c (fun p => { p with wr := p.wr.filter (fun x => x.slot != slot) })
  if failed then freed.updPort c (fun p => { p with wrErr := satAdd 16 p.wrErr 1 }) else freed

theorem State.slotFreed_port (s : State) (c slot : Nat) (failed : Bool) : (s.slotFreed c slot failed).port c =
    { s.port c with
      wr := (s.port c).wr.filter (fun x => x.slot != slot)
      wrErr := if failed then satAdd 16 (s.port c).wrErr 1 else (s.port c).wrErr } := by
  cases failed <;> simp [State.slotFreed]

theorem State.slotFreed_frame (s : State) (c slot : Nat) (failed : Bool) : Frame [.ports] s (s.slotFreed c slot failed) := by
  cases failed
  · exact State.updPort_frame s c _
  · exact (State.updPort_frame s c _).trans (State.updPort_frame _ c _)

theorem State.frag_of_frags {s t : State} (h : t.frags = s.frags) (id : Nat) : t.frag? id = s.frag? id := by
  rw [State.frag?, State.frag?, h]

/-- The status of an acknowledgement: 3 is treated as ERR (R33). -/
def ackStat (stat : BitVec 2) : Nat := if stat = 3 then 1 else stat.toNat

theorem ackStat_eq_zero {stat : BitVec 2} : ackStat stat = 0 ↔ stat = 0 := by
  revert stat
  decide

/-- An acknowledgement of a write that the block still waits for reaches its access (R124, R338). -/
theorem doWriteAck_live {s : State} {c : Nat} {tag : Tag} {w : WrOut} (stat : BitVec 2) (hu : s.up = true)
    (hold : tag.slot.toNat ∉ (s.port c).oldWr)
    (hfind : (s.port c).wr.find? (fun w => w.slot == tag.slot.toNat) = some w)
    (hwq : ∀ x ∈ (s.port c).wq, x.slot ≠ tag.slot.toNat) (hgen : tag.gen.toNat = (s.inst tag.inst.toNat).gen)
    (hw : s.written (cluErrOff c) = none) :
    doWriteAck c tag stat s = (s.slotFreed c tag.slot.toNat (stat != 0)).acked w (ackStat stat) := by
  have hq : (s.port c).wq.any (fun x => x.slot == tag.slot.toNat) = false := by simpa using hwq
  have hold' : (s.port c).oldWr.contains tag.slot.toNat = false := by simpa using hold
  have hwr (f : MPort → MPort) : (s.updPort c f).written (cluErrOff c) = none := hw
  simp only [doWriteAck, hold', hu, hfind, hq, State.unlessWritten, hwr]
  by_cases hs : stat = 0#2 <;> simp [hs, hgen, State.slotFreed, ackStat]

/-- A fragment with a write outstanding stays in flight with it. -/
theorem State.writesOver_frag {s : State} {id : Nat} {g : Frag} (hg : s.frag? id = some g) (h : g.wrOut ≠ 0) :
    ∃ x, (s.writesOver id).frag? id = some x ∧ x.wrOut = g.wrOut := by
  have hd := State.frag_updFrag s id (fun f => { f with phase := .draining, held := false }) (fun _ => rfl) id
  rw [if_pos rfl, hg] at hd
  simp only [State.writesOver, hg, h, if_false]
  split
  · exact ⟨_, hd, rfl⟩
  · exact ⟨g, hg, rfl⟩

/-- What an acknowledgement brings to a fragment before the write is over. -/
def State.ackNoted (s : State) (f : Frag) (st : Nat) : State := if st = 0 then s else s.fragDstFails f 0x11 st 9

theorem State.ackNoted_frame (s : State) (f : Frag) (st : Nat) : Frame [.flt, .insts, .frags] s (s.ackNoted f st) := by
  unfold State.ackNoted
  split
  · exact Frame.refl
  · exact State.fragDstFails_frame s f 0x11 st 9

theorem State.acked_frag {s : State} {w : WrOut} {id : Nat} {f : Frag} (ho : w.owner = .frag id) (hf : s.frag? id = some f)
    (st : Nat) : s.acked w st =
      ((s.ackNoted f st).updFrag id (fun f => { f with wrOut := f.wrOut - 1 })).writesOver id := by
  simp only [State.acked, ho, hf]
  rfl

/-- A fragment whose write fails keeps its writes outstanding. -/
theorem State.ackNoted_frag {s : State} {id : Nat} {f : Frag} (hf : s.frag? id = some f) (st : Nat) :
    ∃ x, (s.ackNoted f st).frag? id = some x ∧ x.wrOut = f.wrOut := by
  unfold State.ackNoted
  split
  · exact ⟨f, hf, rfl⟩
  · obtain rfl : f.id = id := by simpa using List.find?_some hf
    have hd := State.frag_updFrag s f.id (fun f => { f with dstErr := some (f.dstErr.getD (0x11, st)) }) (fun _ => rfl) f.id
    rw [if_pos rfl, hf] at hd
    refine ⟨_, (State.frag_of_frags ?_ f.id).trans hd, rfl⟩
    unfold State.fragDstFails
    dsimp only
    split
    · exact (State.fvCount_frame (s.updFrag f.id _) f.inst 0 15 0).get .frags rfl
    · rfl

theorem State.ackNoted_raises {s : State} {st : Nat} (h : st ≠ 0) (f : Frag) :
    ∃ d ∈ (s.ackNoted f st).flt.waiting, d.source = 9 ∧ d.attr = f.attr := by
  rw [State.ackNoted, if_neg h]
  exact State.mem_raiseAt _ _ _ _ _

/-- Settles O30: a beat and an acknowledgement change the ports and the collector before `writesOver`, which keeps both. -/
theorem writesLeaveAndEnd : Obligations.WritesLeaveAndEnd := by
  unfold Obligations.WritesLeaveAndEnd
  intro s p id f hu hf
  refine ⟨fun w rest par hq ho hc hw => ?_, fun tag stat w hold hfind hwq hgen ho hw => ?_⟩
  · have hport := State.beatLeft_port hc hw id w rest par
    obtain ⟨hq', hl', hp', -, -⟩ := (State.writesOver_dataPath (s.beatLeft p.val id f w rest par) id).fields p.val
    rw [hport] at hq' hl' hp'
    refine ⟨_, s.beatOut f w par, congrArg Host.Outcome.next (doWriteData_frag hu hf hq ho), hq', hl', rfl, rfl, ?_,
      fun hp => ⟨?_, ?_, ?_⟩, fun hp => ?_⟩
    · exact ((State.writesOver_frame _ id).get .hold rfl).trans ((State.outParity_frame _ f w.addr par).get .hold rfl)
    · simp [State.beatOut, hp]
    · rw [hp', if_neg hp]
    · obtain ⟨d, hd, hk⟩ := State.beatLeft_raises (hc.symm ▸ hw) p.val id w rest hp
      exact ⟨d, State.writesOver_finds _ id hd, hk⟩
    · rw [hp', if_pos hp]
  · have hfreed := s.slotFreed_frame p.val tag.slot.toNat (stat != 0)
    have hf' := (State.frag_of_frags (hfreed.get .frags rfl) id).trans hf
    have he := (doWriteAck_live stat hu hold hfind hwq hgen hw).trans (State.acked_frag ho hf' _)
    have hfp := s.slotFreed_port p.val tag.slot.toNat (stat != 0)
    generalize s.slotFreed p.val tag.slot.toNat (stat != 0) = u at hfreed hf' he hfp
    have hnoted := u.ackNoted_frame f (ackStat stat)
    obtain ⟨-, -, -, hwr, herr⟩ := (State.writesOver_dataPath ((u.ackNoted f (ackStat stat)).updFrag id _) id).fields p.val
    have hport := State.port_of_ports (hnoted.get .ports rfl) p.val
    rw [State.updFrag_at_port, hport, hfp] at hwr herr
    refine ⟨_, congrArg Host.Outcome.next he, hwr, ?_, fun hs => ?_, fun hs => ⟨?_, ?_⟩, fun hout => ?_⟩
    · exact ((State.writesOver_frame _ id).get .hold rfl).trans ((hnoted.get .hold rfl).trans (hfreed.get .hold rfl))
    · exact herr.trans (if_neg (by simpa using hs))
    · exact herr.trans (if_pos (by simpa using hs))
    · obtain ⟨d, hd, hk⟩ := u.ackNoted_raises (mt ackStat_eq_zero.mp hs) f
      exact ⟨d, State.writesOver_finds _ id hd, hk⟩
    · obtain ⟨x, hx, hxo⟩ := State.ackNoted_frag hf' (ackStat stat)
      have hd := State.frag_updFrag (u.ackNoted f (ackStat stat)) id (fun f => { f with wrOut := f.wrOut - 1 }) (fun _ => rfl) id
      rw [if_pos rfl, hx] at hd
      have hleft : x.wrOut - 1 = f.wrOut - 1 := by rw [hxo]
      obtain ⟨g, hg, hgo⟩ := State.writesOver_frag hd (show x.wrOut - 1 ≠ 0 by omega)
      exact ⟨g, hg, hgo.trans hleft⟩

end Sys2Proof.Machine
end

section
/-! PROOFS. Counters: their ticks, writes and reads (R450 to R455). -/

namespace Sys2Proof.Machine

open Sys2Proof

/-! ### One bus clock of a pair without links -/

/-- A counter after a bus clock on which nothing acts on it, and on which it ticks or does not (R453, R454). -/
def Tmr.ticked (x : Tmr) (ticks : Bool) : Tmr :=
  { x.prescale with cnt := if ticks then x.nextCnt else x.cnt }.noted (x.events ticks)

theorem Tmr.noted_fields (x : Tmr) (e : TickEv) : (x.noted e).cnt = x.cnt ∧ (x.noted e).phase = x.phase ∧
    (x.noted e).hit = (x.hit || e.hit) ∧ (x.noted e).ovf = (x.ovf || e.ovf) := by
  simp only [Tmr.noted]
  split <;> exact ⟨rfl, rfl, rfl, rfl⟩

theorem Tmr.prescale_flags (x : Tmr) : x.prescale.hit = x.hit ∧ x.prescale.ovf = x.ovf := by
  simp only [Tmr.prescale]
  split <;> exact ⟨rfl, rfl⟩

/-- A prescaler that expires starts again. -/
theorem Tmr.prescale_phase {x : Tmr} (hc : x.chain = false) (he : x.expires = true) : x.prescale.phase = 0 := by
  have hr : x.run = true := (Bool.and_eq_true_iff.mp he).1
  simp [Tmr.prescale, hr, hc, he]

/-- Counters whose LINK_EV is 0 do not act on each other (R451): each ticks by itself, a chained odd one with the overflow of the
even one (R453). -/
theorem pairClock_unlinked {low high : Tmr} (hl : low.linkEv = 0) (hh : high.linkEv = 0) : pairClock low high =
    (low.ticked low.expires,
      high.ticked (if high.chain then high.run && (low.events low.expires).ovf else high.expires)) := by
  have none_ {x : Tmr} (h : x.linkEv = 0) (y : Tmr) (e : TickEv) : x.actsOn y e = false := by simp [Tmr.actsOn, Tmr.links, h]
  simp only [pairClock, none_ hl, none_ hh]
  rfl

/-! ### The counters as held and as written on a bus clock -/

theorem State.heldCounter_nil {s : State} (h : s.clk.cnt = []) (n : Nat) : s.heldCounter n = s.counter n := by
  simp [State.heldCounter, h]

theorem State.written_nil {s : State} (h : s.clk.wrote = []) (off : Nat) : s.written off = none := by
  simp [State.written, h]

theorem State.written_noteWrite (s : State) (off : Nat) (v : Word) : (s.noteWrite off v).written off = some v := by
  rw [State.written, State.noteWrite, find_tabSet, if_pos rfl]

theorem State.counter_tickCounter (s : State) (n : Nat) (new : Tmr) (k : Nat) : (s.tickCounter n new).counter k =
    if k = n then (s.counter n).after (s.heldCounter n) new (s.written (tmrCtlOff n)).isSome (s.written (tmrCntOff n)).isSome
    else s.counter k :=
  State.counter_updCounter (s.noteCounter n) n _ k

/-- Software has written none of the counter: it becomes what the bus clock makes of it. -/
theorem State.counter_tickCounter_unwritten {s : State} (h : s.clk.wrote = []) (n : Nat) (new : Tmr) (k : Nat) :
    (s.tickCounter n new).counter k = if k = n then (s.counter n).after (s.heldCounter n) new false false else s.counter k := by
  simp [State.counter_tickCounter, State.written_nil h]

/-- CNT that software has written on this bus clock stays as written (R450). -/
theorem State.cnt_tickCounter_written {s : State} {n : Nat} (h : (s.written (tmrCntOff n)).isSome = true) (k : Nat) (new : Tmr) :
    ((s.tickCounter k new).counter n).cnt = (s.counter n).cnt := by
  rw [State.counter_tickCounter]
  split
  · rename_i hk
    subst hk
    simp [Tmr.after, h]
  · rfl

theorem doTimer_cnt_written {s : State} {n : Nat} (h : (s.written (tmrCntOff n)).isSome = true) (k : Nat) :
    ((doTimer k s).counter n).cnt = (s.counter n).cnt := by
  simp only [doTimer]
  split
  · rw [State.cnt_tickCounter_written (s := s.tickCounter _ _) h, State.cnt_tickCounter_written h]
  · rfl

/-- A counter with no event noted. -/
def Tmr.fresh (x : Tmr) : Tmr := { x with hit := false, ovf := false }

theorem State.freshCounter_nil {s : State} (h : s.clk.cnt = []) (n : Nat) : s.freshCounter n = (s.counter n).fresh := by
  rw [State.freshCounter, State.heldCounter_nil h, Tmr.fresh]

/-- The pair of an even counter on a bus clock. -/
theorem doTimer_even {s : State} (ht : s.timersRun = true) (k : Nat) : doTimer (2 * k) s =
    (s.tickCounter (2 * k) (pairClock (s.freshCounter (2 * k)) (s.freshCounter (2 * k + 1))).1).tickCounter (2 * k + 1)
      (pairClock (s.freshCounter (2 * k)) (s.freshCounter (2 * k + 1))).2 := by
  have hk : 2 * k / 2 * 2 = 2 * k := by omega
  simp only [doTimer, ht, hk, if_true]

/-- A counter after a bus clock on which it ticks or does not, and on which software writes none of it. -/
def Tmr.clocked (x : Tmr) (ticks : Bool) : Tmr := x.after x (x.fresh.ticked ticks) false false

theorem Tmr.clocked_cnt (x : Tmr) (ticks : Bool) : (x.clocked ticks).cnt = if ticks then x.nextCnt else x.cnt :=
  (Tmr.noted_fields _ (x.fresh.events ticks)).1

theorem Tmr.clocked_phase {x : Tmr} (hc : x.chain = false) (he : x.expires = true) (ticks : Bool) :
    (x.clocked ticks).phase = 0 :=
  (Tmr.noted_fields _ (x.fresh.events ticks)).2.1.trans (Tmr.prescale_phase (x := x.fresh) hc he)

theorem Tmr.ticked_flags (x : Tmr) (ticks : Bool) : (x.fresh.ticked ticks).hit = (ticks && x.nextCnt == x.cmp) ∧
    (x.fresh.ticked ticks).ovf = (ticks && x.nextCnt == 0) := by
  obtain ⟨hh, ho⟩ := x.fresh.prescale_flags
  obtain ⟨-, -, gh, go⟩ := Tmr.noted_fields { x.fresh.prescale with cnt := if ticks then x.fresh.nextCnt else x.fresh.cnt }
    (x.fresh.events ticks)
  exact ⟨gh.trans (by rw [hh]; rfl), go.trans (by rw [ho]; rfl)⟩

/-- A tick sets MATCH if the next value is CMP, and OVF if it is 0. -/
theorem Tmr.clocked_flags (x : Tmr) (ticks : Bool) : (x.clocked ticks).hit = (x.hit || (ticks && x.nextCnt == x.cmp)) ∧
    (x.clocked ticks).ovf = (x.ovf || (ticks && x.nextCnt == 0)) := by
  obtain ⟨hh, ho⟩ := x.ticked_flags ticks
  exact ⟨congrArg (x.hit || ·) hh, congrArg (x.ovf || ·) ho⟩

/-- The odd counter of a pair ticks: chained, with the overflow of the even one (R453). -/
def oddTicks (low high : Tmr) : Bool := if high.chain then high.run && low.expires && low.nextCnt == 0 else high.expires

/-- What a bus clock of an unlinked pair leaves of the counters, where it has met none of the pair. -/
theorem counter_doTimer_even {s : State} {k : Nat} (ht : s.timersRun = true) (hc : s.clk.cnt = []) (hw : s.clk.wrote = [])
    (hl : (s.counter (2 * k)).linkEv = 0) (hh : (s.counter (2 * k + 1)).linkEv = 0) (n : Nat) :
    (doTimer (2 * k) s).counter n =
      if n = 2 * k + 1 then (s.counter (2 * k + 1)).clocked (oddTicks (s.counter (2 * k)) (s.counter (2 * k + 1)))
      else if n = 2 * k then (s.counter (2 * k)).clocked (s.counter (2 * k)).expires
      else s.counter n := by
  have hp := pairClock_unlinked (low := (s.counter (2 * k)).fresh) (high := (s.counter (2 * k + 1)).fresh) hl hh
  rw [doTimer_even ht, State.freshCounter_nil hc, State.freshCounter_nil hc, hp]
  refine (State.counter_tickCounter_unwritten (s := s.tickCounter (2 * k) _) hw _ _ n).trans ?_
  rw [State.counter_tickCounter_unwritten hw _ _ (2 * k + 1), State.counter_tickCounter_unwritten hw _ _ n,
    if_neg (show ¬2 * k + 1 = 2 * k by omega)]
  simp only [oddTicks, Bool.and_assoc]
  rfl

/-! ### Writes and reads -/

theorem tmrCnt_partner (k : Fin 16) : (2 * k.val) ^^^ 1 = 2 * k.val + 1 ∧ (2 * k.val + 1) ^^^ 1 = 2 * k.val := by
  revert k
  decide

/-- Two halves packed into a word (R12). -/
theorem pack_halves {a b : Nat} (ha : a < 2 ^ 32) (hb : b < 2 ^ 32) : (pack [(63, 32, a), (31, 0, b)]).toNat = a * 2 ^ 32 + b := by
  have ha' : a % 4294967296 * 4294967296 % 18446744073709551616 = a <<< 32 := by rw [Nat.shiftLeft_eq]; omega
  have hb' : b % 4294967296 % 18446744073709551616 = b := by omega
  rw [← Nat.shiftLeft_eq, Nat.shiftLeft_add_eq_or_of_lt hb]
  simp [pack, Nat.shiftLeft_eq (_ % _), ha', hb']

theorem State.cntWord_nil {s : State} (h : s.clk.cnt = []) (n : Nat) :
    s.cntWord n = pack [(63, 32, (s.counter (n ^^^ 1)).cnt), (31, 0, (s.counter n).cnt)] := by
  rw [State.cntWord, State.heldCounter_nil h, State.heldCounter_nil h]

theorem State.counter_writeCnt (s : State) (n v k : Nat) : (s.writeCnt n v).counter k =
    if k = n then { s.counter n with cnt := v % 2 ^ 32, phase := 0 } else s.counter k :=
  State.counter_updCounter ((s.noteCounter n).noteWrite (tmrCntOff n) (BitVec.ofNat 64 v)) n _ k

/-- Settles O17: each counter of an unlinked pair ticks by itself (`counter_doTimer_even`), and CNT stays as written on its bus
clock (`doTimer_cnt_written`). -/
theorem countersTickAndAreWritten : Obligations.CountersTickAndAreWritten := by
  unfold Obligations.CountersTickAndAreWritten
  refine ⟨fun s k ht hc hw hl hh _ => ?_, fun s n v ht => ?_, fun s k hc hlo hhi => ?_⟩
  · have hk : (Fin.ofNat 32 (2 * k.val)).val = 2 * k.val := Nat.mod_eq_of_lt (by omega)
    have h01 : ¬2 * k.val = 2 * k.val + 1 := by omega
    have hat := counter_doTimer_even ht hc hw hl hh
    refine ⟨_, congrArg (fun n => Host.Outcome.next (doTimer n s)) hk, ?_, fun n h0 h1 => ?_, fun n ticks hn => ?_⟩
    · rw [doTimer_even ht]
      rfl
    · rw [hat, if_neg h1, if_neg h0]
    · have hn' : (doTimer (2 * k.val) s).counter n = (s.counter n).clocked ticks := by
        rcases hn with ⟨rfl, rfl⟩ | ⟨rfl, ho, rfl⟩ | ⟨rfl, ho, rfl⟩
        · rw [hat, if_neg h01, if_pos rfl]
        · rw [hat, if_pos rfl, oddTicks, if_neg (ne_true_of_eq_false ho)]
        · rw [hat, if_pos rfl, oddTicks, if_pos ho]
      have expires_of_ticks (htick : ticks = true) (hn0 : (s.counter n).chain = false) : (s.counter n).expires = true := by
        rcases hn with ⟨rfl, rfl⟩ | ⟨rfl, -, rfl⟩ | ⟨rfl, ho, -⟩
        · exact htick
        · exact htick
        · exact absurd (hn0.symm.trans ho) (by decide)
      obtain ⟨hhit, hovf⟩ := (s.counter n).clocked_flags ticks
      rw [hn', hhit, hovf, Tmr.clocked_cnt]
      exact ⟨fun h => ⟨if_pos h, fun hc0 => Tmr.clocked_phase hc0 (expires_of_ticks h hc0) ticks, by simp [h]⟩,
        fun h => by simp [h]⟩
  · have hw := State.portWrite_taking_of_pwr ht false (f := fun s => s.writeCnt n.val (fld v 31 0)) rfl
    have hcnt := State.counter_writeCnt s n.val (fld v 31 0)
    have hself : (s.writeCnt n.val (fld v 31 0)).answered.counter n.val =
        { s.counter n.val with cnt := v.toNat % 2 ^ 32, phase := 0 } := by
      rw [State.counter_answered, hcnt, if_pos rfl, fld_zero, Nat.mod_mod]
    refine ⟨_, congrArg Host.Outcome.next hw, rfl, hself, fun k hk => ?_, rfl, rfl, _, rfl, ?_⟩
    · rw [State.counter_answered, hcnt, if_neg hk]
    · rw [doTimer_cnt_written, hself]
      exact congrArg Option.isSome ((s.noteCounter n.val).written_noteWrite _ _)
  · obtain ⟨he, ho⟩ := tmrCnt_partner k
    refine ⟨?_, ?_⟩
    · exact (congrArg BitVec.toNat (State.cntWord_nil hc _)).trans (by rw [he, pack_halves hhi hlo])
    · exact (congrArg BitVec.toNat (State.cntWord_nil hc _)).trans (by rw [ho, pack_halves hlo hhi])

end Sys2Proof.Machine
end

section
/-! PROOFS. Capture inputs: their edges, the reads of CAP_VAL and CAP_CTL.EN (R457 to R461). -/

namespace Sys2Proof.Machine

open Sys2Proof

/-! ### The input as sampled and as held on a bus clock -/

@[simp] theorem State.capture_sampleCap (s : State) (i : Nat) (y : Bool) (j : Nat) : (s.sampleCap i y).capture j =
    if j = i then { s.capture i with y := y, yAt := s.levelSince i y } else s.capture j := by
  rw [State.sampleCap, State.capture_updCapture]
  by_cases h : (s.capture i).y = y
  · subst h
    simp [State.levelSince]
  · simp [State.levelSince, h]

@[simp] theorem State.capture_changeCap (s : State) (i : Nat) (f : Cap → Cap) (j : Nat) : (s.changeCap i f).capture j =
    if j = i then f (s.capture i) else s.capture j :=
  State.capture_updCapture { s with clk := { s.clk with cap := tabSet s.clk.cap i (s.heldCap i) } } i f j

theorem State.heldCap_nil {s : State} (h : s.clk.cap = []) (i : Nat) : s.heldCap i = s.capture i := by
  simp [State.heldCap, h]

theorem State.captured_nil {s : State} (h : s.clk.took = []) (i : Nat) : s.captured i = none := by
  simp [State.captured, h]

/-- An input of which the bus clock has brought nothing is held as sampled. -/
theorem State.heldCap_sampleCap {s : State} (h : s.clk.cap = []) (i : Nat) (y : Bool) : (s.sampleCap i y).heldCap i =
    { s.capture i with y := y, yAt := s.levelSince i y } := by
  rw [State.heldCap_nil (s := s.sampleCap i y) h, State.capture_sampleCap, if_pos rfl]

/-- The bus clock completes the F bus clocks of the filter (R458). -/
theorem State.filtered_sampleCap {s : State} (h : s.clk.cap = []) (i : Nat) (y : Bool) : (s.sampleCap i y).filtered i =
    ((s.capture i).en && y != (s.capture i).level && decide ((s.capture i).filter ≤ s.now + 1 - s.levelSince i y)) := by
  rw [State.filtered, State.heldCap_sampleCap h, State.capture_sampleCap, if_pos rfl]
  rfl

theorem State.qualified_sampleCap {s : State} (h : s.clk.cap = []) (ht : s.clk.took = []) (i : Nat) (y : Bool) :
    (s.sampleCap i y).qualified i = ((s.sampleCap i y).filtered i && (s.capture i).qualifies y) := by
  rw [State.qualified, State.heldCap_sampleCap h, State.capture_sampleCap, if_pos rfl,
    State.captured_nil (s := s.sampleCap i y) ht, Option.isNone_none, Bool.and_true]
  rfl

theorem State.follows_sampleCap {s : State} (h : s.clk.cap = []) (i : Nat) (y : Bool) : (s.sampleCap i y).follows i =
    ((!(s.capture i).en && y != (s.capture i).level) || ((s.sampleCap i y).filtered i && !(s.capture i).qualifies y)) := by
  rw [State.follows, State.heldCap_sampleCap h, State.capture_sampleCap, if_pos rfl]
  rfl

/-! ### A qualifying edge -/

/-- A capture of a value (R459). -/
def Cap.caught (c : Cap) (v : Word) : Cap :=
  { c with level := c.y, divcnt := 0, val := v, pending := true, ovr := c.ovr || c.pending }

/-- Input i captures a value on this bus clock, and whether it replaces one unread is kept (R459, R460). -/
def State.catches (s : State) (i : Nat) (v : Word) : State :=
  let w := s.changeCap i (·.caught v)
  { w with clk := { w.clk with took := tabSet w.clk.took i (s.capture i).pending } }

/-- CAP_OVR is raised (R460). -/
def State.overruns (s : State) (i : Nat) : State := (s.noteSet (capStatOff i) 2).raise 77 0 0 none

/-- CAP_OVR as it waits for its detection. -/
def capOvr : Detection :=
  { source := 77, attr := { kind := 0, unit := 0, inst := none }, detail := 0, xcause := none, present := true }

/-- Within the divisor a qualifying edge only counts (R459). -/
theorem State.qualify_within {s : State} {i : Nat} (h : (s.capture i).divcnt < (s.heldCap i).div) :
    s.qualify i = s.changeCap i (fun c => { c with level := c.y, divcnt := c.divcnt + 1 }) := by
  simp [State.qualify, h]

/-- Past the divisor a qualifying edge captures; where it replaces an unread value it is an overrun (R459, R460). -/
theorem State.qualify_past {s : State} {i : Nat} (h : (s.heldCap i).div ≤ (s.capture i).divcnt) :
    s.qualify i = if (s.capture i).pending then (s.catches i (s.capture64 (s.heldCap i).cntr)).overruns i
      else s.catches i (s.capture64 (s.heldCap i).cntr) := by
  simp only [State.qualify, if_neg (Nat.not_lt.mpr h)]
  rfl

@[simp] theorem State.capture_catches (s : State) (i : Nat) (v : Word) (j : Nat) : (s.catches i v).capture j =
    if j = i then (s.capture i).caught v else s.capture j := State.capture_changeCap s i _ j

@[simp] theorem State.capture_overruns (s : State) (i j : Nat) : (s.overruns i).capture j = s.capture j := rfl

theorem State.captured_catches (s : State) (i : Nat) (v : Word) : (s.catches i v).captured i = some (s.capture i).pending := by
  rw [State.captured, State.catches, find_tabSet, if_pos rfl]

theorem State.heldCap_catches (s : State) (i : Nat) (v : Word) : (s.catches i v).heldCap i = s.heldCap i :=
  tabGet_tabSet_same ..

/-! ### Reads of CAP_VAL -/

theorem regAt_capVal (i : Fin 8) : regAt (0x2808 + 0x20 * i.val) = some (.capVal i.val) := by
  revert i
  decide

/-- A read of CAP_VAL where the block answers (R42, R460). -/
theorem State.portRead_capVal {s : State} (h : s.answersAbsent = false) (i : Fin 8) :
    s.portRead (0x2808 + 0x20 * i.val) = (s.portDone (s.capVal i.val)).capRead i.val := by
  simp only [State.portRead, State.regRead, h, regAt_capVal]
  rfl

/-- A read clears PENDING (R460). -/
theorem State.capRead_none {s : State} {i : Nat} (h : s.captured i = none) :
    s.capRead i = s.changeCap i (fun c => { c with pending := false }) := by rw [State.capRead, h]

/-- With a capture that replaced nothing unread a read changes nothing (R460). -/
theorem State.capRead_false {s : State} {i : Nat} (h : s.captured i = some false) : s.capRead i = s := by rw [State.capRead, h]

/-- A read of the value that a capture replaced takes the overrun back, and CAP_OVR with it (R460). -/
theorem State.capRead_true {s : State} {i : Nat} (h : s.captured i = some true) :
    (s.capRead i).capture i = { s.capture i with ovr := (s.capture i).ovr && (s.heldCap i).ovr } ∧
    (s.capRead i).glb = s.glb ∧
    (s.capRead i).flt = { s.flt with waiting := dropFirst (fun d => d.source == 77) s.flt.waiting } := by
  rw [State.capRead, h]
  refine ⟨?_, rfl, rfl⟩
  exact (State.capture_updCapture s i _ i).trans (if_pos rfl)

/-- A read of CAP_VAL on the bus clock of a capture (R460). -/
theorem doCapRead_captured {s : State} {i : Fin 8} {b : Bool} (ha : s.answersAbsent = false) (hc : s.captured i.val = some b) :
    (doCapRead i.val s).glb.rpRdata = (s.heldCap i.val).val ∧
    (doCapRead i.val s).capture i.val =
      (if b then { s.capture i.val with ovr := (s.capture i.val).ovr && (s.heldCap i.val).ovr } else s.capture i.val) ∧
    (doCapRead i.val s).flt =
      if b then { s.flt with waiting := dropFirst (fun d => d.source == 77) s.flt.waiting } else s.flt := by
  rw [doCapRead, State.portRead_capVal ha]
  cases b with
  | false =>
    rw [State.capRead_false (s := s.portDone _) hc]
    exact ⟨rfl, rfl, rfl⟩
  | true =>
    obtain ⟨hcap, hglb, hflt⟩ := State.capRead_true (s := s.portDone (s.capVal i.val)) hc
    exact ⟨congrArg Glob.rpRdata hglb, hcap, hflt⟩

theorem dropFirst_append {α : Type} {p : α → Bool} {l : List α} (h : ∀ x ∈ l, p x = false) {a : α} (ha : p a = true) :
    dropFirst p (l ++ [a]) = l := by
  induction l with
  | nil => simp [dropFirst, ha]
  | cons x xs ih =>
    have hx : p x = false := h x List.mem_cons_self
    simp [dropFirst, hx, ih (fun y hy => h y (List.mem_cons_of_mem _ hy))]

/-! ### CAP_CTL.EN -/

theorem bit_or (v w : Word) (n : Nat) : bit (v ||| w) n = (bit v n || bit w n) := by simp [bit]

theorem bit_merge (m old new : Word) {n : Nat} (hn : n < 64) :
    bit (merge m old new) n = if bit m n then bit new n else bit old n := by
  simp only [bit, merge, BitVec.testBit_toNat, BitVec.getLsbD_or, BitVec.getLsbD_and, BitVec.getLsbD_not, hn]
  by_cases h : m.getLsbD n = true <;> simp [h]

/-- A write of CAP_CTL in which EN rises (R457, R458). -/
theorem State.writeCapCtl_rises {s : State} {i : Nat} {v : Word} (he : (s.heldCap i).en = false) (hv : bit v 0 = true) :
    ∃ m w, bit m 0 = true ∧ bit w 0 = true ∧ s.writeCapCtl i v = s.changeCap i (fun c =>
      { c with ctl := merge m c.ctl w, divcnt := 0, pending := false, level := c.y }) := by
  have hw : bit (if fld v 23 16 = 0 then setFld v 23 16 1 else v) 0 = true := by
    split
    · rw [setFld, bit_merge _ _ _ (by decide), if_neg (by decide), hv]
    · exact hv
  refine ⟨mask 2 0 ||| (mask 31 16 ||| mask 12 8 ||| (if fld v 5 4 = 3 then 0 else mask 5 4)), _, ?_, hw, ?_⟩
  · rw [bit_or, show bit (mask 2 0) 0 = true by decide, Bool.true_or]
  · simp only [State.writeCapCtl, he, hv]
    rfl

/-- EN rises: LEVEL is the input, and DIVCNT and PENDING are cleared (R458). -/
theorem State.enableCap_rises {s : State} {i : Nat} (hcap : s.clk.cap = []) (he : (s.capture i).en = false) (y : Bool) :
    ((s.enableCap i y).capture i).en = true ∧ ((s.enableCap i y).capture i).level = y ∧
    ((s.enableCap i y).capture i).divcnt = 0 ∧ ((s.enableCap i y).capture i).pending = false ∧
    ((s.enableCap i y).capture i).val = (s.capture i).val := by
  have hnow : (s.sampleCap i y).capture i = { s.capture i with y := y, yAt := s.levelSince i y } := by
    rw [State.capture_sampleCap, if_pos rfl]
  have hv : bit (((s.sampleCap i y).capture i).ctl ||| 1) 0 = true := by
    rw [bit_or, show bit 1 0 = true by decide, Bool.or_true]
  have hen : ((s.sampleCap i y).heldCap i).en = false := (congrArg Cap.en (State.heldCap_sampleCap hcap i y)).trans he
  obtain ⟨m, w, hm, hw, h⟩ := State.writeCapCtl_rises hen hv
  rw [State.enableCap, h, State.capture_changeCap, if_pos rfl, hnow]
  exact ⟨by rw [Cap.en, bit_merge _ _ _ (by decide), if_pos hm, hw], rfl, rfl, rfl, rfl⟩

/-! ### The bus clock of an edge -/

/-- The input has been at the level for F bus clocks, and differs from LEVEL, at the end of this bus clock, with EN set (R458). -/
theorem State.filtered_of {s : State} {i : Nat} {y : Bool} (hcap : s.clk.cap = []) (he : (s.capture i).en = true)
    (hl : (s.capture i).level ≠ y) (hf : (s.capture i).filter ≤ s.now + 1 - s.levelSince i y) :
    (s.sampleCap i y).filtered i = true := by
  simp [State.filtered_sampleCap hcap, he, hf, hl.symm]

theorem doCapture_qualified {s : State} {i : Nat} {y : Bool} (hr : s.capsRun = true)
    (hq : (s.sampleCap i y).qualified i = true) : doCapture i y s = (s.sampleCap i y).qualify i :=
  if_pos (Bool.and_eq_true_iff.mpr ⟨hr, hq⟩)

/-- Input i with what a capture on this bus clock leaves of it, its overrun apart (R458, R459). -/
def State.edgeCaught (s : State) (i : Nat) (y : Bool) : State :=
  (s.sampleCap i y).catches i (s.capture64 (s.capture i).cntr)

theorem doCapture_past {s : State} {i : Nat} {y : Bool} (hcap : s.clk.cap = []) (hr : s.capsRun = true)
    (hq : (s.sampleCap i y).qualified i = true) (hd : (s.capture i).div ≤ (s.capture i).divcnt) :
    doCapture i y s = if (s.capture i).pending then (s.edgeCaught i y).overruns i else s.edgeCaught i y := by
  have hheld := State.heldCap_sampleCap hcap i y
  have hnow : (s.sampleCap i y).capture i = { s.capture i with y := y, yAt := s.levelSince i y } := by
    rw [State.capture_sampleCap, if_pos rfl]
  rw [doCapture_qualified hr hq, State.qualify_past (by rw [hheld, hnow]; exact hd), hheld, hnow]
  rfl

theorem State.capture_edgeCaught (s : State) (i : Nat) (y : Bool) (j : Nat) : (s.edgeCaught i y).capture j =
    if j = i then Cap.caught { s.capture i with y := y, yAt := s.levelSince i y } (s.capture64 (s.capture i).cntr)
    else s.capture j := by
  rw [State.edgeCaught, State.capture_catches, State.capture_sampleCap, if_pos rfl, State.capture_sampleCap]
  by_cases h : j = i <;> simp [h]

theorem State.captured_edgeCaught (s : State) (i : Nat) (y : Bool) :
    (s.edgeCaught i y).captured i = some (s.capture i).pending := by
  rw [State.edgeCaught, State.captured_catches, State.capture_sampleCap, if_pos rfl]

theorem State.heldCap_edgeCaught {s : State} (hcap : s.clk.cap = []) (i : Nat) (y : Bool) :
    (s.edgeCaught i y).heldCap i = { s.capture i with y := y, yAt := s.levelSince i y } := by
  rw [State.edgeCaught, State.heldCap_catches, State.heldCap_sampleCap hcap]

/-- Settles O18: an input that the bus clock has brought nothing is held as sampled (`heldCap_sampleCap`), so the edge that completes
its filter is `doCapture_past` or `qualify_within`, and a read on the same bus clock is `doCapRead_captured`. -/
theorem capturesAndTheirReads : Obligations.CapturesAndTheirReads := by
  unfold Obligations.CapturesAndTheirReads
  intro s i y _ hcap htook
  have hheld := State.heldCap_sampleCap hcap i.val y
  have hnow : (s.sampleCap i.val y).capture i.val = { s.capture i.val with y := y, yAt := s.levelSince i.val y } := by
    rw [State.capture_sampleCap, if_pos rfl]
  have hother (j : Nat) (hj : j ≠ i.val) : (s.sampleCap i.val y).capture j = s.capture j := by
    rw [State.capture_sampleCap, if_neg hj]
  have hqual := State.qualified_sampleCap hcap htook i.val y
  refine ⟨fun hr he hl hq hf hd => ?_, fun hr he hl hq hf hd => ?_, fun h => ?_, fun hr h => ?_, fun ha => ?_, fun ht he => ?_⟩
  · rw [State.filtered_of hcap he hl hf, hq] at hqual
    have hedge := doCapture_past hcap hr hqual hd
    have hmine := s.capture_edgeCaught i.val y i.val
    rw [if_pos rfl] at hmine
    have hrest (j : Nat) (hj : j ≠ i.val) : (s.edgeCaught i.val y).capture j = s.capture j := by
      rw [State.capture_edgeCaught, if_neg hj]
    have hcaught := s.captured_edgeCaught i.val y
    have hwas := State.heldCap_edgeCaught hcap i.val y
    have hval : ((s.edgeCaught i.val y).heldCap i.val).val = (s.capture i.val).val := by rw [hwas]
    have hovr : ((s.edgeCaught i.val y).heldCap i.val).ovr = (s.capture i.val).ovr := by rw [hwas]
    cases hp : (s.capture i.val).pending with
    | false =>
      rw [hp] at hcaught
      rw [hp, if_neg Bool.false_ne_true] at hedge
      have hread (ha : s.answersAbsent = false) := doCapRead_captured (s := s.edgeCaught i.val y) ha hcaught
      refine ⟨_, _, congrArg Host.Outcome.next hedge, rfl, hmine.trans (by rw [Cap.caught, hp]), fun _ => rfl,
        fun h => absurd h (by decide), hrest, rfl, fun ha => ⟨rfl, ?_, ?_, fun _ => (hread ha).2.2⟩⟩
      · exact (hread ha).1.trans hval
      · refine (hread ha).2.1.trans ?_
        simp [hmine, Cap.caught, hp]
    | true =>
      rw [hp] at hcaught
      rw [hp, if_pos rfl] at hedge
      have hread (ha : s.answersAbsent = false) := doCapRead_captured (s := (s.edgeCaught i.val y).overruns i.val) ha hcaught
      have hwait : ((s.edgeCaught i.val y).overruns i.val).flt.waiting = s.flt.waiting ++ [capOvr] := rfl
      refine ⟨_, _, congrArg Host.Outcome.next hedge, rfl, hmine.trans (by rw [Cap.caught, hp]), fun h => absurd h (by decide),
        fun _ => ⟨?_, ?_⟩, hrest, rfl, fun ha => ⟨rfl, ?_, ?_, fun hn => (hread ha).2.2.trans ?_⟩⟩
      · rw [hwait, List.length_append, List.length_singleton]
      · exact ⟨capOvr, by rw [hwait]; exact List.mem_append_right _ List.mem_cons_self, rfl⟩
      · exact (hread ha).1.trans hval
      · refine (hread ha).2.1.trans ?_
        have hovr' : (((s.edgeCaught i.val y).overruns i.val).heldCap i.val).ovr = (s.capture i.val).ovr := hovr
        simp [hmine, hovr', Cap.caught, hp]
      · have hdrop := dropFirst_append (p := fun d : Detection => d.source == 77) (l := s.flt.waiting)
          (fun d hd => beq_eq_false_iff_ne.mpr (hn d hd)) (a := capOvr) rfl
        exact congrArg (fun ds => { s.flt with waiting := ds }) hdrop
  · rw [State.filtered_of hcap he hl hf, hq] at hqual
    have hwithin : ((s.sampleCap i.val y).capture i.val).divcnt < ((s.sampleCap i.val y).heldCap i.val).div := by
      rw [hheld, hnow]
      exact hd
    refine ⟨_, congrArg Host.Outcome.next ((doCapture_qualified hr hqual).trans (State.qualify_within hwithin)), rfl, ?_,
      fun j hj => ?_, rfl⟩
    · rw [State.capture_changeCap, if_pos rfl, hnow]
    · rw [State.capture_changeCap, if_neg hj, hother j hj]
  · have hnone : (s.capsRun && (s.sampleCap i.val y).qualified i.val) = false := by
      rw [hqual, State.filtered_sampleCap hcap]
      rcases h with h | h | h | h | h
      · rw [h, Bool.false_and]
      · simp only [h, Bool.false_and, Bool.and_false]
      · simp only [h, bne_self_eq_false, Bool.and_false, Bool.false_and]
      · simp only [h, Bool.and_false]
      · simp only [decide_eq_false (Nat.not_le.mpr h), Bool.and_false, Bool.false_and]
    refine ⟨_, congrArg Host.Outcome.next (if_neg (ne_true_of_eq_false hnone)), rfl, hnow, hother, rfl⟩
  · have hfol := State.follows_sampleCap hcap i.val y
    rw [State.filtered_sampleCap hcap] at hfol
    by_cases hl : (s.capture i.val).level = y
    · have hstays : (s.capsRun && (s.sampleCap i.val y).follows i.val) = false := by simp [hfol, hl]
      refine ⟨_, congrArg Host.Outcome.next (if_neg (ne_true_of_eq_false hstays)), rfl, ?_, hother, rfl⟩
      simp only [hnow, hl]
    · have hmoves : (s.capsRun && (s.sampleCap i.val y).follows i.val) = true := by
        rw [hfol, hr]
        rcases h with he | ⟨hq, hf⟩
        · simp [he, Ne.symm hl]
        · cases he : (s.capture i.val).en <;> simp [hq, hf, Ne.symm hl]
      refine ⟨_, congrArg Host.Outcome.next (if_pos hmoves), rfl, ?_, fun j hj => ?_, rfl⟩
      · rw [State.capture_changeCap, if_pos rfl, hnow]
      · rw [State.capture_changeCap, if_neg hj, hother j hj]
  · have hread := State.portRead_capVal ha i
    rw [State.capRead_none (s := s.portDone _) (State.captured_nil (s := s.portDone _) htook i.val)] at hread
    refine ⟨_, congrArg Host.Outcome.next hread, ?_, rfl, ?_, rfl, fun j hj => ?_⟩
    · exact congrArg Cap.val (State.heldCap_nil hcap i.val)
    · rw [State.capture_changeCap, if_pos rfl]
      rfl
    · rw [State.capture_changeCap, if_neg hj]
      rfl
  · have hw := State.portWrite_taking_of_pwr ht false (f := fun s => s.enableCap i.val y) rfl
    obtain ⟨hen, hlev, hdiv, hpend, hval⟩ := State.enableCap_rises hcap he y
    refine ⟨_, congrArg Host.Outcome.next hw, hen, hlev, hdiv, hpend, hval, rfl, fun j hj => ?_⟩
    exact (State.capture_changeCap _ i.val _ j).trans ((if_neg hj).trans (hother j hj))

end Sys2Proof.Machine
end

section
/-! PROOFS. Every command goes on in every state. -/

namespace Sys2Proof.Machine

open Sys2Proof

/-- Settles O2: the meaning of every command is the state it leaves, so each arm of `exec` is a next state by definition. -/
theorem everyCommandGoesOn : Obligations.EveryCommandGoesOn := by
  unfold Obligations.EveryCommandGoesOn
  intro c s
  cases c with
  | _ => exact ⟨_, rfl⟩

end Sys2Proof.Machine
end

section
/-! PROOFS. The power, the two resets and their release (R54 to R64, R489). -/

namespace Sys2Proof.Machine

open Sys2Proof

/-! ### What a reset leaves of the ports (R64) -/

/-- The epochs of a fabric port after every tag in use has been retired. -/
theorem tabGet_retire (v : Nat → Nat) (ls : List FSlot) (t : List (Nat × Nat)) (k : Nat) :
    tabGet 0 (ls.foldl (fun t l => tabSet t l.idx (v l.idx)) t) k =
      if k ∈ ls.map (·.idx) then v k else tabGet 0 t k := by
  induction ls generalizing t with
  | nil => simp
  | cons l ls ih =>
    rw [List.foldl_cons, ih, tabGet_tabSet]
    by_cases hk : k = l.idx <;> simp [hk]

theorem FPort.epoch_afterReset (p : FPort) (k : Nat) :
    p.afterReset.epoch k = if k ∈ p.slots.map (·.idx) then (p.epoch k + 1) % 256 else p.epoch k :=
  tabGet_retire (fun i => (p.epoch i + 1) % 256) p.slots p.epochs k

theorem State.port_blank (s : State) (p : Power) (c : Nat) : (s.blank p).port c = (s.port c).afterReset :=
  tabGet_map ({} : MPort) s.ports (fun _ q => q.afterReset) c rfl

theorem State.fab_blank (s : State) (p : Power) (f : Nat) : (s.blank p).fab f = (s.fab f).afterReset :=
  tabGet_map ({} : FPort) s.fabs (fun _ q => q.afterReset) f rfl

/-- A tag in use on a fabric port is retired (R64). -/
theorem State.epoch_blank {s : State} {f : Nat} {l : FSlot} (hl : l ∈ (s.fab f).slots) (p : Power) :
    ((s.blank p).fab f).epoch l.idx = ((s.fab f).epoch l.idx + 1) % 256 := by
  rw [State.fab_blank, FPort.epoch_afterReset, if_pos (List.mem_map_of_mem hl)]

/-! ### The resets (R54, R57, R59) -/

/-- In Lockdown and in Off only the pin falls. -/
theorem doPorst_pin {s : State} (h : s.pwr.lockdown = true ∨ s.pwr.bound = .off) :
    doPorst s = { s with pwr := { s.pwr with porstN := false } } := by
  unfold doPorst
  rw [if_pos (by simpa using h)]

theorem doPorst_blank {s : State} (hl : s.pwr.lockdown = false) (ho : s.pwr.bound ≠ .off) :
    doPorst s = s.blank (s.pwr.gone .inReset true false s.pwr.rstN) := by
  unfold doPorst
  rw [if_neg (by simp [hl, ho])]

/-- In Lockdown, in Off and of a fused-absent block only the pin falls. -/
theorem doRst_pin {s : State} (h : s.pwr.lockdown = true ∨ s.pwr.bound = .off ∨ s.pwr.bound = .fusedAbsent) :
    doRst s = { s with pwr := { s.pwr with rstN := false } } := by
  unfold doRst
  rw [if_pos (by simpa [or_assoc] using h)]

theorem doRst_blank {s : State} (hl : s.pwr.lockdown = false) (hb : s.pwr.bound = .present ∨ s.pwr.bound = .inReset) :
    doRst s = s.blank (s.pwr.gone .inReset true s.pwr.porstN false) := by
  unfold doRst
  rw [if_neg]
  rcases hb with hb | hb <;> simp [hl, hb]

/-- Settles O9: the power lost and both resets blank the block (`doPorst_blank`, `doRst_blank`), whose ports are those of
`State.port_blank` and `State.fab_blank`; elsewhere only the pin falls. -/
theorem resetsClearTheBlock : Obligations.ResetsClearTheBlock := by
  unfold Obligations.ResetsClearTheBlock
  intro s
  refine ⟨fun c p hc => ?_, fun h => ?_, fun h => ?_⟩
  · have hblank : exec c s = .next (s.blank p) := by
      rcases hc with ⟨rfl, rfl⟩ | ⟨rfl, hl, ho, rfl⟩ | ⟨rfl, hl, hb, rfl⟩
      · rfl
      · exact congrArg Host.Outcome.next (doPorst_blank hl ho)
      · exact congrArg Host.Outcome.next (doRst_blank hl hb)
    refine ⟨_, hblank, rfl, rfl, fun k => s.port_blank p k, fun f => ?_, fun f l hl => State.epoch_blank hl p⟩
    rw [State.fab_blank]
    rfl
  · exact ⟨congrArg Host.Outcome.next (doPorst_pin h), congrArg Host.Outcome.next (doRst_pin (h.imp_right .inl))⟩
  · exact congrArg Host.Outcome.next (doRst_pin (.inr (.inr h)))

/-! ### Power and the release (R54, R57, R489) -/

theorem doPgoodRise_off {s : State} (h : s.pwr.bound = .off) :
    doPgoodRise s = { s with pwr := { s.pwr with pgood := true, porstN := false, bound := .inReset } } := by
  simp [doPgoodRise, h]

theorem doPgoodRise_powered {s : State} (h : s.pwr.bound ≠ .off) : doPgoodRise s = s := by simp [doPgoodRise, h]

/-- A block in reset starts at step FUSE, unless TT_ABSENT, sampled at the release of TT_PORST_N, is high (R489). -/
theorem doRelease_of_inReset {s : State} (h : s.pwr.bound = .inReset) (absent : Bool) {gone : Bool}
    (hg : gone = if s.pwr.porstN then s.pwr.absent else absent) :
    doRelease_ absent s = { s with pwr := { s.pwr with
      porstN := true, rstN := true, step := 1, selfTest := !s.pwr.porstN, absent := gone
      bound := if gone then .fusedAbsent else .present, leftAt := if gone then none else some s.now } } := by
  subst hg
  cases hp : s.pwr.porstN <;> simp [doRelease_, h, hp]

theorem doRelease_of_pins {s : State} (h : s.pwr.bound = .off ∨ s.pwr.bound = .present) (absent : Bool) :
    doRelease_ absent s = { s with pwr := { s.pwr with porstN := true, rstN := true } } := by
  rcases h with h | h <;> simp [doRelease_, h]

theorem doRelease_of_fusedAbsent {s : State} (h : s.pwr.bound = .fusedAbsent) (absent : Bool) :
    doRelease_ absent s = { s with pwr := { s.pwr with rstN := true } } := by simp [doRelease_, h]

/-- Settles O10: the rise of TT_PGOOD and the release, each by the boundary condition it meets. -/
theorem releaseStartsTheBlock : Obligations.ReleaseStartsTheBlock := by
  unfold Obligations.ReleaseStartsTheBlock
  intro s
  refine ⟨fun h => congrArg Host.Outcome.next (doPgoodRise_off h), fun h => congrArg Host.Outcome.next (doPgoodRise_powered h),
    fun absent h => ?_, fun absent h => congrArg Host.Outcome.next (doRelease_of_pins h absent),
    fun absent h => congrArg Host.Outcome.next (doRelease_of_fusedAbsent h absent)⟩
  refine ⟨_, congrArg Host.Outcome.next (doRelease_of_inReset h absent rfl), rfl, rfl, rfl, fun hpresent => ?_⟩
  exact if_neg (ne_true_of_eq_false hpresent)

end Sys2Proof.Machine
end

section
/-! PROOFS. A register write in DOZE or SLEEP wakes the block (R42, R474, R477, R478). -/

namespace Sys2Proof.Machine

open Sys2Proof

/-- In DOZE and SLEEP the lowest wake event of the bus clock is noted (R474, R477). -/
theorem Power.wokenBy_lowest {p : Power} (h : p.phase = .doze ∨ p.phase = .sleep) (c : WakeCause) :
    p.wokenBy c = { p with woke := some (lowestCause p.woke c) } := by
  rcases h with h | h <;> simp [Power.wokenBy, h]

/-- What an accepted write leaves of the power registers in DOZE and SLEEP, if it changes none itself. -/
theorem State.portWrite_asleep {s : State} (ha : s.answersAbsent = false) (hp : s.pwr.phase = .doze ∨ s.pwr.phase = .sleep)
    (inFatal : Bool) {f : State → State} (hf : (f s).pwr = s.pwr) :
    (s.portWrite inFatal f).pwr = { s.pwr with woke := some (lowestCause s.pwr.woke .register) } ∧
      (s.portWrite inFatal f).glb.rpDone = true := by
  have hact : (if s.pwr.lockdown || (s.pwr.fatal && !inFatal) then s else f s).pwr = s.pwr := by
    split
    · rfl
    · exact hf
  simp only [State.portWrite, ha, State.wakeBy_eq, hact, Power.wokenBy_lowest hp, Bool.false_eq_true, if_false, and_self]

/-- TARGET selects nothing in DOZE and SLEEP (R475). -/
theorem State.writeTarget_asleep {s : State} (hp : s.pwr.phase = .doze ∨ s.pwr.phase = .sleep) (t : Nat) :
    s.writeTarget t = s := by
  unfold State.writeTarget State.targetRun State.targetLow
  rcases hp with hp | hp <;> simp [hp]

/-- A write of FREEZE, which the lock guards, changes no power register (R464). -/
theorem State.freezeWrite_pwr (s : State) (on : Bool) : (if s.glb.lock then s else s.setFreeze on).pwr = s.pwr := by
  split
  · rfl
  · exact (State.setFreeze_frame s on).get .pwr rfl

/-- Nothing is worked on while the clusters hold no clock (R473). -/
theorem State.workClock_unclocked {s : State} (h : s.pwr.clocked = false) : s.workClock = s := by
  simp [State.workClock, h]

/-- A wake event of the bus clock before begins the wake, in which the clusters hold no clock (R477, R478). -/
theorem State.workClock_wakeClock_pwr {s : State} {c : WakeCause} (h : s.pwr.woke = some c) :
    s.wakeClock.workClock.pwr = { s.pwr with phase := .waking, wake := wakeCode c, woke := none } := by
  have hwake : s.wakeClock = { s with pwr := { s.pwr with phase := .waking, wake := wakeCode c, woke := none } } := by
    simp [State.wakeClock, h]
  rw [hwake, State.workClock_unclocked (s := { s with pwr := _ }) rfl]

/-- What a bus clock brings before the wake leaves the power registers. -/
theorem State.publish_clocks_pwr (s : State) : s.clocks.pulsesEnd.bellClock.publish.pwr = s.pwr := by
  calc s.clocks.pulsesEnd.bellClock.publish.pwr
    _ = s.clocks.pulsesEnd.bellClock.pwr := (State.publish_frame _).get .pwr rfl
    _ = s.clocks.pulsesEnd.pwr := (State.bellClock_frame _).get .pwr rfl
    _ = s.clocks.pwr := (State.pulsesEnd_frame _).get .pwr rfl
    _ = s.pwr := (State.clocks_frame _).get .pwr rfl

/-- The power registers after a bus clock are those that the wake and the work of it leave. -/
theorem State.nextClock_pwr (s : State) :
    s.nextClock.pwr = s.clocks.pulsesEnd.bellClock.publish.wakeClock.workClock.pwr := by
  have hend (u : State) : u.alarmClock.droopClock.pwr = u.pwr :=
    ((State.droopClock_frame _).get .pwr rfl).trans ((State.alarmClock_frame u).get .pwr rfl)
  rw [State.nextClock]
  exact hend s.clocks.pulsesEnd.bellClock.publish.wakeClock.workClock

/-- The bus clock after a wake event in DOZE or SLEEP begins the wake (R477, R478). -/
theorem State.nextClock_woke {s : State} {c : WakeCause} (h : s.pwr.woke = some c) :
    s.nextClock.pwr = { s.pwr with phase := .waking, wake := wakeCode c, woke := none } := by
  rw [State.nextClock_pwr, State.workClock_wakeClock_pwr (s.publish_clocks_pwr ▸ h), s.publish_clocks_pwr]

/-- Settles O14: none of the writes changes a power register itself, so each is the wake event of `State.portWrite_asleep`, and
the next bus clock is `State.nextClock_woke`. -/
theorem writeWakesTheBlock : Obligations.WriteWakesTheBlock := by
  unfold Obligations.WriteWakesTheBlock
  refine ⟨fun s c _ ha hp hc => ?_, fun s c hw => ?_⟩
  · have hacts : ∃ inFatal f, exec c s = .next (s.portWrite inFatal f) ∧ (f s).pwr = s.pwr := by
      rcases hc with rfl | rfl | rfl | rfl | ⟨n, rfl⟩ | ⟨n, v, rfl⟩ | ⟨on, rfl⟩ | ⟨off, v, rfl, hr⟩
      · exact ⟨_, _, rfl, congrArg State.pwr (State.writeTarget_asleep hp _)⟩
      · exact ⟨_, _, rfl, congrArg State.pwr (State.writeTarget_asleep hp _)⟩
      · exact ⟨_, _, rfl, congrArg State.pwr (State.writeTarget_asleep hp _)⟩
      · exact ⟨_, _, rfl, rfl⟩
      · exact ⟨_, _, rfl, (State.closeRecord_frame _).get .pwr rfl⟩
      · exact ⟨_, _, rfl, (State.writeCnt_frame s _ _).get .pwr rfl⟩
      · exact ⟨_, _, rfl, State.freezeWrite_pwr s on⟩
      · exact ⟨_, _, congrArg Host.Outcome.next (State.regWrite_of_none hr v), rfl⟩
    obtain ⟨inFatal, f, he, hf⟩ := hacts
    obtain ⟨hpwr, hdone⟩ := State.portWrite_asleep ha hp inFatal hf
    refine ⟨_, he, ?_, hdone, ?_⟩
    · rw [hpwr]
    · rw [hpwr]
      rcases s.pwr.woke with _ | _ | _ | _ | _ <;> rfl
  · rw [State.nextClock_woke hw]
    exact ⟨rfl, rfl, by cases c <;> rfl⟩

end Sys2Proof.Machine
end

section
/-! PROOFS. Read beats of a fragment, and beats of no request (R33, R112, R123, R133, R140, R154). -/

namespace Sys2Proof.Machine

open Sys2Proof

/-! ### Bytes scattered over the hold -/

theorem Memory.read_scatter_outside (m : List Host.Cell) (l : List Nat) (a : Nat → Nat) (b : Nat → Byte) {x : Nat}
    (h : ∀ k ∈ l, x ≠ a k) : Memory.read (l.foldl (fun m k => Memory.write m (a k) (b k)) m) x = Memory.read m x := by
  induction l generalizing m with
  | nil => rfl
  | cons k ks ih =>
    rw [List.foldl_cons, ih _ fun j hj => h j (List.mem_cons_of_mem _ hj),
      Memory.read_write_other _ _ _ _ (h k List.mem_cons_self)]

/-- The byte written at a place that no other of the bytes takes is read there. -/
theorem Memory.read_scatter_inside (m : List Host.Cell) (l : List Nat) (a : Nat → Nat) (b : Nat → Byte) {k : Nat}
    (hk : k ∈ l) (h : ∀ j ∈ l, a j = a k → j = k) : Memory.read (l.foldl (fun m k => Memory.write m (a k) (b k)) m) (a k) = b k := by
  induction l generalizing m with
  | nil => cases hk
  | cons j js ih =>
    rw [List.foldl_cons]
    by_cases hks : k ∈ js
    · exact ih _ hks fun i hi => h i (List.mem_cons_of_mem _ hi)
    · obtain rfl : k = j := (List.mem_cons.1 hk).resolve_right hks
      rw [Memory.read_scatter_outside, Memory.read_write_same]
      intro i hi ha
      exact hks (h i (List.mem_cons_of_mem _ hi) ha.symm ▸ hi)

/-! ### What every beat of the port joins (R141, R154) -/

theorem State.beatSeen_port {s : State} (hu : s.up = true) (c : Nat) (b : RBeat) (k : Nat) :
    (s.beatSeen c b).port k = if k = c ∧ s.written (cluErrOff c) = none then
      { s.port c with
        rdPar := if b.bad.isEmpty then (s.port c).rdPar else satAdd 16 (s.port c).rdPar 1
        rdPois := if b.stat = 3 then satAdd 16 (s.port c).rdPois 1 else (s.port c).rdPois }
      else s.port k := by
  have hw (g : PortAcc → PortAcc) : (s.updAcc c g).written (cluErrOff c) = s.written (cluErrOff c) := rfl
  simp only [State.beatSeen, hu, if_true, State.beatCounts, State.unlessWritten, hw]
  cases s.written (cluErrOff c) <;> simp

/-- The counts of a beat touch no request of the ports. -/
theorem State.beatSeen_requests {s : State} (hu : s.up = true) (c : Nat) (b : RBeat) (k : Nat) :
    ((s.beatSeen c b).port k).rd = (s.port k).rd ∧ ((s.beatSeen c b).port k).wr = (s.port k).wr ∧
      ((s.beatSeen c b).port k).ctl = (s.port k).ctl ∧ ((s.beatSeen c b).port k).oldRd = (s.port k).oldRd := by
  rw [State.beatSeen_port hu]
  split
  · rename_i h
    rw [h.1]
    exact ⟨rfl, rfl, rfl, rfl⟩
  · exact ⟨rfl, rfl, rfl, rfl⟩

theorem State.beatSeen_allRd {s : State} (hu : s.up = true) (c : Nat) (b : RBeat) :
    (tabGet {} (s.beatSeen c b).gls.acc c).allRd = (tabGet {} s.gls.acc c).allRd + 1 := by
  have hgls : (s.beatSeen c b).gls = (s.updAcc c (fun a => { a with allRd := a.allRd + 1 })).gls := by
    simp only [State.beatSeen, hu, if_true]
    exact (State.beatCounts_frame _ c b).get .gls rfl
  rw [hgls, State.updAcc]
  simp

theorem State.beatSeen_up {s : State} (hu : s.up = true) (c : Nat) (b : RBeat) : (s.beatSeen c b).up = true := by
  have hp : (s.beatSeen c b).pwr = s.pwr := (State.beatSeen_frame s c b).get .pwr rfl
  simpa only [State.up, State.isPresent, State.isolated, hp] using hu

theorem State.beatSeen_eq (s : State) (c : Nat) (b : RBeat) :
    s.beatSeen c b = { s with gls := (s.beatSeen c b).gls, ports := (s.beatSeen c b).ports } := by
  unfold State.beatSeen State.beatCounts State.unlessWritten
  split
  · split <;> rfl
  · rfl

/-- A beat of no outstanding request (R33). -/
theorem State.beat_stray {s : State} {c : Nat} {b : RBeat} (hu : s.up = true) (hold : b.tag.slot.toNat ∉ (s.port c).oldRd)
    (hno : ∀ r ∈ (s.port c).rd, r.slot ≠ b.tag.slot.toNat) :
    s.beat c b = (s.beatSeen c b).raise 16 6 c none (Tag.word b.tag) := by
  obtain ⟨hrd, -, -, holdRd⟩ := State.beatSeen_requests hu c b c
  have hlive : b.tag.slot.toNat ∉ ((s.beatSeen c b).port c).oldRd := holdRd ▸ hold
  have hfind : ((s.beatSeen c b).port c).rd.find? (fun r => r.slot == b.tag.slot.toNat) = none := by simpa [hrd] using hno
  simp [State.beat, hlive, hfind, State.beatSeen_up hu]

/-! ### A beat of an outstanding request -/

/-- The state in which a beat of request r meets its access: counted, taken from what is due, and its faults raised. -/
def State.beatMet (s : State) (c : Nat) (b : RBeat) (r : RdOut) : State :=
  ((s.beatSeen c b).beatTaken c b.data.length r).beatFaults c b r

theorem State.beatMet_frame (s : State) (c : Nat) (b : RBeat) (r : RdOut) : Frame [.gls, .flt, .ports] s (s.beatMet c b r) :=
  (((State.beatSeen_frame s c b).trans (State.beatTaken_frame _ c _ r)).grow (by decide)).trans
    ((State.beatFaults_frame _ c b r).grow (by decide))

/-- The fragment of a beat, and what holds of its owner, are as before the beat. -/
theorem State.beatMet_fragment (s : State) (c : Nat) (b : RBeat) (r : RdOut) (id i : Nat) :
    (s.beatMet c b r).frag? id = s.frag? id ∧ (s.beatMet c b r).inReset i = s.inReset i ∧
      (s.beatMet c b r).isContained i = s.isContained i := by
  have hinsts : (s.beatMet c b r).insts = s.insts := (s.beatMet_frame c b r).get .insts rfl
  refine ⟨State.frag_of_frags ((s.beatMet_frame c b r).get .frags rfl) id, ?_, ?_⟩
  · simp only [State.inReset, State.inst, hinsts]
  · simp only [State.isContained, State.inst, hinsts]

/-- A well-formed beat of a request of a live generation reaches its access (R34, R338). -/
theorem State.beat_live {s : State} {c : Nat} {b : RBeat} {r : RdOut} (hu : s.up = true)
    (hold : b.tag.slot.toNat ∉ (s.port c).oldRd)
    (hfind : (s.port c).rd.find? (fun r => r.slot == b.tag.slot.toNat) = some r) (hlen : b.data.length = 2 ^ r.width)
    (hfirst : r.first = true → ∀ x ∈ (s.port c).rd, x.first = true) (hgen : b.tag.gen.toNat = (s.inst b.tag.inst.toNat).gen) :
    s.beat c b = (s.beatMet c b r).deliver r b (r.due ≤ b.data.length) := by
  obtain ⟨hrd, -, -, holdRd⟩ := State.beatSeen_requests hu c b c
  have hcont : ((s.beatSeen c b).port c).oldRd.contains b.tag.slot.toNat = false := by simpa [holdRd] using hold
  have hgood : ¬(b.data.length ≠ 2 ^ r.width ∨ (r.first && (s.port c).rd.any (fun x => !x.first)) = true) := by
    simpa [hlen] using hfirst
  have hinst : ((s.beatSeen c b).beatTaken c b.data.length r).insts = s.insts :=
    ((State.beatSeen_frame s c b).trans (State.beatTaken_frame _ c _ r)).get .insts rfl
  have hgen' : b.tag.gen.toNat = (((s.beatSeen c b).beatTaken c b.data.length r).inst b.tag.inst.toNat).gen := by
    rw [hgen, State.inst, State.inst, hinst]
  simp only [State.beat, hcont, hrd, hfind, State.beatSeen_up hu, State.beatMet, Bool.false_eq_true, if_false, Bool.not_true]
  rw [if_neg hgood, if_neg fun h => h hgen']

/-- The last beat of a request frees its slot (R35). -/
theorem State.beatMet_frees {s : State} {c : Nat} {b : RBeat} {r : RdOut} (hdue : r.due ≤ b.data.length) :
    ∀ x ∈ ((s.beatMet c b r).port c).rd, x.slot ≠ r.slot := by
  have hport : (s.beatMet c b r).port c = ((s.beatSeen c b).beatTaken c b.data.length r).port c :=
    State.port_of_ports ((State.beatFaults_frame _ c b r).get .ports rfl) c
  intro x hx
  rw [hport, State.beatTaken, State.updAcc_at_port, State.beatSlot, State.port_updPort, if_pos rfl] at hx
  simpa [hdue] using (List.mem_filter.1 hx).2

/-! ### A fragment that reads (R123, R139, R140) -/

/-- What a beat brings to a fragment that is neither halted nor stopped and has no source error. -/
def State.fragBeat (s : State) (f : Frag) (id : Nat) (r : RdOut) (b : RBeat) : State :=
  if b.stat.toNat = 1 ∨ b.stat.toNat = 2 then s.fragSrcFails f 0x10 b.stat.toNat 8
  else
    let s := s.placeBytes f r.off b.data (if b.stat.toNat = 3 then List.range b.data.length else b.bad)
    let s := if b.stat.toNat = 3 then s.updFrag id (fun f => { f with poisStat := true }) else s
    if b.dp && f.dst.isNone then
      (s.updFrag id (fun f => { f with outPoison := true })).raiseAt 13 f.attr (BitVec.ofNat 64 r.addr)
    else s

/-- With its last beat a read request of a fragment ends. -/
def State.readEndsIf (s : State) (last : Bool) (id : Nat) : State := if last then s.fragReadEnds id else s

theorem State.deliver_frag {s : State} {r : RdOut} {b : RBeat} {id : Nat} {f : Frag} (ho : r.owner = .frag id)
    (hf : s.frag? id = some f) (hr : s.inReset f.inst = false) (hc : s.isContained f.inst = false) (he : f.srcErr = none)
    (hd : f.dead = false) (hh : f.halted = false) (last : Bool) :
    s.deliver r b last = (s.fragBeat f id r b).readEndsIf last id := by
  simp only [State.deliver, ho, hf, hr, hc, he, hd, hh]
  rfl

theorem State.fragBeat_frame (s : State) (f : Frag) (id : Nat) (r : RdOut) (b : RBeat) :
    Frame [.flt, .insts, .frags, .hold] s (s.fragBeat f id r b) := by
  have placed (bad : List Nat) : Frame [.flt, .insts, .frags, .hold] s (s.placeBytes f r.off b.data bad) :=
    (State.placeBytes_frame s f r.off b.data bad).grow (by decide)
  have marked (u : State) (g : Frag → Frag) : Frame [.flt, .insts, .frags, .hold] u (u.updFrag id g) :=
    (State.updFrag_frame u id g).grow (by decide)
  have raised (u : State) (d : Word) : Frame [.flt, .insts, .frags, .hold] u (u.raiseAt 13 f.attr d) :=
    (State.raiseAt_frame u 13 f.attr d none).grow (by decide)
  have poisoned (u : State) (p : Prop) [Decidable p] (g : Frag → Frag) :
      Frame [.flt, .insts, .frags, .hold] u (if p then u.updFrag id g else u) := by
    split
    · exact marked u g
    · exact Frame.refl
  unfold State.fragBeat
  split
  · exact (State.fragSrcFails_frame s f _ _ _).grow (by decide)
  · dsimp only
    split
    · exact ((placed _).trans (poisoned _ _ _)).trans ((marked _ _).trans (raised _ _))
    · exact (placed _).trans (poisoned _ _ _)

/-- A good beat puts byte k where the swap places it (R112, R133). -/
theorem State.fragBeat_hold {s : State} {f : Frag} {id : Nat} {r : RdOut} {b : RBeat} (hs : b.stat = 0) :
    (s.fragBeat f id r b).hold = (List.range b.data.length).foldl
      (fun m k => Memory.write m (f.at_ + swapOff f.swap (f.pos - f.base) (r.off + k)) (byteAt b.data k)) s.hold := by
  simp only [State.fragBeat, hs]
  cases b.dp && f.dst.isNone <;> rfl

theorem State.fragBeat_error {s : State} {f : Frag} {id : Nat} {r : RdOut} {b : RBeat} (hs : b.stat = 1 ∨ b.stat = 2) :
    s.fragBeat f id r b = s.fragSrcFails f 0x10 b.stat.toNat 8 := by
  unfold State.fragBeat
  rw [if_pos]
  rcases hs with hs | hs <;> simp [hs]

theorem State.fragSrcFails_raises (s : State) (f : Frag) (code stat source : Nat) :
    ∃ d ∈ (s.fragSrcFails f code stat source).flt.waiting, d.source = source ∧ d.attr = f.attr :=
  State.mem_raiseAt _ _ _ _ _

/-! ### The end of the request -/

theorem State.readsOver_finds (s : State) (id : Nat) : Finds s (s.readsOver id) := by
  unfold State.readsOver
  split
  · exact Finds.rfl_
  · exact ite_finds (ite_finds (State.endFrag_finds s id)
      (ite_finds (State.endFrag_finds (s.updFrag id _) id) Finds.rfl_)) Finds.rfl_

theorem State.readsOver_dataPath (s : State) (id : Nat) : DataPath s (s.readsOver id) := by
  unfold State.readsOver
  split
  · exact DataPath.rfl_
  · exact ite_dataPath (ite_dataPath (State.endFrag_dataPath s id)
      (ite_dataPath (State.endFrag_dataPath (s.updFrag id _) id) DataPath.rfl_)) DataPath.rfl_

theorem State.readEndsIf_finds (s : State) (last : Bool) (id : Nat) : Finds s (s.readEndsIf last id) :=
  ite_finds (State.readsOver_finds (s.updFrag id _) id) Finds.rfl_

theorem State.readEndsIf_dataPath (s : State) (last : Bool) (id : Nat) : DataPath s (s.readEndsIf last id) :=
  ite_dataPath (State.readsOver_dataPath (s.updFrag id _) id) DataPath.rfl_

theorem State.readEndsIf_hold (s : State) (last : Bool) (id : Nat) : (s.readEndsIf last id).hold = s.hold := by
  unfold State.readEndsIf
  split
  · exact (State.fragReadEnds_frame s id).get .hold rfl
  · rfl

theorem DataPath.rd {s t : State} (h : DataPath s t) (c : Nat) : (t.port c).rd = (s.port c).rd := by
  have hp := h c
  simp only [MPort.mk.injEq] at hp
  exact hp.1

/-- Settles O29: a beat of no request is `State.beat_stray`; one of a fragment reaches it (`State.beat_live`, `State.deliver_frag`),
and its bytes stand in the hold as `Memory.read_scatter_inside` and `Memory.read_scatter_outside` say. -/
theorem beatsReachTheHold : Obligations.BeatsReachTheHold := by
  unfold Obligations.BeatsReachTheHold
  intro s p b hu hold
  refine ⟨fun hno => ?_, fun r id f hfind hlen hfirst hgen ho hf hd hh he hr hc => ?_⟩
  · obtain ⟨hrd, hwr, hctl, -⟩ := State.beatSeen_requests hu p.val b p.val
    have hseen := s.beatSeen_eq p.val b
    refine ⟨_, congrArg Host.Outcome.next (State.beat_stray hu hold hno), ?_, ?_, State.beatSeen_allRd hu p.val b, hrd, hwr, hctl,
      fun hw => ?_, fun k hk => ?_⟩
    · rw [hseen]
      rfl
    · rw [hseen]
      rfl
    · rw [State.raise_at_port, State.beatSeen_port hu, if_pos ⟨rfl, hw⟩]
      simp only [List.isEmpty_iff]
    · rw [State.raise_at_port, State.beatSeen_port hu, if_neg fun h => hk h.1]
  · obtain ⟨hf', hr', hc'⟩ := s.beatMet_fragment p.val b r id f.inst
    have hbeat : s.beat p.val b = ((s.beatMet p.val b r).fragBeat f id r b).readEndsIf (r.due ≤ b.data.length) id := by
      rw [State.beat_live hu hold hfind hlen hfirst hgen,
        State.deliver_frag ho (hf'.trans hf) (hr'.trans hr) (hc'.trans hc) he hd hh]
    have hmet : (s.beatMet p.val b r).hold = s.hold := (s.beatMet_frame p.val b r).get .hold rfl
    have hslot : r.slot = b.tag.slot.toNat := by simpa using List.find?_some hfind
    refine ⟨_, congrArg Host.Outcome.next hbeat, fun hdue x hx => ?_, fun hs => ⟨fun a ha => ?_, fun k hk hinj => ?_⟩,
      fun hs => ⟨?_, ?_⟩⟩
    · have hdata := ((State.fragBeat_frame (s.beatMet p.val b r) f id r b).dataPath rfl).trans
        (State.readEndsIf_dataPath _ (r.due ≤ b.data.length) id)
      rw [hdata.rd] at hx
      exact hslot ▸ State.beatMet_frees hdue x hx
    · rw [State.readEndsIf_hold, State.fragBeat_hold hs, hmet]
      exact Memory.read_scatter_outside _ _ _ _ fun k hk => ha k (List.mem_range.1 hk)
    · rw [State.readEndsIf_hold, State.fragBeat_hold hs]
      exact Memory.read_scatter_inside _ _ (fun k => f.at_ + swapOff f.swap (f.pos - f.base) (r.off + k)) _ (List.mem_range.2 hk)
        fun j hj h => hinj j (List.mem_range.1 hj) (Nat.add_left_cancel h)
    · rw [State.readEndsIf_hold, State.fragBeat_error hs, ← hmet]
      exact (State.fragSrcFails_frame _ f _ _ _).get .hold rfl
    · obtain ⟨d, hmem, hd⟩ := State.fragSrcFails_raises (s.beatMet p.val b r) f 0x10 b.stat.toNat 8
      exact ⟨d, State.readEndsIf_finds _ _ _ (State.fragBeat_error hs ▸ hmem), hd⟩

end Sys2Proof.Machine
end

section
/-! PROOFS. The canonical form of the stores is an invariant of the block (R112, R414, R489). -/

namespace Sys2Proof.Machine

open Sys2Proof

/-- The canonical form speaks of no power register and of no factory value. -/
theorem State.Canon.withPwr {s : State} (h : s.Canon) (p : Power) : ({ s with pwr := p } : State).Canon :=
  ⟨h.hold, h.insts, h.queues, h.chans, h.engs, h.ports, h.fabs, h.mbs, h.cnt, h.cap, h.sev⟩

theorem State.Canon.withDroop {s : State} (h : s.Canon) (d : Droop) : ({ s with droop := d } : State).Canon :=
  ⟨h.hold, h.insts, h.queues, h.chans, h.engs, h.ports, h.fabs, h.mbs, h.cnt, h.cap, h.sev⟩

theorem State.Canon.withPending {s : State} (h : s.Canon) (l : List Instr) : ({ s with pending := l } : State).Canon :=
  ⟨h.hold, h.insts, h.queues, h.chans, h.engs, h.ports, h.fabs, h.mbs, h.cnt, h.cap, h.sev⟩

/-- A reset of the block blanks its stores, or only a pin falls (R54, R59). -/
theorem doPorst_canon {s : State} (h : s.Canon) : (doPorst s).Canon := by
  unfold doPorst
  split
  · exact h.withPwr _
  · exact State.blank_canon h _

theorem doRst_canon {s : State} (h : s.Canon) : (doRst s).Canon := by
  unfold doRst
  split
  · exact h.withPwr _
  · exact State.blank_canon h _

/-- Step FUSE loads the factory values, and what follows keeps the stores (R488). -/
theorem doFuse_canon {s : State} (h : s.Canon) (f g : Fuses) (ok : Bool) : (doFuse f g ok s).Canon := by
  by_cases hs : s.atStep 1 = true
  · exact (doFuse_keeps s f g ok hs).canon (h.withDroop _)
  · simpa [doFuse, hs] using h

theorem exec_canon {c : Instr} {s t : State} (hs : s.Canon) (h : exec c s = .next t) : t.Canon := by
  by_cases hk : takesBack c = true
  · cases c with
    | pgoodFall =>
      cases h
      exact State.blank_canon hs _
    | powerOnReset =>
      cases h
      exact doPorst_canon hs
    | blockReset =>
      cases h
      exact doRst_canon hs
    | fuse f g ok =>
      cases h
      exact doFuse_canon hs f g ok
    | _ => cases hk
  · exact (exec_keeps (by simpa using hk) h).canon hs

/-- Settles O4: every command but the power, the resets and step FUSE keeps the form with all else that `Keeps` says, as a bus
clock does (`exec_keeps`, `tick_keeps`); those four are `State.blank_canon` and `doFuse_canon`. -/
theorem stepKeepsCanonicalForm : Obligations.StepKeepsCanonicalForm := by
  unfold Obligations.StepKeepsCanonicalForm
  intro s t hs h
  rcases step_cases h with ⟨-, rfl⟩ | ⟨c, rest, -, h⟩
  · exact (tick_keeps Keeps.rfl_).canon hs
  · exact exec_canon (hs.withPending rest) h

end Sys2Proof.Machine
end

section
/-! PROOFS. The arbiters of the memory and fabric ports (R142, R143, R145, R146). -/

namespace Sys2Proof.Machine

open Sys2Proof

/-! ### The choice -/

theorem minBy_eq_none {α : Type} {key : α → Nat} {l : List α} (h : minBy key l = none) : l = [] := by
  cases l with
  | nil => rfl
  | cons x xs =>
    simp only [minBy] at h
    split at h
    · cases h
    · split at h <;> cases h

/-- Nothing in the list comes before the element chosen. -/
theorem minBy_le {α : Type} {key : α → Nat} {l : List α} {x : α} (h : minBy key l = some x) :
    ∀ y ∈ l, key x ≤ key y := by
  induction l generalizing x with
  | nil => cases h
  | cons z zs ih =>
    simp only [minBy] at h
    split at h
    · rename_i hnone
      cases h
      simp [minBy_eq_none hnone]
    · rename_i w hw
      have hle := ih hw
      split at h <;> cases h
      · rename_i hlt
        exact List.forall_mem_cons.2 ⟨Nat.le_of_lt hlt, hle⟩
      · rename_i hnlt
        exact List.forall_mem_cons.2 ⟨Nat.le_refl _, fun y hy => Nat.le_trans (Nat.le_of_not_lt hnlt) (hle y hy)⟩

theorem cycDist_lt {n : Nat} (hn : 0 < n) (start k : Nat) : cycDist n start k < n := Nat.mod_lt _ hn

/-- An offer that stands no later in the order of a memory port is of no worse class, and of its class the first in turn (R143). -/
theorem arbOrder_le {rr : List (Nat × Nat)} {o x : Offer}
    (h : o.rank * 18 + cycDist 18 (tabGet 0 rr o.rank) o.who ≤ x.rank * 18 + cycDist 18 (tabGet 0 rr x.rank) x.who) :
    o.rank ≤ x.rank ∧ (x.rank = o.rank →
      cycDist 18 (tabGet 0 rr o.rank) o.who ≤ cycDist 18 (tabGet 0 rr o.rank) x.who) := by
  have hx := cycDist_lt (n := 18) (by decide) (tabGet 0 rr x.rank) x.who
  refine ⟨by omega, fun hr => ?_⟩
  rw [hr] at h
  omega

/-- The offer that a memory port grants goes before every other (R142, R143). -/
theorem State.arbChoice_mem_first {s : State} {c : Fin 8} {o : Offer} (h : s.arbChoice (.mem c) = some o) :
    ∀ x ∈ s.memOffers c.val, o.rank ≤ x.rank ∧ (x.rank = o.rank →
      cycDist 18 (tabGet 0 (s.port c.val).rr o.rank) o.who ≤ cycDist 18 (tabGet 0 (s.port c.val).rr o.rank) x.who) :=
  fun x hx => arbOrder_le (minBy_le h x hx)

/-- No message is granted while LINKUP is low (R145). -/
theorem State.arbChoice_fab_down {s : State} {f : Fin 4} (h : (s.fab f.val).linkup = false) :
    s.arbChoice (.fab f) = none := by
  simp [State.arbChoice, State.offers, State.fabOffers, h, minBy]

theorem doGrant_none {s : State} {p : ArbPort} (hi : s.issues = true) (h : s.countAllWaits.arbChoice p = none)
    (par : List (Nat × OutPar)) : doGrant p par s = s.countAllWaits := by
  simp [doGrant, hi, h]

theorem doGrant_some {s : State} {p : ArbPort} {o : Offer} (hi : s.issues = true)
    (h : s.countAllWaits.arbChoice p = some o) (par : List (Nat × OutPar)) :
    doGrant p par s = s.countAllWaits.grant p par o := by
  simp [doGrant, hi, h]

/-! ### A control read (R143) -/

/-- The budget pays for a control-path request that costs one (R550). -/
def State.ctlCharged (s : State) (c : Nat) (r : CtlReq) : State :=
  match s.ctlCost r with
  | .costs k => s.charge r.inst c k r.bytes (s.ctlSpan r)
  | _ => s

/-- A charged request has left the control path, and takes from the reserve what background work takes of it (R93). -/
def State.ctlTaken (s : State) (c : Nat) (r : CtlReq) : State :=
  let s := (s.ctlCharged c r).updPort c (fun p => { p with ctl := dropFirst (fun x => x == r) p.ctl })
  if r.cls == .background then s.updAcc c (fun a => { a with res := a.res + r.bytes }) else s

/-- The one memory request of a control-path request. -/
def CtlReq.toReq (r : CtlReq) : Req :=
  { va := r.va, pa := r.addr, width := r.width, bytes := r.bytes, fixed := false, off := r.off }

theorem State.ctlCharged_frame (s : State) (c : Nat) (r : CtlReq) : Frame [.insts] s (s.ctlCharged c r) := by
  unfold State.ctlCharged
  split
  · exact State.charge_frame _ _ _ _ _ _
  · exact Frame.refl

theorem State.ctlTaken_port (s : State) (c : Nat) (r : CtlReq) (k : Nat) : (s.ctlTaken c r).port k =
    if k = c then { s.port c with ctl := dropFirst (fun x => x == r) (s.port c).ctl } else s.port k := by
  have hport := State.port_of_ports ((s.ctlCharged_frame c r).get .ports rfl)
  have hleft : ((s.ctlCharged c r).updPort c (fun p => { p with ctl := dropFirst (fun x => x == r) p.ctl })).port k =
      if k = c then { s.port c with ctl := dropFirst (fun x => x == r) (s.port c).ctl } else s.port k := by
    rw [State.port_updPort, hport, hport]
  unfold State.ctlTaken
  split
  · exact hleft
  · exact hleft

theorem State.ctlTaken_frame (s : State) (c : Nat) (r : CtlReq) : Frame [.insts, .ports, .gls] s (s.ctlTaken c r) := by
  have hleft : Frame [.insts, .ports, .gls] s
      ((s.ctlCharged c r).updPort c (fun p => { p with ctl := dropFirst (fun x => x == r) p.ctl })) :=
    ((s.ctlCharged_frame c r).grow (by decide)).trans ((State.updPort_frame _ c _).grow (by decide))
  unfold State.ctlTaken
  split
  · exact hleft.trans ((State.updAcc_frame _ c _).grow (by decide))
  · exact hleft

/-- A read that belongs neither to the Purser nor to a logged access is issued as it is (R143). -/
theorem State.grantCtl_read {s : State} {r : CtlReq} (hw : r.write = false) (hd : s.ctlDest r = .mem)
    (hl : loggedOwner r.owner = false) (hp : r.owner ≠ .pur) (c : Nat) :
    s.grantCtl c r = (s.ctlTaken c r).issueRead c r.owner r.inst r.gen r.toReq (s.ctlCls r == .top) (r.acct (s.ctlCost r)) := by
  simp only [State.grantCtl, hd, hl, hw, Bool.false_eq_true, if_false]
  rfl

/-- The outstanding read that an issued request becomes, under the least free slot (R32, R35). -/
def State.readOut (s : State) (c : Nat) (owner : Owner) (inst gen : Nat) (q : Req) (top : Bool) : RdOut :=
  { slot := s.freeSlot c false, inst, gen, owner, off := q.off, due := q.bytes, addr := q.va, width := q.width
    fixed := q.fixed, top, at_ := s.age }

theorem State.issueRead_port (s : State) (c : Nat) (o : Owner) (i g : Nat) (q : Req) (top : Bool) (a : Acct) (k : Nat) :
    (s.issueRead c o i g q top a).port k = if k = c then
      { s.port c with
        rd := (s.port c).rd ++ [s.readOut c o i g q top]
        lastReq := some (portReq false q.fixed q.pa q.width q.bytes i g (s.freeSlot c false)) } else s.port k := by
  simp [State.issueRead, State.readOut]

/-- A free slot is found by the requests outstanding alone (R32). -/
theorem State.freeSlot_congr {s t : State} {c : Nat} (hr : (t.port c).rd = (s.port c).rd)
    (ho : (t.port c).oldRd = (s.port c).oldRd) : t.freeSlot c false = s.freeSlot c false := by
  simp [State.freeSlot, hr, ho]

/-- A granted read of the control path of port c is issued once it has left the control path and the round robin goes on behind
it (R143); nothing else of the ports changes before. -/
theorem State.grant_ctl_read {s : State} {c : Fin 8} {o : Offer} {r : CtlReq} (ho : o.what = .ctl c.val r)
    (hw : r.write = false) (hd : s.ctlDest r = .mem) (hl : loggedOwner r.owner = false) (hp : r.owner ≠ .pur)
    (par : List (Nat × OutPar)) : ∃ (v : State) (top : Bool) (a : Acct),
      s.grant (.mem c) par o = v.issueRead c r.owner r.inst r.gen r.toReq top a ∧
        v.port c = { s.port c with
          rr := tabSet (s.port c).rr o.rank (o.who + 1), ctl := dropFirst (fun x => x == r) (s.port c).ctl } ∧
        (∀ k, k ≠ c.val → v.port k = s.port k) ∧ v.fabs = s.fabs ∧ v.hold = s.hold := by
  have htaken := (s.setRr (.mem c) o).ctlTaken_frame c.val r
  have hport := (s.setRr (.mem c) o).ctlTaken_port c.val r
  have hgrant : s.grant (.mem c) par o = (s.setRr (.mem c) o).grantCtl c.val r := by simp only [State.grant, ho]
  refine ⟨_, _, _, hgrant.trans (State.grantCtl_read (s := s.setRr (.mem c) o) hw hd hl hp c.val), ?_, fun k hk => ?_,
    htaken.get .fabs rfl, htaken.get .hold rfl⟩
  · rw [hport, if_pos rfl]
    simp [State.setRr]
  · rw [hport, if_neg hk]
    simp [State.setRr, hk]

/-! ### A message (R146) -/

theorem State.grant_tx {s : State} {f : Fin 4} {o : Offer} {m : TxMsg} (ho : o.what = .tx m) (par : List (Nat × OutPar)) :
    s.grant (.fab f) par o = (s.setRr (.fab f) o).grantTx f.val m := by
  simp [State.grant, ho]

theorem State.grantTx_fab (s : State) (f : Nat) (m : TxMsg) (k : Nat) : (s.grantTx f m).fab k =
    if k = f then { s.fab f with tx := dropFirst (fun x => x == m) (s.fab f).tx, lastMsg := some m.msg } else s.fab k := by
  simp [State.grantTx, State.countFab]

/-- The bytes of its flits are counted (R104). -/
theorem State.grantTx_outAll (s : State) (f : Nat) (m : TxMsg) : (tabGet {} (s.grantTx f m).gls.fab f).outAll =
    (tabGet {} s.gls.fab f).outAll + m.msg.bytes := by
  simp [State.grantTx, State.countFab, State.updFabAcc]

/-- Settles O28: a grant takes the choice (`doGrant_some`), which is the first in the order (`State.arbChoice_mem_first`); a control
read is issued as `State.grant_ctl_read` says, a message is sent as `State.grantTx_fab` says. -/
theorem arbitersGrantInOrder : Obligations.ArbitersGrantInOrder := by
  unfold Obligations.ArbitersGrantInOrder
  refine ⟨fun s c par hi => ⟨fun hn => congrArg Host.Outcome.next (doGrant_none hi hn par), fun o ho =>
    ⟨State.arbChoice_mem_first ho, fun r hr hw hd hl hp => ?_⟩⟩, fun s f par hi => ⟨fun o m ho hm => ?_, fun hdown => ?_⟩⟩
  · have hcount := s.countAllWaits_frame
    obtain ⟨v, top, a, hgrant, hc, hother, hfabs, hhold⟩ := State.grant_ctl_read hr hw hd hl hp par
    replace hgrant := (doGrant_some hi ho par).trans hgrant
    generalize s.countAllWaits = u at hcount hc hother hfabs hhold ⊢
    have hslot : v.freeSlot c.val false = u.freeSlot c.val false := State.freeSlot_congr (by rw [hc]) (by rw [hc])
    have hissue := v.issueRead_port c.val r.owner r.inst r.gen r.toReq top a
    refine ⟨_, v.readOut c.val r.owner r.inst r.gen r.toReq top, congrArg Host.Outcome.next hgrant, ?_, rfl, rfl, hslot, ?_, ?_, ?_,
      fun k hk => ?_, hfabs.trans (hcount.get .fabs rfl), hhold.trans (hcount.get .hold rfl)⟩
    · rw [hissue, if_pos rfl, hc]
    · rw [hissue, if_pos rfl]
      rfl
    · rw [hissue, if_pos rfl, hc]
    · rw [hissue, if_pos rfl, hc]
      exact tabGet_tabSet_same _ _ _ _
    · rw [hissue, if_neg hk, hother k hk]
  · have hcount := s.countAllWaits_frame
    have hgrant := (doGrant_some hi ho par).trans (State.grant_tx hm par)
    generalize s.countAllWaits = u at hcount hgrant ⊢
    have hfab : ∀ k, u.fab k = s.fab k := fun k => by rw [State.fab, State.fab, show u.fabs = s.fabs from hcount.get .fabs rfl]
    have hturn : ∀ k, (u.setRr (.fab f) o).fab k = if k = f.val then
        { s.fab f.val with rr := tabSet (s.fab f.val).rr o.rank (o.who + 1) } else s.fab k := by simp [State.setRr, hfab]
    refine ⟨_, congrArg Host.Outcome.next hgrant, ?_, ?_, ?_, ?_, fun k hk => ?_, ?_, ?_⟩
    · rw [State.grantTx_fab, if_pos rfl]
    · rw [State.grantTx_fab, if_pos rfl, hturn, if_pos rfl]
    · rw [State.grantTx_fab, if_pos rfl, hturn, if_pos rfl]
    · rw [State.grantTx_outAll]
      exact congrArg (fun g : Glass => (tabGet {} g.fab f.val).outAll + m.msg.bytes) (hcount.get .gls rfl)
    · rw [State.grantTx_fab, if_neg hk, hturn, if_neg hk]
    · rfl
    · exact hcount.get .hold rfl
  · refine congrArg Host.Outcome.next (doGrant_none hi (State.arbChoice_fab_down ?_) par)
    rw [State.fab, show s.countAllWaits.fabs = s.fabs from s.countAllWaits_frame.get .fabs rfl]
    exact hdown

end Sys2Proof.Machine
end

section
/-! PROOFS. The dispatcher assigns hold space (R113, R114, R118, R120, R122). -/

namespace Sys2Proof.Machine

open Sys2Proof

/-! ### What a stop for the manifests leaves of the memory ports (R269) -/

/-- On the memory ports only the control path changes, and it loses requests alone. -/
def Sheds (s t : State) : Prop := DataPath s t ∧ ∀ k, ∀ r ∈ (t.port k).ctl, r ∈ (s.port k).ctl

theorem Sheds.rfl_ {s : State} : Sheds s s := ⟨DataPath.rfl_, fun _ _ h => h⟩

theorem Sheds.trans {s t u : State} (h : Sheds s t) (g : Sheds t u) : Sheds s u :=
  ⟨h.1.trans g.1, fun k r hr => h.2 k r (g.2 k r hr)⟩

theorem Frame.sheds {ps : List Part} {s t : State} (h : Frame ps s t) (hp : ps.contains .ports = false) : Sheds s t :=
  ⟨h.dataPath hp, fun k _ hr => State.port_of_ports (h.get .ports hp) k ▸ hr⟩

theorem ite_sheds {s t u : State} {p : Prop} [Decidable p] (ht : Sheds s t) (hu : Sheds s u) : Sheds s (if p then t else u) := by
  split
  · exact ht
  · exact hu

theorem State.filterCtl_sheds (s : State) (c : Nat) (f : CtlReq → Bool) :
    Sheds s (s.updPort c (fun p => { p with ctl := p.ctl.filter f })) := by
  refine ⟨State.updCtl_dataPath s c (fun p => p.ctl.filter f), fun k r hr => ?_⟩
  rw [State.port_updPort] at hr
  split at hr
  · rename_i hk
    rw [hk]
    exact (List.mem_filter.1 hr).1
  · exact hr

theorem State.cancelRecs_sheds (s : State) (g seq : Nat) : Sheds s (s.cancelRecs g seq) := by
  unfold State.cancelRecs
  split
  · exact Sheds.rfl_
  · have dropped (u : State) (p : Prop) [Decidable p] (x : XCtx) : Sheds u (if p then u.dropWalks x else u) :=
      ite_sheds ((State.dropWalks_frame _ _).sheds rfl) Sheds.rfl_
    dsimp only
    exact ite_sheds Sheds.rfl_ ((((State.filterCtl_sheds _ _ _).trans (dropped _ _ _)).trans (dropped _ _ _)).trans
      ((State.updEntry_frame _ _ _ _).sheds rfl))

theorem State.manStops_sheds (s : State) (g seq : Nat) (x : Stop) : Sheds s (s.manStops g seq x) := by
  unfold State.manStops
  split
  · exact Sheds.rfl_
  · split
    · exact Sheds.rfl_
    · exact (((State.updEntry_frame s g seq _).sheds rfl).trans (State.cancelRecs_sheds _ g seq)).trans
        ((State.raise_frame _ _ _ _ _ _ _).sheds rfl)

theorem State.settleMan_sheds (s : State) (g : Nat) : Sheds s (s.settleMan g) := by
  unfold State.settleMan
  split
  · exact Sheds.rfl_
  · split
    · exact Sheds.rfl_
    · split
      · exact State.manStops_sheds s g _ _
      · exact Sheds.rfl_

/-! ### The fragment chosen -/

theorem fillBytes_length_le (raw : List Byte) (f : Frag) : (fillBytes raw f).length ≤ f.len := by
  unfold fillBytes
  split
  · rw [swapBytes, List.length_map, List.length_range]
    exact List.length_take_le _ _
  · exact Nat.le_of_eq (by rw [patternBytes, List.length_map, List.length_range])

/-- The next fragment of a channel is its next burst (R173). -/
theorem State.readyFrag_chan {s : State} {n : Nat} {f : Frag} (h : s.readyFrag (.chan n) = some f) :
    f.ctx = .chan n ∧ f.phase = .assigned := by
  simp only [State.readyFrag] at h
  split at h <;> cases h
  exact ⟨rfl, rfl⟩

theorem nextFrag_fresh {q : Queue} {g : Nat} {e e' : Entry} {f : Frag} (h : nextFrag q g e = some (f, e')) :
    f.ctx = .queue g ∧ f.phase = .assigned := by
  simp only [nextFrag] at h
  split at h
  · split at h <;> cases h
    exact ⟨rfl, rfl⟩
  · cases h
    exact ⟨rfl, rfl⟩

/-- The next fragment of a queue is one of the entry that is its next (R392). -/
theorem State.readyFrag_queue {s : State} {g : Nat} {f : Frag} (h : s.readyFrag (.queue g) = some f) :
    ∃ q e e', s.queue? g = some q ∧ q.next = some e ∧ nextFrag q g e = some (f, e') := by
  simp only [State.readyFrag] at h
  split at h
  · cases h
  · rename_i q hq
    split at h
    · obtain ⟨e, he, hf⟩ := Option.bind_eq_some_iff.1 h
      obtain ⟨⟨f', e'⟩, hn, rfl⟩ := Option.map_eq_some_iff.1 hf
      exact ⟨q, e, e', hq, he, hn⟩
    · cases h

/-- A candidate is the next fragment of its context, charged, and has a place in the hold (R111, R113, R120). -/
theorem State.candidate_ready {s : State} {x : Context} {f : Frag} (h : s.candidate x = some f) :
    ∃ f₀ k, s.readyFrag x = some f₀ ∧ f = { f₀ with charge := k } ∧ (s.place f.cluster f.len).isSome = true := by
  unfold State.candidate at h
  split at h
  · cases h
  · rename_i f₀ hf₀
    split at h
    · cases h
    · rename_i k hk
      split at h
      · rename_i hall
        cases h
        simp only [Bool.and_eq_true] at hall
        exact ⟨f₀, k, hf₀, rfl, hall.2⟩
      · cases h

/-- Queue g has a next entry, and the entry a next fragment (R89, R392). -/
def State.queueGives (s : State) (g : Nat) (q : Queue) (e : Entry) (p : Frag × Entry) : Prop :=
  s.queue? g = some q ∧ q.next = some e ∧ nextFrag q g e = some p

/-- What the dispatcher chooses is not assigned yet, has a place in the hold, and comes from a channel or from the next entry of
a queue. -/
theorem State.dispatchChoice_fresh {s : State} {c : Nat} {f : Frag} (h : s.dispatchChoice c = some f) :
    f.phase = .assigned ∧ (∃ p, s.place f.cluster f.len = some p) ∧
      ((∃ n, f.ctx = .chan n) ∨ ∃ g q e p, f.ctx = .queue g ∧ s.queueGives g q e p) := by
  obtain ⟨x, -, hx⟩ := List.mem_filterMap.1 (minBy_mem h)
  obtain ⟨f₀, k, hready, rfl, hp⟩ := State.candidate_ready hx
  have hp := Option.isSome_iff_exists.1 hp
  cases x with
  | chan n =>
    obtain ⟨hctx, hphase⟩ := State.readyFrag_chan hready
    exact ⟨hphase, hp, .inl ⟨n, hctx⟩⟩
  | queue g =>
    obtain ⟨q, e, e', hq, hn, hf⟩ := State.readyFrag_queue hready
    obtain ⟨hctx, hphase⟩ := nextFrag_fresh hf
    exact ⟨hphase, hp, .inr ⟨g, q, e, _, hctx, hq, hn, hf⟩⟩

/-! ### Its assignment -/

/-- The fragment in its place in the hold, with its reservation in this glass (R118, R121). -/
def Frag.seat (f : Frag) (s : State) (p : Nat × Nat × Option Nat) (crc : Nat) : Frag :=
  { f with id := s.nextId, eng := p.1, bank := p.2.1, slot := p.2.2, asgAt := s.now, resv := s.bell.glass, crc }

/-- A fragment that reads nothing has its CRC once it is filled (R135, R137). -/
def Frag.fillCrc (f : Frag) (fill : List Byte) : Nat := if f.src.isNone && f.crcOn then crc32c 0 fill else f.crc

/-- The bytes a fragment of an entry is filled with: none, if it reads (R122). -/
def Frag.fill (f : Frag) (raw : List Byte) : List Byte := if f.src.isNone then fillBytes raw f else []

theorem Frag.fill_length_le (f : Frag) (raw : List Byte) : (f.fill raw).length ≤ f.len := by
  unfold Frag.fill
  split
  · exact fillBytes_length_le raw f
  · exact Nat.zero_le _

theorem Frag.fill_of_reads {f : Frag} (h : f.src ≠ none) (raw : List Byte) : f.fill raw = [] :=
  if_neg (by simpa using h)

/-- A fragment has taken its place, with the bytes it is filled with; the dispatcher goes on behind its context (R118, R120). -/
def State.seated (s : State) (g : Frag) (fill : List Byte) : State :=
  let u := ({ s with nextId := s.nextId + 1 }.updEng g.eng (fun x => { x with lastInst := g.inst })).updPort g.cluster
    (fun p => { p with drr := tabSet p.drr g.charge.cls.rank (g.ctx.order + 1) })
  { u with frags := s.frags ++ [g], hold := Memory.writes s.hold g.at_ fill }

theorem State.seated_port (s : State) (g : Frag) (fill : List Byte) (k : Nat) : ((s.seated g fill).port k).rd = (s.port k).rd ∧
    ((s.seated g fill).port k).wr = (s.port k).wr ∧ ((s.seated g fill).port k).ctl = (s.port k).ctl := by
  have h : (s.seated g fill).port k = (s.updPort g.cluster
    (fun p => { p with drr := tabSet p.drr g.charge.cls.rank (g.ctx.order + 1) })).port k := rfl
  rw [h, State.port_updPort]
  split
  · rename_i hk
    rw [hk]
    exact ⟨rfl, rfl, rfl⟩
  · exact ⟨rfl, rfl, rfl⟩

theorem State.assign_chan {s : State} {f : Frag} {n : Nat} {p : Nat × Nat × Option Nat}
    (hp : s.place f.cluster f.len = some p) (hx : f.ctx = .chan n) :
    s.assign f = (s.seated (f.seat s p f.crc) []).updChan n (fun x => { x with asgd := x.asgd + f.len }) := by
  simp only [State.assign, State.seated, Frag.seat, hp, hx]
  rfl

theorem State.assign_queue {s : State} {f : Frag} {g : Nat} {p : Nat × Nat × Option Nat} {q : Queue} {e : Entry}
    {x : Frag × Entry} (hp : s.place f.cluster f.len = some p) (hx : f.ctx = .queue g) (hg : s.queueGives g q e x) :
    s.assign f = ((s.seated (f.seat s p (f.fillCrc (f.fill e.raw))) (f.fill e.raw)).updEntry g e.seq
      (fun _ => x.2)).settleMan g := by
  obtain ⟨hq, hn, hf⟩ := hg
  have hq' (i : Nat) : ({ s with nextId := i } : State).queue? g = some q := hq
  simp only [State.assign, State.seated, Frag.seat, Frag.fillCrc, hp, hx, State.updPort_at_queue, State.updEng_at_queue, hq',
    hn, hf]
  split <;> rfl

/-- What follows a fragment's place on its context touches queues and channels alone, and what a stop for its manifests takes
back. -/
def Settles (s t : State) : Prop := Frame [.flt, .queues, .chans, .ports, .walks, .walked] s t ∧ Sheds s t

/-- An assignment seats the fragment chosen (R118, R120, R122). -/
theorem State.assign_seats {s : State} {c : Nat} {f : Frag} (h : s.dispatchChoice c = some f) :
    f.phase = .assigned ∧ ∃ p crc fill, s.place f.cluster f.len = some p ∧ fill.length ≤ f.len ∧ (f.src ≠ none → fill = []) ∧
      Settles (s.seated (f.seat s p crc) fill) (s.assign f) := by
  obtain ⟨hphase, ⟨p, hp⟩, ⟨n, hx⟩ | ⟨g, q, e, x, hx, hg⟩⟩ := State.dispatchChoice_fresh h
  · refine ⟨hphase, p, f.crc, [], hp, Nat.zero_le _, fun _ => rfl, ?_⟩
    rw [State.assign_chan hp hx]
    have ht := State.updChan_frame (s.seated (f.seat s p f.crc) []) n (fun x => { x with asgd := x.asgd + f.len })
    exact ⟨ht.grow (by decide), ht.sheds rfl⟩
  · refine ⟨hphase, p, f.fillCrc (f.fill e.raw), f.fill e.raw, hp, f.fill_length_le _, fun hs => f.fill_of_reads hs _, ?_⟩
    rw [State.assign_queue hp hx hg]
    have ht := State.updEntry_frame (s.seated (f.seat s p (f.fillCrc (f.fill e.raw))) (f.fill e.raw)) g e.seq (fun _ => x.2)
    exact ⟨(ht.grow (by decide)).trans ((State.settleMan_frame _ g).grow (by decide)),
      (ht.sheds rfl).trans (State.settleMan_sheds _ g)⟩

theorem doDispatch_choice {s : State} {c : Nat} {f : Frag} (hw : s.newWork = true) (h : s.dispatchChoice c = some f) :
    doDispatch c s = s.assign f := by simp [doDispatch, hw, h]

theorem doDispatch_none {s : State} {c : Nat} (h : s.newWork = false ∨ s.dispatchChoice c = none) : doDispatch c s = s := by
  rcases h with h | h <;> simp [doDispatch, h]

/-- Settles O25: the fragment chosen is seated (`State.assign_seats`), and what follows keeps all but its queue or channel and
gives up requests of the control path alone. -/
theorem dispatcherAssigns : Obligations.DispatcherAssigns := by
  unfold Obligations.DispatcherAssigns
  intro s c
  refine ⟨fun f hw hf => ?_, fun h => congrArg Host.Outcome.next (doDispatch_none h)⟩
  obtain ⟨hphase, p, crc, fill, hp, hlen, hreads, hframe, hdata, hctl⟩ := State.assign_seats hf
  have hport := s.seated_port (f.seat s p crc) fill
  have hhold : (s.assign f).hold = Memory.writes s.hold (f.seat s p crc).at_ fill := hframe.get .hold rfl
  refine ⟨_, f.seat s p crc, congrArg Host.Outcome.next (doDispatch_choice hw hf), hframe.get .frags rfl, rfl, hphase, rfl, rfl,
    rfl, rfl, rfl, rfl, hp, hframe.get .insts rfl, hframe.get .fabs rfl, hframe.get .gls rfl, hframe.get .cc rfl,
    hframe.get .glb rfl, fun k => ?_, fun a ha => ?_, fun hsrc => ?_⟩
  · obtain ⟨hrd, hwr, hct⟩ := hport k
    obtain ⟨-, -, -, hwr', -⟩ := hdata.fields k
    exact ⟨(hdata.rd k).trans hrd, hwr'.trans hwr, fun r hr => hct ▸ hctl k r hr⟩
  · rw [hhold]
    exact Memory.read_writes_outside _ _ _ _ (by omega)
  · rw [hhold, hreads hsrc]
    rfl

end Sys2Proof.Machine
end

section
/-! PROOFS. The write requests of a fragment (R118, R119, R124, R131, R139). -/

namespace Sys2Proof.Machine

open Sys2Proof

/-! ### A fragment that writes -/

theorem State.frag_id {s : State} {id : Nat} {f : Frag} (h : s.frag? id = some f) : f.id = id := by
  simpa using List.find?_some h

/-- The fragment has begun its writes: these are left, and so many are outstanding. -/
def State.writesLeft (s : State) (id : Nat) (left : List Req) (out : Nat) : Prop :=
  ∃ x, s.frag? id = some x ∧ x.wrReqs = left ∧ x.wrOut = out ∧ x.writes = true

theorem Frame.writesLeft {ps : List Part} {s t : State} {id out : Nat} {left : List Req} (h : Frame ps s t)
    (hp : ps.contains .frags = false) (hs : s.writesLeft id left out) : t.writesLeft id left out := by
  obtain ⟨x, hx, hrest⟩ := hs
  exact ⟨x, (State.frag_of_frags (h.get .frags hp) id).trans hx, hrest⟩

/-- Marking a fragment as sent poisoned takes nothing from its writes. -/
theorem State.writesLeft_outPoison {s : State} {id out : Nat} {left : List Req} (hs : s.writesLeft id left out) (j : Nat) :
    (s.updFrag j (fun f => { f with outPoison := true })).writesLeft id left out := by
  obtain ⟨x, hx, hl, ho, hw⟩ := hs
  have hd := State.frag_updFrag s j (fun f => { f with outPoison := true }) (fun _ => rfl) id
  by_cases hj : id = j
  · subst hj
    rw [if_pos rfl, hx] at hd
    exact ⟨_, hd, hl, ho, hw⟩
  · rw [if_neg hj] at hd
    exact ⟨x, hd.trans hx, hl, ho, hw⟩

theorem State.outParity_writesLeft {s : State} {id out : Nat} {left : List Req} (hs : s.writesLeft id left out) (f : Frag)
    (va : Nat) (par : OutPar) : (s.outParity f va par).writesLeft id left out := by
  unfold State.outParity
  split
  · exact hs
  · have hcounted : Frame [.ports] s (s.unlessWritten (cluErrOff f.cluster)
        (fun s => s.updPort f.cluster (fun p => { p with outPar := satAdd 16 p.outPar 1 }))) :=
      State.unlessWritten_frame Frame.refl (State.updPort_frame _ _ _)
    exact (State.raiseAt_frame _ _ _ _ _).writesLeft rfl (State.writesLeft_outPoison (hcounted.writesLeft rfl hs) f.id)

/-- A fragment with a write outstanding is not over. -/
theorem State.writesOver_writesLeft {s : State} {id out : Nat} {left : List Req} (hs : s.writesLeft id left out)
    (ho : out ≠ 0) : (s.writesOver id).writesLeft id left out := by
  obtain ⟨x, hx, hl, rfl, hw⟩ := hs
  have hd := State.frag_updFrag s id (fun f => { f with phase := .draining, held := false }) (fun _ => rfl) id
  rw [if_pos rfl, hx] at hd
  simp only [State.writesOver, hx, ho, if_false]
  split
  · exact ⟨_, hd, hl, rfl, rfl⟩
  · exact ⟨x, hx, hl, rfl, hw⟩

/-! ### A write request is issued -/

/-- The fragment has given its next write request to the port, and its page is logged (R131, R379). -/
def State.writeTaken (s : State) (id : Nat) (f : Frag) (q : Req) (left : List Req) : State :=
  let beats := if f.wport.isNone then beatsOf q.width q.bytes else 0
  (s.logAccess f.inst q.va).updFrag id (fun f => { f with
    wrReqs := left, wrOut := f.wrOut + 1, wrBeats := f.wrBeats + beats, phase := .writing, waited := false })

/-- The 64 B lines of a remote write that the checks at write-out fail (R139). -/
def Frag.badLines (f : Frag) (q : Req) (par : List (Nat × OutPar)) : List (Nat × OutPar) :=
  if f.wport.isNone then [] else par.filter (fun p => p.2 != .good && p.1 < ceilDiv q.bytes 64)

/-- What the checks at write-out find is counted and raised (R139, R141). -/
def State.linesChecked (s : State) (f : Frag) (q : Req) (par : List (Nat × OutPar)) : State :=
  (f.badLines q par).foldl (fun s p => s.outParity f (q.va + 64 * p.1) p.2) s

/-- The request goes out on the memory port of its cluster, or with its data on a fabric port (R131, R362). -/
def State.writeSent (s : State) (id : Nat) (f : Frag) (q : Req) (par : List (Nat × OutPar)) : State :=
  match f.wport with
  | none => s.issueWrite f.cluster (.frag id) f.inst f.gen q (f.charge == Charge.firm)
      (if f.src.isNone || f.rport.isSome then f.charge.acct else .none) [] f.lines
  | some p => s.issueSpan p (.frag id) true f.inst f.gen q f.charge.cls f.cluster (Memory.reads s.hold (f.at_ + q.off) q.bytes)
      (poisonBits f.lines q.off q.bytes ||| (f.badLines q par).foldl (fun n (p : Nat × OutPar) => n ||| 2 ^ p.1) 0)

/-- Its context notes the write: an entry the fragment it has written, a channel its position and, with the last one, its end
(R175, R192, R397). -/
def State.writeNoted (s : State) (f : Frag) (q : Req) : State :=
  match f.ctx with
  | .queue g => s.updEntry g f.entry (fun e => { e with wrote := max e.wrote (f.idx + 1) })
  | .chan n =>
    let s := s.updChan n (fun x =>
      let p := max x.wrPos (f.pos + q.off + q.bytes)
      { x with wrPos := p, dst := addrAfter x.dst0 (cfgDfix x.cfg) p })
    let x := s.chan n
    if s.allSent n && cfgEvt x.cfg && !cfgBarrier x.cfg && !x.posted then s.chDone n else s

theorem State.fragWrite_eq {s : State} {id : Nat} {f : Frag} {q : Req} {left : List Req} (hf : s.frag? id = some f)
    (hq : f.wrReqs = q :: left) (par : List (Nat × OutPar)) : s.fragWrite id par =
      (((((s.writeTaken id f q left).linesChecked f q par).writeSent id f q par).writeNoted f q).writesOver id) := by
  simp only [State.fragWrite, hf, hq]
  rfl

theorem State.writeTaken_frame (s : State) (id : Nat) (f : Frag) (q : Req) (left : List Req) :
    Frame [.clk, .glb, .flt, .logc, .frags] s (s.writeTaken id f q left) :=
  ((State.logAccess_frame s f.inst q.va).grow (by decide)).trans ((State.updFrag_frame _ id _).grow (by decide))

theorem State.writeTaken_writesLeft {s : State} {id : Nat} {f : Frag} (hf : s.frag? id = some f) (q : Req)
    (left : List Req) : (s.writeTaken id f q left).writesLeft id left (f.wrOut + 1) := by
  have hl := (State.frag_of_frags ((State.logAccess_frame s f.inst q.va).get .frags rfl) id).trans hf
  have hd := State.frag_updFrag (s.logAccess f.inst q.va) id (fun x => { x with
    wrReqs := left, wrOut := x.wrOut + 1, wrBeats := x.wrBeats + if f.wport.isNone then beatsOf q.width q.bytes else 0
    phase := .writing, waited := false }) (fun _ => rfl) id
  rw [if_pos rfl, hl] at hd
  exact ⟨_, hd, rfl, rfl, rfl⟩

theorem State.linesChecked_writesLeft {s : State} {id out : Nat} {left : List Req} (hs : s.writesLeft id left out) (f : Frag)
    (q : Req) (par : List (Nat × OutPar)) : (s.linesChecked f q par).writesLeft id left out := by
  unfold State.linesChecked
  induction f.badLines q par generalizing s with
  | nil => exact hs
  | cons p ps ih => exact ih (State.outParity_writesLeft hs f _ p.2)

/-- The lines of a local write are checked as its beats leave (R131). -/
theorem State.linesChecked_local {f : Frag} (h : f.wport = none) (s : State) (q : Req) (par : List (Nat × OutPar)) :
    s.linesChecked f q par = s := by
  simp [State.linesChecked, Frag.badLines, h]

theorem State.writeSent_frame (s : State) (id : Nat) (f : Frag) (q : Req) (par : List (Nat × OutPar)) :
    Frame [.gls, .ports, .fabs] s (s.writeSent id f q par) := by
  unfold State.writeSent
  split
  · exact (State.issueWrite_frame _ _ _ _ _ _ _ _ _ _).grow (by decide)
  · exact (State.issueSpan_frame _ _ _ _ _ _ _ _ _ _ _).grow (by decide)

/-- A local write is outstanding on the port of its cluster, and touches no fabric port. -/
theorem State.writeSent_local {f : Frag} (h : f.wport = none) (s : State) (id : Nat) (q : Req) (par : List (Nat × OutPar)) :
    ((s.writeSent id f q par).port f.cluster).wr.length = (s.port f.cluster).wr.length + 1 ∧
      (s.writeSent id f q par).fabs = s.fabs := by
  simp only [State.writeSent, h]
  exact ⟨by simp [State.issueWrite], (State.issueWrite_frame _ _ _ _ _ _ _ _ _ _).get .fabs rfl⟩

theorem State.writeNoted_frame (s : State) (f : Frag) (q : Req) :
    Frame [.flt, .insts, .queues, .chans] s (s.writeNoted f q) := by
  unfold State.writeNoted
  split
  · exact (State.updEntry_frame _ _ _ _).grow (by decide)
  · rename_i n _
    have hpos (g : Chan → Chan) : Frame [.flt, .insts, .queues, .chans] s (s.updChan n g) :=
      (State.updChan_frame s n g).grow (by decide)
    dsimp only
    split
    · exact (hpos _).trans ((State.chDone_frame _ n).grow (by decide))
    · exact hpos _

/-- With its next write request issued, a fragment has one write more outstanding and one less to issue. -/
theorem State.fragWrite_writesLeft {s : State} {id : Nat} {f : Frag} {q : Req} {left : List Req} (hf : s.frag? id = some f)
    (hq : f.wrReqs = q :: left) (par : List (Nat × OutPar)) : (s.fragWrite id par).writesLeft id left (f.wrOut + 1) := by
  rw [State.fragWrite_eq hf hq]
  refine State.writesOver_writesLeft ?_ (Nat.succ_ne_zero _)
  refine (State.writeNoted_frame _ f q).writesLeft rfl ((State.writeSent_frame _ id f q par).writesLeft rfl ?_)
  exact State.linesChecked_writesLeft (State.writeTaken_writesLeft hf q left) f q par

theorem State.fragWrite_local {s : State} {id : Nat} {f : Frag} {q : Req} {left : List Req} (hf : s.frag? id = some f)
    (hq : f.wrReqs = q :: left) (h : f.wport = none) (par : List (Nat × OutPar)) :
    ((s.fragWrite id par).port f.cluster).wr.length = (s.port f.cluster).wr.length + 1 ∧ (s.fragWrite id par).fabs = s.fabs := by
  rw [State.fragWrite_eq hf hq, State.linesChecked_local h]
  have htaken := State.writeTaken_frame s id f q left
  obtain ⟨hwr, hfabs⟩ := State.writeSent_local h (s.writeTaken id f q left) id q par
  generalize (s.writeTaken id f q left).writeSent id f q par = t at hwr hfabs
  have hnoted := State.writeNoted_frame t f q
  obtain ⟨-, -, -, hover, -⟩ := (State.writesOver_dataPath (t.writeNoted f q) id).fields f.cluster
  constructor
  · rw [hover, State.port_of_ports (hnoted.get .ports rfl), hwr, State.port_of_ports (htaken.get .ports rfl)]
  · exact ((State.writesOver_frame _ id).get .fabs rfl).trans ((hnoted.get .fabs rfl).trans (hfabs.trans (htaken.get .fabs rfl)))

/-! ### The grant -/

/-- What a staged fragment asks for next is a write (R119). -/
theorem State.nextReq_staged {s : State} {f : Frag} {w : Bool} {r : Nat} (hph : f.phase = .staged)
    (h : s.nextReq f = some (w, r)) : w = true := by
  simp only [State.nextReq, hph] at h
  split at h <;> cases h
  rfl

/-- The turn of a staged fragment is that of its next write request (R119, R122). -/
theorem State.ownTurn_staged {s : State} {f : Frag} {p : ArbPort} {o : Offer} (hph : f.phase = .staged)
    (h : s.ownTurn f = some (p, o)) : o.what = .write f.id ∧ p = s.arbPort f true := by
  unfold State.ownTurn at h
  split at h
  · cases h
  · rename_i w rank hreq
    obtain rfl := State.nextReq_staged hph hreq
    dsimp only at h
    split at h
    · rw [if_pos rfl] at h
      split at h <;> cases h
      rename_i ho
      exact ⟨by simpa using ho, rfl⟩
    · cases h

theorem State.arbPort_local {s : State} {f : Frag} (hph : f.phase = .staged) (h : f.wport = none) :
    s.arbPort f true = .mem (Fin.ofNat 8 f.cluster) := by
  simp [State.arbPort, State.reqPort, hph, h]

/-- What has been admitted is not admitted again (R89). -/
theorem State.admitFirst_staged {s : State} {id : Nat} {f : Frag} (hf : s.frag? id = some f) (hph : f.phase = .staged) :
    s.admitFirst id = s := by
  simp [State.admitFirst, hf, hph]

theorem State.grant_write {s : State} {p : ArbPort} {o : Offer} {id : Nat} {f : Frag} (ho : o.what = .write id)
    (hf : s.frag? id = some f) (hph : f.phase = .staged) (par : List (Nat × OutPar)) :
    s.grant p par o = (s.setRr p o).fragWrite id par := by
  have hf' := (State.frag_of_frags ((s.setRr_frame p o).get .frags rfl) id).trans hf
  simp only [State.grant, ho, State.admitFirst_staged hf' hph]

theorem State.setRr_wr (s : State) (p : ArbPort) (o : Offer) (c : Nat) : ((s.setRr p o).port c).wr = (s.port c).wr := by
  cases p with
  | mem k =>
    simp only [State.setRr, State.port_updPort]
    split
    · rename_i h
      rw [h]
    · rfl
  | fab k => rfl

/-- On its turn the fragment's next write is issued once the round robin of its port goes on behind it, which touches no request
and, for a local write, no fabric port (R142, R143). -/
theorem State.tryGrant_staged {s : State} {f : Frag} {p : ArbPort} {o : Offer} (hf : s.frag? f.id = some f)
    (hph : f.phase = .staged) (ht : s.ownTurn f = some (p, o)) (par : List (Nat × OutPar)) :
    ∃ v : State, s.tryGrant f par = v.fragWrite f.id par ∧ v.frag? f.id = some f ∧ Frame [.ports, .fabs] s v ∧
      (∀ c, (v.port c).wr = (s.port c).wr) ∧ (f.wport = none → v.fabs = s.fabs) := by
  obtain ⟨ho, hport⟩ := State.ownTurn_staged hph ht
  have hrr := s.setRr_frame p o
  refine ⟨s.setRr p o, ?_, (State.frag_of_frags (hrr.get .frags rfl) f.id).trans hf, hrr, s.setRr_wr p o, fun hlocal => ?_⟩
  · rw [State.tryGrant, ht, ← State.grant_write ho hf hph]
  · rw [hport, State.arbPort_local hph hlocal]
    rfl

theorem State.tryGrant_none {s : State} {f : Frag} (h : s.ownTurn f = none) (par : List (Nat × OutPar)) :
    s.tryGrant f par = s := by
  rw [State.tryGrant, h]

theorem doWriteStart_staged {s : State} {id : Nat} {f : Frag} (hi : s.issues = true) (hf : s.countAllWaits.frag? id = some f)
    (hph : f.phase = .staged) (par : List (Nat × OutPar)) : doWriteStart id par s = s.countAllWaits.tryGrant f par := by
  simp [doWriteStart, hi, hf, hph]

/-- A fragment that reads nothing begins with its writes, and so is admitted with them (R119, R122). -/
theorem doWriteStart_assigned {s : State} {id : Nat} {f : Frag} (hi : s.issues = true)
    (hf : s.countAllWaits.frag? id = some f) (hph : f.phase = .assigned) (hs : f.src = none) :
    doWriteStart id [] s = doAdmission id s := by
  simp [doWriteStart, doAdmission, hi, hf, hph, hs]

/-- Settles O27: a grant goes to the fragment's next write (`State.ownTurn_staged`), which `State.fragWrite_eq` issues; a fragment
that reads nothing is `doWriteStart_assigned`. -/
theorem writesBegin : Obligations.WritesBegin := by
  unfold Obligations.WritesBegin
  intro s u id f par hi hu hf
  rw [hu] at hf ⊢
  obtain rfl := State.frag_id hf
  refine ⟨fun q left p o hph hq hturn => ?_, fun hph hs => congrArg Host.Outcome.next (doWriteStart_assigned hi hf hph hs),
    fun hph hturn => congrArg Host.Outcome.next ((doWriteStart_staged hi hf hph par).trans (State.tryGrant_none hturn par))⟩
  have hcount := s.countAllWaits_frame
  obtain ⟨v, hgrant, hfv, hrr, hwr, hfabs⟩ := State.tryGrant_staged hf hph hturn par
  have hwrite := State.fragWrite_frame v f.id par
  obtain ⟨g, hg, hleft, hout, hwrites⟩ := State.fragWrite_writesLeft hfv hq par
  refine ⟨_, g, congrArg Host.Outcome.next ((doWriteStart_staged hi hf hph par).trans hgrant), hg, hleft, hout, hwrites,
    (hwrite.get .hold rfl).trans ((hrr.get .hold rfl).trans (hcount.get .hold rfl)),
    (hwrite.get .engs rfl).trans ((hrr.get .engs rfl).trans (hcount.get .engs rfl)),
    (hwrite.get .cc rfl).trans ((hrr.get .cc rfl).trans (hcount.get .cc rfl)), fun hlocal => ?_⟩
  obtain ⟨hissued, hkept⟩ := State.fragWrite_local hfv hq hlocal par
  exact ⟨hissued.trans (by rw [hwr]), hkept.trans ((hfabs hlocal).trans (hcount.get .fabs rfl))⟩

end Sys2Proof.Machine
end

section
/-! PROOFS. Operations on one channel: what they make of it, and that they leave every other one (R157, R162, R191). -/

namespace Sys2Proof.Machine

open Sys2Proof

theorem Frame.chan {ps : List Part} {s t : State} (h : Frame ps s t) (hp : ps.contains .chans = false) (n : Nat) :
    t.chan n = s.chan n := by
  rw [State.chan, State.chan, show t.chans = s.chans from h.get .chans hp]

/-- What a change makes of the channel as it stands is all that counts of it. -/
theorem State.updChan_congr {s : State} {n : Nat} {f g : Chan → Chan} (h : f (s.chan n) = g (s.chan n)) :
    s.updChan n f = s.updChan n g := by
  rw [State.updChan, State.updChan, tabUpd, tabUpd, show tabGet {} s.chans n = s.chan n from rfl, h]

theorem State.chan_updChan_updChan (s : State) (n : Nat) (f g : Chan → Chan) (m : Nat) :
    ((s.updChan n f).updChan n g).chan m = if m = n then g (f (s.chan n)) else s.chan m := by
  by_cases h : m = n <;> simp [h]

@[simp] theorem State.chan_answered (s : State) (m : Nat) : s.answered.chan m = s.chan m := rfl

@[simp] theorem State.chan_chEvent (s : State) (n code : Nat) (load : List Byte) (m : Nat) :
    (s.chEvent n code load).chan m = s.chan m :=
  (s.chEvent_frame n code load).chan rfl m

@[simp] theorem State.chan_chIdle (s : State) (n endc m : Nat) : (s.chIdle n endc).chan m =
    if m = n then { s.chan n with state := .idle, endc, wish := .none, fail := none, cut := none } else s.chan m := by
  simp [State.chIdle]

@[simp] theorem State.chan_chError (s : State) (n err m : Nat) : (s.chError n err).chan m =
    if m = n then { s.chan n with state := .error, err, wish := .none, fail := none, cut := none } else s.chan m := by
  simp [State.chError]

@[simp] theorem State.chan_badDesc (s : State) (n m : Nat) : (s.badDesc n).chan m =
    if m = n then { s.chan n with errinfo := 0, state := .error, err := 1, wish := .none, fail := none, cut := none }
    else s.chan m := by
  rw [State.badDesc, State.chan_chError]
  split <;> simp [*]

/-- BAD_DESC is raised of its channel, and waits for its detection (R167, R411). -/
theorem State.badDesc_raises (s : State) (n : Nat) : ∃ d ∈ (s.badDesc n).flt.waiting, d.source = 34 ∧ d.attr.unit = n :=
  ⟨_, State.chError_finds _ n 1 (List.mem_append_right _ List.mem_cons_self), rfl, rfl⟩

@[simp] theorem State.chan_retireFetch (s : State) (n : Fin 512) (m : Nat) : (s.retireFetch n).chan m =
    if m = n.val then { s.chan n.val with fetch := false } else s.chan m := by
  rw [State.retireFetch, State.chan_updChan]
  rfl

/-- What retired requests leave on the control path of a memory port (R186). -/
theorem State.ctl_disown (s : State) (mine : Owner → Bool) (owner : Owner) (c : Nat) :
    ((s.disown mine owner).port c).ctl = (s.port c).ctl.filter (fun r => !mine r.owner) := by
  let off : Owner → Owner := fun o => if mine o then owner else o
  exact congrArg MPort.ctl (tabGet_map {} s.ports (fun _ p => { p with
    rd := p.rd.map (fun r => { r with owner := off r.owner })
    wr := p.wr.map (fun w => { w with owner := off w.owner })
    ctl := p.ctl.filter (fun c => !mine c.owner) }) c rfl)

/-- No request of a link fetch that is retired stays on a control path (R186). -/
theorem State.ctl_retireFetch {s : State} {n : Fin 512} {c : Nat} {r : CtlReq} (h : r ∈ ((s.retireFetch n).port c).ctl) :
    r.owner ≠ .link n.val := by
  intro ho
  rw [show ((s.retireFetch n).port c).ctl = _ from State.ctl_disown s _ _ c] at h
  simp [ho, ownsAccess] at h

/-- A channel that is not held goes on to its next state (R182). -/
theorem State.goOn_free {s : State} {n : Nat} (h : (s.chan n).holding = false) (next : Chan → ChState) :
    s.goOn n next = s.updChan n (fun x => { x with state := next x }) :=
  State.updChan_congr (by simp [h])

/-! ### Bursts discarded (R191) -/

/-- The bursts of channel n that have not begun writing. -/
def Frag.discarded (n : Nat) (f : Frag) : Bool := f.ctx == .chan n && !f.writes

/-- Of the bursts discarded, those with beats to absorb stay. -/
theorem State.frags_discardBursts (s : State) (n : Nat) : (s.discardBursts n).frags =
    (s.frags.filter (fun f => !(f.discarded n && f.rdOut == 0))).map
      (fun f => if f.discarded n then { f with dead := true, rdReqs := [] } else f) := by
  have hdrop (ids : List Nat) (t : State) : (ids.foldl (fun s id => s.dropWalks (.frag id)) t).frags = t.frags :=
    (Frame.foldl (fun u id => u.dropWalks_frame (.frag id)) Frame.refl).get .frags rfl
  unfold State.discardBursts
  dsimp only
  split <;> exact hdrop _ _

theorem State.mem_discardBursts {s : State} {f : Frag} (hf : f ∈ s.frags) (hw : f.writes = true) (n : Nat) :
    f ∈ (s.discardBursts n).frags := by
  have hkept : f.discarded n = false := by simp [Frag.discarded, hw]
  rw [State.frags_discardBursts]
  exact List.mem_map.2 ⟨f, by simp [hf, hkept], by simp [hkept]⟩

theorem State.ctx_discardBursts {s : State} {n : Nat} {g : Frag} (hg : g ∈ (s.discardBursts n).frags) :
    ∃ f ∈ s.frags, f.ctx = g.ctx := by
  rw [State.frags_discardBursts] at hg
  obtain ⟨f, hf, rfl⟩ := List.mem_map.1 hg
  refine ⟨f, (List.mem_filter.1 hf).1, ?_⟩
  split <;> rfl

/-- A channel keeps of them the position of the first. -/
theorem State.chan_discardBursts (s : State) (n : Nat) : ∃ cut, ∀ m, (s.discardBursts n).chan m =
    if m = n then { s.chan n with cut } else s.chan m := by
  have hdrop (ids : List Nat) (t : State) (m : Nat) : (ids.foldl (fun s id => s.dropWalks (.frag id)) t).chan m = t.chan m :=
    (Frame.foldl (fun u id => u.dropWalks_frame (.frag id)) Frame.refl).chan rfl m
  unfold State.discardBursts
  dsimp only
  split
  · exact ⟨_, fun m => by rw [State.chan_updChan, hdrop, hdrop]; rfl⟩
  · refine ⟨(s.chan n).cut, fun m => ?_⟩
    rw [hdrop]
    split
    · rename_i h
      rw [h]
      rfl
    · rfl

theorem State.infl_eq_zero (s : State) (n : Nat) : s.infl n = 0 ↔ ∀ f ∈ s.frags, f.ctx ≠ .chan n := by
  simp [State.infl, State.inFlight]

/-! ### The paths to a channel's registers (R157, R319) -/

/-- A path to all the registers of channel n: the manager's copy of an unbound channel, or the window of an instance that
shows it. -/
def State.reaches (s : State) (via : Path) (n : Nat) : Prop :=
  (via = .manager ∧ (s.chan n).owner = 0) ∨ ∃ i, via = .page i ∧ s.shown i.val (n % 64) = some n

theorem State.chWrite_reaches {s : State} {via : Path} {n : Nat} (ht : s.taking = true) (hv : s.reaches via n)
    {all : State → State} (ha : (all s).pwr = s.pwr) (only : State → State) :
    s.chWrite via n all only = (all s).answered := by
  rw [State.chWrite, State.portWrite_taking_of_pwr ht]
  all_goals
    obtain ⟨rfl, ho⟩ | ⟨i, rfl, hs⟩ := hv
    · simp [ho, ha]
    · simp [hs, ha]

/-- Through the manager's copy of a bound channel only some writes act (R157). -/
theorem State.chWrite_bound {s : State} {n : Nat} (ht : s.taking = true) (ho : (s.chan n).owner ≠ 0) (all : State → State)
    {only : State → State} (ha : (only s).pwr = s.pwr) : s.chWrite .manager n all only = (only s).answered := by
  rw [State.chWrite, State.portWrite_taking_of_pwr ht] <;> simp [ho, ha]

theorem State.writeChCmd_clocked {s : State} (hk : s.pwr.clocked = true) (n : Nat) (all : Bool) (v : Word) :
    s.writeChCmd n all v = s.chCmd n all v := by
  simp [State.writeChCmd, State.steer, hk]

/-! ### CH_CMD (R161) -/

theorem State.chWrite_cmd {s : State} {via : Path} {n : Nat} (ht : s.taking = true) (hk : s.pwr.clocked = true)
    (hv : s.reaches via n) (v : Word) (only : State → State) :
    s.chWrite via n (fun s => s.writeChCmd n true v) only = (s.chCmd n true v).answered := by
  have hcmd := State.writeChCmd_clocked hk n true v
  rw [State.chWrite_reaches ht hv (hcmd ▸ (s.chCmd_frame n true v).get .pwr rfl), hcmd]

theorem State.chCmd_start {s : State} {n : Nat} (hr : s.inReset (s.chan n).owner = false) : s.chCmd n true 1 = s.chStart n := by
  simp [State.chCmd, hr, bit, Nat.testBit]

theorem State.chCmd_load {s : State} {n : Nat} (hr : s.inReset (s.chan n).owner = false) : s.chCmd n true 4 = s.chLoad n := by
  simp [State.chCmd, hr, bit, Nat.testBit]

theorem State.chCmd_drop {s : State} {n : Nat} (hr : s.inReset (s.chan n).owner = false) : s.chCmd n true 8 = s.chDrop n := by
  simp [State.chCmd, hr, bit, Nat.testBit]

/-- STOP acts through both paths (R157). -/
theorem State.chCmd_stop {s : State} {n : Fin 512} (hr : s.inReset (s.chan n.val).owner = false) (all : Bool) :
    s.chCmd n.val all 2 = s.chStop n := by
  simp [State.chCmd, hr, bit, Nat.testBit]

end Sys2Proof.Machine
end

section
/-! PROOFS. START, LOAD and DROP of a channel (R161, R176, R177, R182). -/

namespace Sys2Proof.Machine

open Sys2Proof

/-- What START takes back of an earlier activation (R176). -/
def Chan.restarted (x : Chan) : Chan :=
  { x with count := 0, endc := 0, err := 0, fetchBad := none, gate := false, wish := .none, fail := none, cut := none }

theorem State.chStart_loaded {s : State} {n : Nat} (hs : (s.chan n).state = .idle ∨ (s.chan n).state = .error)
    (hc : s.isContained (s.chan n).owner = false) (hr : s.inReset (s.chan n).owner = false) (hl : (s.chan n).remain ≠ 0) :
    s.chStart n =
      if badTransfer (s.chan n).src (s.chan n).dst (s.chan n).remain (s.chan n).cfg (s.chan n).next then
        (s.updChan n Chan.restarted).badDesc n
      else ((s.updChan n Chan.restarted).updChan n Chan.begin).goOn n Chan.running := by
  rcases hs with hs | hs <;> simp [State.chStart, hs, hc, hr, hl] <;> rfl

/-- A sound transfer of a channel that is not held begins (R176). -/
theorem State.chStart_sound {s : State} {n : Nat} (hs : (s.chan n).state = .idle ∨ (s.chan n).state = .error)
    (hc : s.isContained (s.chan n).owner = false) (hr : s.inReset (s.chan n).owner = false) (hl : (s.chan n).remain ≠ 0)
    (hok : badTransfer (s.chan n).src (s.chan n).dst (s.chan n).remain (s.chan n).cfg (s.chan n).next = false)
    (hfree : (s.chan n).holding = false) : s.chStart n =
      ((s.updChan n Chan.restarted).updChan n Chan.begin).updChan n (fun x => { x with state := x.running }) := by
  rw [State.chStart_loaded hs hc hr hl, hok]
  exact State.goOn_free (by simpa [Chan.holding, Chan.restarted, Chan.begin] using hfree) _

theorem State.chStart_running {s : State} {n : Nat} (hi : (s.chan n).state ≠ .idle) (he : (s.chan n).state ≠ .error) :
    s.chStart n = s := by
  simp [State.chStart, hi, he]

/-- Behind a closed gate it is PACE that keeps a channel from being active (R162, R176). -/
theorem Chan.running_closed {x : Chan} (h : x.gate = false) : x.running = if bit x.ctl 0 then .armed else .active := by
  cases hp : bit x.ctl 0 <;> simp [Chan.running, Chan.isOpen, h, hp]

/-- A LOAD that finds neither a valid shadow nor a fetch (R161). -/
theorem State.chLoad_free {s : State} {n : Nat} (hv : (s.chan n).shValid = false) (hf : (s.chan n).fetch = false) :
    s.chLoad n = if (s.chan n).state = .linkwait then (s.updChan n (fun x => { x with shValid := true })).promote n
      else s.updChan n (fun x => { x with shValid := true }) := by
  simp [State.chLoad, hv, hf]

theorem State.chLoad_held {s : State} {n : Nat} (h : ((s.chan n).shValid = true ∧ (s.chan n).fetch = false) ∨
    ((s.chan n).fetch = true ∧ (s.chan n).rose ≠ some s.now)) : s.chLoad n = s := by
  rcases h with ⟨hv, hf⟩ | ⟨hf, hr⟩
  · simp [State.chLoad, hv, hf]
  · simp [State.chLoad, hf, hr]

/-- A fetch that began on the bus clock of a LOAD gives way to it (R183). -/
theorem State.chLoad_retires {s : State} {n : Fin 512} (hv : (s.chan n.val).shValid = false)
    (hf : (s.chan n.val).fetch = true) (hr : (s.chan n.val).rose = some s.now) :
    s.chLoad n.val = (s.retireFetch n).chLoad n.val := by
  simp [State.chLoad, hv, hf, hr]

theorem State.promote_sound {s : State} {n : Nat} {y : Chan} (hy : y = (s.chan n).promoted (s.chKept n))
    (hok : badTransfer y.src y.dst y.remain y.cfg y.next = false) :
    s.promote n = (s.updChan n (fun _ => y.begin)).goOn n Chan.running := by
  subst hy
  simp [State.promote, hok]

/-- In LINKWAIT a channel that is not held begins the transfer that LOAD has made valid (R182). -/
theorem State.chLoad_promotes {s : State} {n : Nat} {y : Chan} (hlw : (s.chan n).state = .linkwait)
    (hv : (s.chan n).shValid = false) (hf : (s.chan n).fetch = false) (hfree : (s.chan n).holding = false)
    (hy : y = (s.chan n).promoted (s.chKept n)) (hok : badTransfer y.src y.dst y.remain y.cfg y.next = false) :
    s.chLoad n = ((s.updChan n (fun x => { x with shValid := true })).updChan n (fun _ => y.begin)).updChan n
      (fun x => { x with state := x.running }) := by
  obtain ⟨u, hu⟩ : ∃ u, u = s.updChan n (fun x => { x with shValid := true }) := ⟨_, rfl⟩
  have hyu : y = (u.chan n).promoted (u.chKept n) := by
    rw [hy, hu, State.chan_updChan, if_pos rfl]
    rfl
  rw [State.chLoad_free hv hf, if_pos hlw, ← hu, State.promote_sound hyu hok]
  refine State.goOn_free ?_ _
  rw [State.chan_updChan, if_pos rfl, hy]
  exact hfree

theorem State.chDrop_still {s : State} {n : Nat} (h : (s.chan n).state = .idle ∨ (s.chan n).state = .paused ∨
    (s.chan n).state = .error) : s.chDrop n = s.updChan n (fun x => { x with shValid := false }) := by
  rcases h with h | h | h <;> simp [State.chDrop, h]

/-- Settles O38: a START with a transfer loaded is `State.chStart_loaded`, a LOAD in LINKWAIT promotes the shadow
(`State.chLoad_promotes`), and one that meets a fetch of its own bus clock retires it first (`State.chLoad_retires`). -/
theorem channelsStartAndLoad : Obligations.ChannelsStartAndLoad := by
  unfold Obligations.ChannelsStartAndLoad
  intro s via n ht hk hv hr
  have start : exec (.chStart via n) s = .next (s.chStart n.val).answered :=
    congrArg Host.Outcome.next ((State.chWrite_cmd ht hk hv 1 id).trans (by rw [State.chCmd_start hr]))
  have load : exec (.chLoad via n) s = .next (s.chLoad n.val).answered :=
    congrArg Host.Outcome.next ((State.chWrite_cmd ht hk hv 4 id).trans (by rw [State.chCmd_load hr]))
  have drop : exec (.chDrop via n) s = .next (s.chDrop n.val).answered :=
    congrArg Host.Outcome.next ((State.chWrite_cmd ht hk hv 8 id).trans (by rw [State.chCmd_drop hr]))
  rw [start, load, drop]
  refine ⟨?_, ?_, ?_, ?_, ?_, ?_, ?_, ?_⟩
  · rintro x rfl hs hc hl hok hfree
    rw [State.chStart_sound hs hc hr hl hok hfree]
    refine ⟨_, rfl, rfl, ?_⟩
    simp +contextual [Chan.restarted, Chan.begin, Chan.running_closed]
  · rintro x rfl hs hc hl hbad
    rw [State.chStart_loaded hs hc hr hl, hbad]
    have hbd := (s.updChan n.val Chan.restarted).badDesc_frame n.val
    exact ⟨_, rfl, by simp, by simp, by simp [Chan.restarted], State.badDesc_raises _ _, hbd.get .frags rfl,
      hbd.get .hold rfl, fun m hm => by simp [hm]⟩
  · intro hi he
    rw [State.chStart_running hi he]
  · rintro x y rfl hy hlw hv hf hfree hok
    rw [State.chLoad_promotes hlw hv hf hfree hy hok]
    refine ⟨_, rfl, rfl, ?_⟩
    simp +contextual [hy, Chan.promoted, Chan.begin, Chan.running, Chan.isOpen]
  · intro hv hf hlw
    rw [State.chLoad_free hv hf, if_neg hlw]
  · intro h
    rw [State.chLoad_held h]
  · intro hv hf hrose hlw
    have hret := s.retireFetch_frame n
    have hfree : s.chLoad n.val = (s.retireFetch n).updChan n.val (fun x => { x with shValid := true }) := by
      rw [State.chLoad_retires hv hf hrose, State.chLoad_free (by simp [hv]) (by simp), if_neg (by simpa using hlw)]
    rw [hfree]
    exact ⟨_, rfl, by simp, fun r hr => State.ctl_retireFetch hr, fun m hm => by simp [hm], hret.get .insts rfl,
      hret.get .frags rfl, hret.get .hold rfl, hret.get .flt rfl⟩
  · intro h
    rw [State.chDrop_still h]

end Sys2Proof.Machine
end

section
/-! PROOFS. STOP of a channel, and PAUSE set and cleared (R157, R187, R188, R189, R191). -/

namespace Sys2Proof.Machine

open Sys2Proof

/-! ### STOP (R191) -/

/-- STOP acts through the manager's copy of a bound channel too (R157). -/
theorem exec_chStop {s : State} {via : Path} {n : Fin 512} (ht : s.taking = true) (hk : s.pwr.clocked = true)
    (hr : s.inReset (s.chan n.val).owner = false)
    (hv : via = .manager ∨ ∃ i, via = .page i ∧ s.shown i.val (n.val % 64) = some n.val) :
    exec (.chStop via n) s = .next (s.chStop n).answered := by
  refine congrArg Host.Outcome.next ?_
  by_cases hp : s.reaches via n.val
  · rw [State.chWrite_cmd ht hk hp, State.chCmd_stop hr]
  · obtain rfl : via = .manager := hv.resolve_right fun h => hp (.inr h)
    have hcmd := State.writeChCmd_clocked hk n.val false 2
    rw [State.chWrite_bound ht (fun ho => hp (.inl ⟨rfl, ho⟩)) _ (hcmd ▸ (s.chCmd_frame n.val false 2).get .pwr rfl), hcmd,
      State.chCmd_stop hr]

theorem State.chStop_idle {s : State} {n : Fin 512} (h : (s.chan n.val).state = .idle) : s.chStop n = s := by
  simp [State.chStop, State.chHalt, h]

theorem State.chStop_still {s : State} {n : Fin 512} (h : (s.chan n.val).state = .paused ∨ (s.chan n.val).state = .error) :
    s.chStop n = ((s.updChan n.val (fun x => { x with shValid := false, err := 0 })).retireFetch n).chIdle n.val 3 := by
  rcases h with h | h <;> simp [State.chStop, State.chHalt, h]

/-- What STOP discards of a running channel: its bursts that have not begun writing, its fetch and its shadow. -/
def State.stopped (s : State) (n : Fin 512) : State :=
  (((s.discardBursts n.val).retireFetch n).updChan n.val (fun x => { x with shValid := false })).updChan n.val
    (fun x => { x with state := .stopping, wish := .stop })

theorem State.chStop_running {s : State} {n : Fin 512} (h : (s.chan n.val).state = .armed ∨ (s.chan n.val).state = .active ∨
    (s.chan n.val).state = .linkwait ∨ (s.chan n.val).state = .pausing) : s.chStop n = (s.stopped n).ifDrained n.val := by
  rcases h with h | h | h | h <;> simp [State.chStop, State.chHalt, h, State.stopped]

theorem State.frags_stopped (s : State) (n : Fin 512) : (s.stopped n).frags = (s.discardBursts n.val).frags :=
  (State.retireFetch_frame _ n).get .frags rfl

theorem State.chan_stopped (s : State) (n : Fin 512) : ∃ cut, ∀ m, (s.stopped n).chan m = if m = n.val then
    { s.chan n.val with cut, fetch := false, shValid := false, state := .stopping, wish := .stop } else s.chan m := by
  obtain ⟨cut, h⟩ := s.chan_discardBursts n.val
  refine ⟨cut, fun m => ?_⟩
  by_cases hm : m = n.val <;> simp [State.stopped, h, hm]

theorem State.drained_stopping {s : State} {n : Nat} (h : (s.chan n).state = .stopping) (hw : (s.chan n).wish = .stop) :
    s.drained n = (s.updChan n (fun x => x.settle (x.cut.getD x.asgd))).chIdle n 3 := by
  simp [State.drained, h, hw, Chan.settle]

theorem State.infl_stopped_none {s : State} {n : Fin 512} (h : ∀ f ∈ s.frags, f.ctx ≠ .chan n.val) :
    (s.stopped n).infl n.val = 0 := by
  refine (State.infl_eq_zero _ _).2 fun g hg => ?_
  rw [State.frags_stopped] at hg
  obtain ⟨f, hf, hc⟩ := State.ctx_discardBursts hg
  exact hc ▸ h f hf

theorem State.infl_stopped_writes {s : State} {n : Fin 512} (h : ∃ f ∈ s.frags, f.ctx = .chan n.val ∧ f.writes = true) :
    (s.stopped n).infl n.val ≠ 0 := by
  obtain ⟨f, hf, hc, hw⟩ := h
  refine fun hz => (State.infl_eq_zero _ _).1 hz f ?_ hc
  rw [State.frags_stopped]
  exact State.mem_discardBursts hf hw n.val

/-- A stopped channel with a burst in flight is STOPPING; one without is IDLE, stopped (R191). -/
theorem State.chan_ifDrained_stopped (s : State) (n : Fin 512) :
    (∀ m, m ≠ n.val → ((s.stopped n).ifDrained n.val).chan m = s.chan m) ∧
    ∃ x, ((s.stopped n).ifDrained n.val).chan n.val = x ∧ x.shValid = false ∧ x.fetch = false ∧
      ((s.stopped n).infl n.val = 0 → x.state = .idle ∧ x.endc = 3) ∧
      ((s.stopped n).infl n.val ≠ 0 → x.state = .stopping ∧ x.wish = .stop) := by
  obtain ⟨cut, h⟩ := s.chan_stopped n
  by_cases hz : (s.stopped n).infl n.val = 0
  · have hd : (s.stopped n).ifDrained n.val = _ := (if_pos hz).trans (State.drained_stopping (by simp [h]) (by simp [h]))
    rw [hd]
    exact ⟨fun m hm => by simp [h, hm], _, rfl, by simp [h, Chan.settle, hz]⟩
  · rw [show (s.stopped n).ifDrained n.val = s.stopped n from if_neg hz]
    exact ⟨fun m hm => by simp [h, hm], _, rfl, by simp [h, hz]⟩

/-! ### PAUSE (R188, R189) -/

theorem bit_setFld_pause (w : Word) (v : Bool) {k : Nat} (hk : k < 16) :
    bit (setFld w 15 15 (b2n v)) k = if k = 15 then v else bit w k := by
  have hmask : ∀ j < 16, bit (mask 15 15) j = decide (j = 15) := by decide
  rw [setFld, bit_merge _ _ _ (by omega), hmask k hk]
  by_cases h : k = 15
  · rw [if_pos (decide_eq_true h), if_pos h, h]
    cases v <;> decide
  · rw [if_neg (by rw [decide_eq_false h]; decide), if_neg h]

/-- The bits of CH_CTL that a write of it can change as the channel stands (R160). -/
def Chan.ctlMask (x : Chan) : Word := mask 15 15 ||| (if x.still then mask 14 11 ||| mask 8 8 ||| mask 0 0 else 0)

/-- A channel after a write of CH_CTL that gives PAUSE a value. -/
def Chan.pauseWrite (v : Bool) (x : Chan) : Chan := { x with ctl := merge x.ctlMask x.ctl (setFld x.ctl 15 15 (b2n v)) }

/-- Of the bits of CH_CTL that write changes PAUSE alone. -/
theorem Chan.bit_pauseWrite (v : Bool) (x : Chan) {k : Nat} (hk : k < 16) :
    bit (x.pauseWrite v).ctl k = if k = 15 then v else bit x.ctl k := by
  rw [Chan.pauseWrite, bit_merge _ _ _ (by omega), bit_setFld_pause _ _ hk]
  by_cases hp : k = 15
  · have hm : bit x.ctlMask 15 = true := by
      rw [Chan.ctlMask, bit_or, show bit (mask 15 15) 15 = true by decide, Bool.true_or]
    rw [hp, if_pos hm]
  · rw [if_neg hp, ite_self]

@[simp] theorem Chan.pause_pauseWrite (v : Bool) (x : Chan) : bit (x.pauseWrite v).ctl 15 = v := x.bit_pauseWrite v (by decide)

@[simp] theorem Chan.pace_pauseWrite (v : Bool) (x : Chan) : bit (x.pauseWrite v).ctl 0 = bit x.ctl 0 :=
  x.bit_pauseWrite v (by decide)

/-- PACE and the gate stay, and so does the state that they call for (R176). -/
theorem Chan.running_pauseWrite (v : Bool) (x : Chan) : (x.pauseWrite v).begin.running = x.running := by
  rw [Chan.running, Chan.running, Chan.isOpen, Chan.isOpen, show (x.pauseWrite v).begin.ctl = (x.pauseWrite v).ctl from rfl,
    Chan.pace_pauseWrite]
  rfl

theorem State.writePause_changes {s : State} {n : Nat} {v : Bool} (hk : s.pwr.clocked = true) (h : bit (s.chan n).ctl 15 ≠ v) :
    s.writePause n v = (s.updChan n (Chan.pauseWrite v)).pauseActs n := by
  have hw : s.updChan n (fun x => { x with ctl := merge (s.chan n).ctlMask x.ctl (setFld (s.chan n).ctl 15 15 (b2n v)) }) =
      s.updChan n (Chan.pauseWrite v) := State.updChan_congr rfl
  rw [State.writePause, State.writeChCtl, bit_setFld_pause _ _ (by decide), if_pos rfl,
    if_pos (by simpa using h), State.steer, State.updChan_pwr, if_pos hk, ← hw]
  rfl

/-- A write of PAUSE that changes it, by a path to the channel's registers. -/
theorem State.chWrite_pause {s : State} {via : Path} {n : Nat} {v : Bool} (ht : s.taking = true) (hk : s.pwr.clocked = true)
    (hv : s.reaches via n) (h : bit (s.chan n).ctl 15 ≠ v) (only : State → State) :
    s.chWrite via n (fun s => s.writePause n v) only = ((s.updChan n (Chan.pauseWrite v)).pauseActs n).answered := by
  have hw := State.writePause_changes hk h
  rw [State.chWrite_reaches ht hv (hw ▸ (State.pauseActs_frame _ n).get .pwr rfl), hw]

/-- PAUSE set holds a running channel (R188). -/
theorem State.pauseActs_set {s : State} {n : Nat}
    (hs : (s.chan n).state = .armed ∨ (s.chan n).state = .active ∨ (s.chan n).state = .linkwait) :
    (s.updChan n (Chan.pauseWrite true)).pauseActs n = (s.updChan n (Chan.pauseWrite true)).updChan n
      (fun x => { x with state := if s.infl n = 0 then .paused else .pausing }) := by
  have hst : ((s.chan n).pauseWrite true).state = (s.chan n).state := rfl
  rw [State.pauseActs, State.chan_updChan, if_pos rfl, Chan.pause_pauseWrite, if_pos rfl, State.chHold, State.chan_updChan,
    if_pos rfl, hst]
  rcases hs with hs | hs | hs <;> rw [hs] <;> rfl

/-- PAUSE cleared lets a sound transfer of a paused channel go on (R189). -/
theorem State.pauseActs_clear {s : State} {n : Nat} (hs : (s.chan n).state = .paused) (hu : (s.chan n).susp = false)
    (hl : (s.chan n).remain ≠ 0)
    (hok : badTransfer (s.chan n).src (s.chan n).dst (s.chan n).remain (s.chan n).cfg (s.chan n).next = false) :
    (s.updChan n (Chan.pauseWrite false)).pauseActs n = (s.updChan n (Chan.pauseWrite false)).updChan n
      (fun x => { x.begin with state := x.begin.running }) := by
  have hfree : ((s.chan n).pauseWrite false).holding = false := by
    rw [Chan.holding, Chan.pause_pauseWrite]
    exact hu
  have hst : ((s.chan n).pauseWrite false).state = .paused := hs
  have hgo : (s.updChan n (Chan.pauseWrite false)).asCalled n = _ :=
    (if_neg (by simpa [Chan.pauseWrite, Chan.spent] using hl)).trans (if_neg (by simpa [Chan.pauseWrite] using hok))
  rw [State.pauseActs, State.chan_updChan, if_pos rfl, Chan.pause_pauseWrite, if_neg Bool.false_ne_true,
    State.chResume, State.chan_updChan, if_pos rfl, hfree, hst, if_neg (by decide), hgo]

/-- Settles O39: STOP ends a standing channel at once (`State.chStop_still`), and a running one as its bursts have it
(`State.chan_ifDrained_stopped`); a write that changes PAUSE holds the channel or lets it go on (`State.pauseActs_set`,
`State.pauseActs_clear`). -/
theorem channelsStopAndPause : Obligations.ChannelsStopAndPause := by
  unfold Obligations.ChannelsStopAndPause
  rintro s via n x ht hk rfl hr
  refine ⟨fun hv => ?_, fun hv => ⟨fun hb hs => ?_, fun hb hu hs hl hok => ?_⟩⟩
  · rw [exec_chStop ht hk hr hv]
    have hframe := s.chStop_frame n
    refine ⟨fun h => by rw [State.chStop_idle h], fun h => ⟨_, rfl, ?_⟩, fun h => ⟨_, rfl, ?_⟩⟩
    · rw [State.chStop_still h]
      have hret := State.retireFetch_frame (s.updChan n.val (fun x => { x with shValid := false, err := 0 })) n
      have hidle := State.chIdle_frame ((s.updChan n.val (fun x => { x with shValid := false, err := 0 })).retireFetch n) n.val 3
      refine ⟨by simp, by simp, by simp, by simp, by simp, fun m hm => by simp [hm], ?_, ?_⟩
      · exact (hidle.get .frags rfl).trans (hret.get .frags rfl)
      · exact (hidle.get .hold rfl).trans (hret.get .hold rfl)
    · obtain ⟨hothers, x, hx, hv, hf, hidle, hstop⟩ := s.chan_ifDrained_stopped n
      rw [← State.chStop_running h] at hothers hx
      simp only [State.chan_answered, hx]
      exact ⟨hv, hf, fun h => hidle (State.infl_stopped_none h), fun h => hstop (State.infl_stopped_writes h), hothers,
        hframe.get .hold rfl, hframe.get .queues rfl⟩
  · have hset := State.chWrite_pause (v := true) ht hk hv (by simp [hb]) id
    rw [State.pauseActs_set hs] at hset
    refine ⟨_, congrArg Host.Outcome.next hset, by simp, by simp, ?_, ?_, rfl, fun m hm => by simp [hm]⟩ <;>
      simp [Chan.pauseWrite]
  · have hclear := State.chWrite_pause (v := false) ht hk hv (by simp [hb]) id
    rw [State.pauseActs_clear hs hu hl hok] at hclear
    refine ⟨_, congrArg Host.Outcome.next hclear, by simp [Chan.begin], by simp [Chan.running_pauseWrite], ?_, ?_, rfl,
      fun m hm => by simp [hm]⟩ <;> simp [Chan.begin, Chan.pauseWrite]

end Sys2Proof.Machine
end

section
/-! PROOFS. Level samples, link fetches and their timeout (R162, R177, R183, R185, R186, R550). -/

namespace Sys2Proof.Machine

open Sys2Proof

/-! ### Levels (R177) -/

/-- A channel whose level is sampled (R177). -/
def Chan.sampled (level : Nat) (x : Chan) : Chan :=
  { x with cur := level, gate := if bit x.ctl 0 then x.gateAt level else x.gate }

theorem Chan.isOpen_sampled {x : Chan} (h : bit x.ctl 0 = true) (level : Nat) : (x.sampled level).isOpen = x.gateAt level := by
  simp [Chan.isOpen, Chan.sampled, h]

/-- The state that the gate calls for, of a channel with no burst in flight or with some (R177, R178). -/
def Chan.gated (quiet : Bool) (x : Chan) : ChState :=
  if x.state == .armed && x.isOpen then .active
  else if x.state == .active && !x.isOpen && quiet then .armed else x.state

theorem Chan.gated_armed {x : Chan} (h : x.state = .armed) (quiet : Bool) :
    x.gated quiet = if x.isOpen then .active else .armed := by
  cases ho : x.isOpen <;> simp [Chan.gated, h, ho]

theorem Chan.gated_active {x : Chan} (h : x.state = .active) : x.gated true = if x.isOpen then .active else .armed := by
  cases ho : x.isOpen <;> simp [Chan.gated, h, ho]

theorem State.chLevel_eq (s : State) (n level : Nat) : s.chLevel n level =
    if ((s.chan n).sampled level).state == .armed && ((s.chan n).sampled level).isOpen then
      (s.updChan n (Chan.sampled level)).updChan n (fun x => { x with state := .active })
    else if ((s.chan n).sampled level).state == .active && !((s.chan n).sampled level).isOpen && s.infl n = 0 then
      (s.updChan n (Chan.sampled level)).updChan n (fun x => { x with state := .armed })
    else s.updChan n (Chan.sampled level) := by
  rw [show (s.chan n).sampled level = (s.updChan n (Chan.sampled level)).chan n by simp]
  rfl

theorem State.chan_chLevel (s : State) (n level m : Nat) : (s.chLevel n level).chan m = if m = n then
    { (s.chan n).sampled level with state := ((s.chan n).sampled level).gated (s.infl n = 0) } else s.chan m := by
  rw [State.chLevel_eq, Chan.gated]
  split
  · exact State.chan_updChan_updChan ..
  · split
    · exact State.chan_updChan_updChan ..
    · exact State.chan_updChan ..

/-- A level changes the channels alone. -/
theorem State.chLevel_chans (s : State) (n level : Nat) : s.chLevel n level = { s with chans := (s.chLevel n level).chans } := by
  rw [State.chLevel_eq]
  split
  · rfl
  · split <;> rfl

/-! ### Link fetches (R183, R185, R550) -/

/-- The chart cache and the walks after the translation of a link fetch has been used (R332, R333). -/
def State.linkWalked (s : State) (n : Fin 512) : State :=
  (s.touch (s.chan n.val).owner (s.chan n.val).next.toNat).dropWalked (.link n)

/-- The request of a link fetch at its translated address (R183). -/
def State.linkReq (s : State) (n : Fin 512) (pa : Nat) : CtlReq :=
  s.ctlReq (.link n.val) false (s.chan n.val).owner (s.chan n.val).next.toNat pa 32 5
    (clsOf (s.linkCharge n.val) (fld (s.chan n.val).ctl 14 12))

/-- A fetch whose address translates, and whose node a port leads to, joins the control path of its cluster (R183, R359). -/
theorem State.linkGo_ok {s : State} {n : Fin 512} {pa : Nat} (hf : (s.chan n.val).fetch = true)
    (hb : s.busy (.link n.val) = false)
    (hroute : nodeOf (s.chan n.val).next.toNat = s.node ∨ (s.route (nodeOf (s.chan n.val).next.toNat)).isSome = true)
    (hx : s.xlate (.link n) (s.chan n.val).owner (s.chan n.val).next.toNat false = .ok pa) :
    s.linkGo n = (s.linkWalked n).putCtl (n.val / 64) ((s.linkWalked n).linkReq n pa) := by
  have hport : ¬ (nodeOf (s.chan n.val).next.toNat != s.node && (s.route (nodeOf (s.chan n.val).next.toNat)).isNone) = true := by
    rcases hroute with h | h
    · simp [h]
    · simp [Option.isSome_iff_ne_none.1 h]
  rw [State.linkGo]
  dsimp only
  rw [hf, hb, hx, if_neg (by decide)]
  exact if_neg hport

/-- The state with FETCH of channel n risen (R183). -/
def State.fetchRises (s : State) (n : Fin 512) : State :=
  s.updChan n.val (fun x => { x with fetch := true, fetchAt := s.age, rose := some s.now })

theorem State.chan_fetchRises (s : State) (n : Fin 512) (m : Nat) : (s.fetchRises n).chan m =
    if m = n.val then { s.chan n.val with fetch := true, fetchAt := s.age, rose := some s.now } else s.chan m :=
  State.chan_updChan ..

theorem State.linkCharge_fetchRises (s : State) (n : Fin 512) : (s.fetchRises n).linkCharge n.val = s.linkCharge n.val := by
  rw [State.linkCharge, State.linkSpan, State.chan_fetchRises, if_pos rfl]
  rfl

theorem doLinkFetch_wanted {s : State} {n : Fin 512} {k : Charge} (hnew : s.newWork = true)
    (hmay : s.mayFetch (s.chan n.val).owner = true) (hadm : s.admits (.chan n.val) = true)
    (hwant : (s.chan n.val).wantsFetch = true) (hk : s.linkCharge n.val = some k) :
    doLinkFetch n s = (s.fetchRises n).linkGo n := by
  rw [doLinkFetch, hnew, hmay, hadm, hwant, hk]
  rfl

/-- A failed fetch of a channel whose active set is not spent only makes its failure known (R185). -/
theorem State.fetchFails_unspent {s : State} {n : Nat} (h : (s.chan n).awaits = false) (err stat source : Nat) :
    s.fetchFails n err stat source = (s.updChan n (fun x => { x with fetch := false, fetchBad := some (err, stat) })).raise
      source 3 n (some (s.chan n).owner) (errInfo 3 stat false 0 32) := by
  have hafter : ((s.updChan n (fun x => { x with fetch := false, fetchBad := some (err, stat) })).chan n).awaits = false := by
    rw [State.chan_updChan, if_pos rfl]
    exact h
  rw [State.fetchFails, State.raise_at_chan, hafter]
  rfl

theorem doLinkTmo_passed {s : State} {n : Fin 512} (hu : s.up = true) (hf : (s.chan n.val).fetch = true)
    (ht : fld s.glb.chgLinkTmo 19 0 ≠ 0) (ha : (s.chan n.val).fetchAt + fld s.glb.chgLinkTmo 19 0 ≤ s.age) :
    doLinkTmo n s = (s.retireFetch n).fetchFails n.val 4 0 33 := by
  simp [doLinkTmo, hu, hf, ht, ha]

/-- Settles O40: a level acts by `State.chan_chLevel`, a fetch that its budget can take goes on with its translation
(`State.linkGo_ok`), and one past its timeout is retired and fails (`State.fetchFails_unspent`). -/
theorem levelsAndLinkFetches : Obligations.LevelsAndLinkFetches := by
  unfold Obligations.LevelsAndLinkFetches
  rintro s n x rfl
  refine ⟨fun l hu hp => ?_, fun k pa hnew hmay hadm hwant hk hb hroute hx => ?_, fun hu hf ht ha hw => ?_⟩
  · have hclk : s.pwr.clocked = true := by simpa [Power.clocked] using hp
    have hlevel : doLevel n.val l.toNat s = s.chLevel n.val l.toNat := by simp [doLevel, hu, hclk]
    refine ⟨_, congrArg Host.Outcome.next hlevel, ?_⟩
    rw [State.chan_chLevel, if_pos rfl]
    refine ⟨rfl, rfl, fun ha hpace => ?_, fun ha hpace hz => ?_, s.chLevel_chans _ _,
      fun m hm => (s.chan_chLevel _ _ m).trans (if_neg hm)⟩
    · rw [← Chan.isOpen_sampled hpace]
      exact Chan.gated_armed (x := (s.chan n.val).sampled l.toNat) ha _
    · rw [← Chan.isOpen_sampled hpace, hz]
      exact Chan.gated_active (x := (s.chan n.val).sampled l.toNat) ha
  · have hrisen := (s.chan_fetchRises n n.val).trans (if_pos rfl)
    have hgo : doLinkFetch n s = _ := (doLinkFetch_wanted hnew hmay hadm hwant hk).trans
      (State.linkGo_ok (pa := pa) (by rw [hrisen]) hb (by rw [hrisen]; exact hroute) (by rw [hrisen]; exact hx))
    refine ⟨_, ((s.fetchRises n).linkWalked n).linkReq n pa, congrArg Host.Outcome.next hgo, hrisen, ?_, rfl, rfl, rfl, rfl, ?_,
      rfl, rfl, rfl, fun m hm => ?_⟩
    · exact congrArg MPort.ctl ((State.port_updPort ..).trans (if_pos rfl))
    · have hcharge : ((s.fetchRises n).linkWalked n).linkCharge n.val = some k := (s.linkCharge_fetchRises n).trans hk
      rw [State.linkReq, hcharge]
      rfl
    · exact (s.chan_fetchRises n m).trans (if_neg hm)
  · have hret := s.retireFetch_frame n
    have hunspent : ((s.retireFetch n).chan n.val).awaits = false := by
      rw [State.chan_retireFetch, if_pos rfl]
      exact hw
    have hfail := State.fetchFails_unspent hunspent 4 0 33
    exact ⟨_, congrArg Host.Outcome.next ((doLinkTmo_passed hu hf ht ha).trans hfail), by simp,
      ⟨_, List.mem_append_right _ List.mem_cons_self, rfl, rfl⟩, fun m hm => by simp [hm], hret.get .frags rfl,
      hret.get .hold rfl⟩

end Sys2Proof.Machine
end

section
/-! PROOFS. CH_BIND and CH_UNBIND (R157, R162, R309, R342). -/

namespace Sys2Proof.Machine

open Sys2Proof

theorem State.onCmd_of_cur {s : State} {c : Cmd} {op : Nat} (hr : s.purRuns = true) (hc : s.pur.cur = some c)
    (ho : opcode c.raw = op) (f : Cmd → State → State) : s.onCmd op (fun _ => true) f = f c s := by
  simp [State.onCmd, State.running, hr, hc, Option.filter, ho]

/-- A command that fails no check is accepted. -/
theorem State.checked_nil {s : State} {c : Cmd} {rs : List Refuse} (h : rs = []) (go : State) : s.checked c rs go = go := by
  rw [h]
  rfl

@[simp] theorem need_true (code : Nat) (place : Place) (excess recNo : Nat) : need true code place excess recNo = [] := rfl

/-- A channel given to a new owner has every other register at its reset value, but the level as sampled (R162, R309). -/
theorem State.chan_giveChan (s : State) (n i m : Nat) : (s.giveChan n i).chan m =
    if m = n then { owner := i, cur := (s.chan n).cur, susp := s.suspends i } else s.chan m :=
  State.chan_updChan ..

theorem doChBind_accepted {s : State} {c : Cmd} (hn : cObj c.raw < 512) (hidle : (s.chan (cObj c.raw)).state = .idle)
    (hfree : (s.chan (cObj c.raw)).owner = 0) (h1 : 1 ≤ cInst c.raw) (hi : cInst c.raw < 1024)
    (he : s.exists_ (cInst c.raw) = true) (hd : s.pur.defer.all (fun d => d.inst != cInst c.raw) = true)
    (hc : s.isContained (cInst c.raw) = false) (hr : s.inReset (cInst c.raw) = false)
    (hq : s.bound (cInst c.raw) + 1 ≤ (s.inst (cInst c.raw)).led.cmax) :
    doChBind c s = (s.giveChan (cObj c.raw) (cInst c.raw)).done c 0 [] := by
  have hself : (cInst c.raw == 0) = false := beq_false_of_ne (Nat.ne_of_gt h1)
  have hquiet : s.pur.defer.any (fun d => d.inst == cInst c.raw) = false := by simpa using hd
  refine State.checked_nil ?_ _
  simp [State.instOk, State.instSound, limit, hn, hidle, hfree, hself, hi, he, hquiet, hc, hr, hq]

theorem doChUnbind_accepted {s : State} {c : Cmd} (hn : cObj c.raw < 512) (hidle : (s.chan (cObj c.raw)).state = .idle)
    (hbound : (s.chan (cObj c.raw)).owner ≠ 0) : doChUnbind c s = (s.giveChan (cObj c.raw) 0).done c 0 [] := by
  have howned : ((s.chan (cObj c.raw)).owner != 0) = true := bne_iff_ne.2 hbound
  refine State.checked_nil ?_ _
  simp [hn, hidle, howned]

/-- Settles O48: commands whose checks pass (`doChBind_accepted`, `doChUnbind_accepted`) give the channel to its new owner
(`State.chan_giveChan`). -/
theorem channelsAreBound : Obligations.ChannelsAreBound := by
  unfold Obligations.ChannelsAreBound
  rintro s c n hp hcur rfl hn hidle
  have given (i : Nat) : s.giveChan (cObj c.raw) i = { s with chans := (s.giveChan (cObj c.raw) i).chans } ∧
      (s.giveChan (cObj c.raw) i).chan (cObj c.raw) = { owner := i, cur := (s.chan (cObj c.raw)).cur, susp := s.suspends i } ∧
      ∀ m, m ≠ cObj c.raw → (s.giveChan (cObj c.raw) i).chan m = s.chan m :=
    ⟨rfl, (s.chan_giveChan _ i _).trans (if_pos rfl), fun m hm => (s.chan_giveChan _ i m).trans (if_neg hm)⟩
  refine ⟨fun ho hfree h1 hi he hd hc hr hq => ⟨_, congrArg Host.Outcome.next ?_, given (cInst c.raw)⟩,
    fun ho hbound => ⟨_, congrArg Host.Outcome.next ?_, given 0⟩⟩
  · rw [State.onCmd_of_cur hp hcur ho, doChBind_accepted hn hidle hfree h1 hi he hd hc hr hq]
  · rw [State.onCmd_of_cur hp hcur ho, doChUnbind_accepted hn hidle hbound]

end Sys2Proof.Machine
end

section
/-! PROOFS. The first read of a chart walk (R327, R331, R332, R345). -/

namespace Sys2Proof.Machine

open Sys2Proof

/-- The read of 8 B that a walk makes next (R327, R331). -/
def State.walkReq (s : State) (w : Walk) : CtlReq :=
  s.ctlReq (.chart w.ctx w.va) false w.inst (s.walkAddr w) (s.walkAddr w) 8 3 w.cls

/-- A walk that is listed waits for its read: it is busy, and its read joins the control path of its port (R331). -/
def State.beginsWalk (s : State) (w : Walk) : State :=
  { s with walks := s.walks ++ [{ w with busy := true }] }.putCtl w.port (s.walkReq w)

/-- Neither a reset sequence nor what is held back from new work stops a chart read (R345, R475, R503). -/
theorem State.chartRead_free {s : State} {x : XCtx} {i : Nat} (hr : s.inReset i = false)
    (hn : isNewCtx x = true → s.newWork = true) :
    ((s.inReset i && !isOvrCtx x) || (isNewCtx x && !s.newWork)) = false := by
  rw [hr]
  cases hx : isNewCtx x
  · rfl
  · rw [hn hx]
    rfl

/-- A change of the walk that a list has just taken in changes no other. -/
theorem map_walk_new {l : List Walk} {w : Walk} (h : w ∉ l) (v : Walk) :
    (l ++ [w]).map (fun u => if u = w then v else u) = l ++ [v] := by
  have hold : l.map (fun u => if u = w then v else u) = l.map id :=
    List.map_congr_left fun u hu => if_neg fun (e : u = w) => h (e ▸ hu)
  rw [List.map_append, hold, List.map_id, List.map_singleton, if_pos rfl]

/-- An access without a walk begins one (R331). -/
theorem doChartRead_begins {s : State} {x : XCtx} {i va c : Nat} {k : ArbClass} (hs : s.issues = true)
    (hm : s.missOf x = some (i, va, c, k)) (hr : s.inReset i = false) (hn : isNewCtx x = true → s.newWork = true)
    (hw : s.walks.find? (fun w => w.ctx == x && w.va == va) = none) :
    doChartRead x s = s.beginsWalk { ctx := x, inst := i, va, port := c, cls := k } := by
  have hnew : ({ ctx := x, inst := i, va, port := c, cls := k } : Walk) ∉ s.walks := fun h => by
    simpa using List.find?_eq_none.1 hw _ h
  simp only [doChartRead, hs, hm, State.chartRead_free hr hn, hw, map_walk_new hnew, Bool.not_true, Bool.false_eq_true, if_false]
  rfl

/-- An access whose walk has its read outstanding makes no second one (R331). -/
theorem doChartRead_busy {s : State} {x : XCtx} {i va c : Nat} {k : ArbClass} {w : Walk} (hs : s.issues = true)
    (hm : s.missOf x = some (i, va, c, k)) (hr : s.inReset i = false) (hn : isNewCtx x = true → s.newWork = true)
    (hw : s.walks.find? (fun w => w.ctx == x && w.va == va) = some w) (hb : w.busy = true) : doChartRead x s = s := by
  simp [doChartRead, hs, hm, State.chartRead_free hr hn, hw, hb]

/-- Settles O32: an access without a walk begins one (`doChartRead_begins`), and one whose walk is busy waits for it
(`doChartRead_busy`). -/
theorem chartReadsBegin : Obligations.ChartReadsBegin := by
  unfold Obligations.ChartReadsBegin
  intro s x i va c k hs hm hr hn
  refine ⟨fun hw => ?_, fun w hw hb => congrArg Host.Outcome.next (doChartRead_busy hs hm hr hn hw hb)⟩
  refine ⟨_, s.walkReq { ctx := x, inst := i, va, port := c, cls := k },
    congrArg Host.Outcome.next (doChartRead_begins hs hm hr hn hw), ?_, rfl, rfl, rfl, rfl, rfl, rfl, rfl, List.length_append,
    _, List.mem_append_right _ List.mem_cons_self, rfl, rfl, rfl⟩
  exact congrArg MPort.ctl ((State.port_updPort ..).trans (if_pos rfl))

end Sys2Proof.Machine
end

section
/-! PROOFS. The end of a settle, of a containment's wait, and of a write that the settle gives up (R345 to R348, R473). -/

namespace Sys2Proof.Machine

open Sys2Proof

/-! ### What a new generation makes of the instance's queues and channels (R347) -/

/-- Every queue of instance i at its reset value (R347). -/
def State.queuesReset (s : State) (i : Nat) : State := (s.ownQueues i).foldl (fun s p => s.updQueue p.1 Queue.reset) s

/-- Every channel of instance i at its reset value, END STOPPED (R347). -/
def State.chansReset (s : State) (i : Nat) : State :=
  (s.ownChans i).foldl (fun s n => s.updChan n (fun x => x.reset 3)) s

/-- A new generation cuts off the accesses of the old one, which leaves queues, channels and instance
registers, and then resets those of its own (R347). -/
theorem State.newGen_resets (s : State) (i : Nat) : ∃ u : State,
    s.newGen i = ((u.queuesReset i).chansReset i).updInst i Inst.reset ∧ u.insts = s.insts ∧ u.queues = s.queues ∧
      u.chans = s.chans ∧ u.cc = s.cc.filter (fun e => e.inst != i) :=
  ⟨_, rfl, rfl, rfl, rfl, rfl⟩

theorem State.queuesReset_frame (s : State) (i : Nat) : Frame [.queues] s (s.queuesReset i) :=
  Frame.foldl (fun u p => u.updQueue_frame p.1 Queue.reset) Frame.refl

theorem State.chansReset_frame (s : State) (i : Nat) : Frame [.chans] s (s.chansReset i) :=
  Frame.foldl (fun u n => u.updChan_frame n fun x => x.reset 3) Frame.refl

/-- A change that is the same done twice, made of several queues. -/
theorem State.queue_foldl_updQueue {f : Queue → Queue} (hf : ∀ q, f (f q) = f q) (l : List (Nat × Queue)) (s : State)
    (g : Nat) :
    (l.foldl (fun s p => s.updQueue p.1 f) s).queue? g =
      if g ∈ l.map (·.1) then (s.queue? g).map f else s.queue? g := by
  induction l generalizing s with
  | nil => rfl
  | cons p l ih =>
    rw [List.foldl_cons, ih, State.queue_updQueue]
    by_cases hp : g = p.1
    · subst hp
      cases s.queue? p.1 <;> simp [hf]
    · simp only [hp, if_false, List.map_cons, List.mem_cons, false_or]

/-- A change that is the same done twice, made of several channels. -/
theorem State.chan_foldl_updChan {f : Chan → Chan} (hf : ∀ x, f (f x) = f x) (l : List Nat) (s : State) (n : Nat) :
    (l.foldl (fun s n => s.updChan n f) s).chan n = if n ∈ l then f (s.chan n) else s.chan n := by
  induction l generalizing s with
  | nil => rfl
  | cons m l ih =>
    rw [List.foldl_cons, ih, State.chan_updChan]
    by_cases hm : n = m
    · subst hm
      simp [hf]
    · simp [hm]

theorem State.mem_of_queue {s : State} {g : Nat} {q : Queue} (h : s.queue? g = some q) : (g, q) ∈ s.queues := by
  obtain ⟨⟨j, r⟩, hp, rfl⟩ := Option.map_eq_some_iff.1 h
  have hj : j = g := by simpa using List.find?_some hp
  exact hj ▸ List.mem_of_find?_eq_some hp

/-- A queue that the instance has after step 5 is one at its reset value. -/
theorem State.queue_queuesReset {s : State} {i g : Nat} {q : Queue} (h : (s.queuesReset i).queue? g = some q) (hq : q.inst = i) :
    ∃ p : Queue, q = p.reset := by
  rw [State.queuesReset, State.queue_foldl_updQueue (f := Queue.reset) fun _ => rfl] at h
  split at h
  · obtain ⟨p, -, hp⟩ := Option.map_eq_some_iff.1 h
    exact ⟨p, hp.symm⟩
  · rename_i hg
    have hown : g ∈ (s.ownQueues i).map (·.1) :=
      List.mem_map.2 ⟨_, List.mem_filter.2 ⟨State.mem_of_queue h, beq_iff_eq.2 hq⟩, rfl⟩
    exact absurd hown hg

theorem State.chan_chansReset {s : State} {i n : Nat} (hn : (n, s.chan n) ∈ s.chans) (ho : (s.chan n).owner = i) :
    (s.chansReset i).chan n = (s.chan n).reset 3 := by
  have hown : n ∈ s.ownChans i := List.mem_map.2 ⟨_, List.mem_filter.2 ⟨hn, beq_iff_eq.2 ho⟩, rfl⟩
  rw [State.chansReset, State.chan_foldl_updChan (f := fun x => x.reset 3) fun _ => rfl, if_pos hown]

/-! ### The new generation, read -/

theorem State.inst_newGen (s : State) (i j : Nat) : (s.newGen i).inst j = if j = i then (s.inst i).reset else s.inst j := by
  obtain ⟨u, he, hi, -⟩ := s.newGen_resets i
  have hinsts : ((u.queuesReset i).chansReset i).insts = s.insts :=
    (((u.queuesReset i).chansReset_frame i).get .insts rfl).trans (((u.queuesReset_frame i).get .insts rfl).trans hi)
  rw [he, State.inst_updInst, State.inst, State.inst, hinsts]
  rfl

theorem State.queue_newGen {s : State} {i g : Nat} {q : Queue} (h : (s.newGen i).queue? g = some q) (hq : q.inst = i) :
    ∃ p : Queue, q = p.reset := by
  obtain ⟨u, he, -⟩ := s.newGen_resets i
  have hqueues : ((u.queuesReset i).chansReset i).queues = (u.queuesReset i).queues :=
    ((u.queuesReset i).chansReset_frame i).get .queues rfl
  rw [he, State.updInst_at_queue, State.queue?, hqueues] at h
  exact State.queue_queuesReset h hq

theorem State.chan_newGen {s : State} {i n : Nat} (hn : (n, s.chan n) ∈ s.chans) (ho : (s.chan n).owner = i) :
    (s.newGen i).chan n = (s.chan n).reset 3 := by
  obtain ⟨u, he, -, -, hc, -⟩ := s.newGen_resets i
  have hchans : (u.queuesReset i).chans = s.chans := ((u.queuesReset_frame i).get .chans rfl).trans hc
  have hchan : (u.queuesReset i).chan n = s.chan n := by rw [State.chan, State.chan, hchans]
  rw [he, State.updInst_at_chan, State.chan_chansReset (by rwa [hchan, hchans]) (by rwa [hchan]), hchan]

theorem State.cc_newGen (s : State) (i : Nat) : (s.newGen i).cc = s.cc.filter (fun e => e.inst != i) := by
  obtain ⟨u, he, -, -, -, hc⟩ := s.newGen_resets i
  rw [he, State.updInst_cc, ← hc]
  exact (((u.queuesReset i).chansReset_frame i).get .cc rfl).trans ((u.queuesReset_frame i).get .cc rfl)

/-! ### SETTLE_END and CONTAINED -/

/-- The end of a reset leaves the instance ACTIVE while the Purser, here by its state, runs; a removal goes on with its command
(R285, R345). -/
def Inst.settleEnds (x : Inst) (purser : Nat) : Inst :=
  { x with state := if x.state == .resetting && purser == 3 then .active else x.state }

theorem doSettleEnd_settled {s : State} {i : Nat} (hu : s.up = true) (hk : s.pwr.clocked = true) (hf : s.frozen = false)
    (hr : s.inReset i = true) (hs : s.settled i = true) :
    doSettleEnd i s = (s.newGen i).updInst i (fun x => x.settleEnds s.pur.state) := by
  simp only [doSettleEnd, hu, hk, hf, hr, hs, Bool.not_false, Bool.and_self, if_true, Inst.settleEnds]

theorem State.inst_settleEnds (s : State) (i j : Nat) :
    ((s.newGen i).updInst i (fun x => x.settleEnds s.pur.state)).inst j =
      if j = i then (s.inst i).reset.settleEnds s.pur.state else s.inst j := by
  rw [State.inst_updInst, State.inst_newGen, State.inst_newGen, if_pos rfl]
  split <;> rfl

theorem doSettleEnd_waits {s : State} {i : Nat} (hs : s.settled i = false) : doSettleEnd i s = s := by
  simp [doSettleEnd, hs]

theorem doContained_settled {s : State} {i : Nat} (hu : s.up = true) (hk : s.pwr.clocked = true)
    (hc : (s.inst i).state = .containing) (hs : s.settled i = true) :
    doContained i s = s.updInst i (fun x => { x with state := .contained, settling := false }) := by
  simp [doContained, hu, hk, hc, hs]

theorem doContained_waits {s : State} {i : Nat} (hs : s.settled i = false) : doContained i s = s := by
  simp [doContained, hs]

/-! ### SETTLE_TMO -/

/-- What waits for a write hears that it is over: its fragment, or the entry that it overwrites (R345). -/
def State.writeOver (s : State) (o : Owner) : State :=
  match o with
  | .frag id => s.fragWriteEnds id
  | .ovr g seq => s.ovrDone g seq true none
  | _ => s

theorem State.qOff_finds (s : State) (g : Nat) (q : Queue) : Finds s (s.qOff g q) :=
  Finds.trans ((State.updQueue_frame _ _ _).finds rfl) (State.post_finds _ _ _)

theorem State.qSettled_finds (s : State) (g : Nat) : Finds s (s.qSettled g) := by
  unfold State.qSettled
  split
  · exact Finds.rfl_
  · exact ite_finds Finds.rfl_ (ite_finds (State.qOff_finds _ _ _)
      (ite_finds ((State.updQueue_frame _ _ _).finds rfl) Finds.rfl_))

theorem State.ovrDone_finds (s : State) (g seq : Nat) (ok : Bool) (x : Option Nat) : Finds s (s.ovrDone g seq ok x) := by
  unfold State.ovrDone
  split
  · exact Finds.rfl_
  · split
    · exact Finds.rfl_
    · have taken (f : Queue → Queue) : Finds s (s.updQueue g f) := (State.updQueue_frame s g f).finds rfl
      exact Finds.trans (ite_finds (taken _) (ite_finds ((taken _).trans ((State.dropped_frame _ _).finds rfl))
        ((taken _).trans (State.raise_finds _ _ _ _ _ _ _)))) (State.qSettled_finds _ g)

theorem State.writeOver_finds (s : State) (o : Owner) : Finds s (s.writeOver o) := by
  unfold State.writeOver
  split
  · exact State.writesOver_finds (s.updFrag _ _) _
  · exact State.ovrDone_finds _ _ _ _ _
  · exact Finds.rfl_

theorem State.writeOver_dataPath (s : State) (o : Owner) : DataPath s (s.writeOver o) := by
  unfold State.writeOver
  split
  · exact State.writesOver_dataPath (s.updFrag _ _) _
  · exact (State.ovrDone_frame _ _ _ _ _).dataPath rfl
  · exact DataPath.rfl_

/-- A write that the settle gives up: every write of its slot becomes stuck there, the condition is raised, and what waits for
the write hears of it (R344, R345). -/
theorem doSettleTmo_passed {s : State} {c slot : Nat} {w : WrOut} (hu : s.up = true)
    (hw : (s.port c).wr.find? (fun w => w.slot == slot) = some w) (hx : (s.inst w.inst).settling = true)
    (hk : w.stuck = false) (hf : s.waitsFor w.inst w.owner w.at_ = true) (ht : fld s.glb.settleTmo 19 0 ≠ 0)
    (ha : (s.inst w.inst).settle + 500 * fld s.glb.settleTmo 19 0 ≤ s.age) :
    ∃ (o : WrOut → Owner) (d : Word), doSettleTmo c slot s = ((s.updPort c (fun p => { p with
      wr := p.wr.map (fun v => if v.slot = slot then { v with stuck := true, owner := o v } else v) })).raise 35 0 0
        (some w.inst) d).writeOver w.owner := by
  rw [doSettleTmo, hw]
  exact ⟨_, _, if_pos (by simp [hu, hx, hk, hf, ht, ha])⟩

/-- Settles O51: the settle's end is `doSettleEnd_settled`, read by the lemmas about `State.newGen`; a containment's is
`doContained_settled`, and a write given up is `doSettleTmo_passed`. -/
theorem settlesEnd : Obligations.SettlesEnd := by
  unfold Obligations.SettlesEnd
  intro s i hu
  refine ⟨fun hk hf hr hs => ?_, fun hk hc hs => congrArg Host.Outcome.next (doContained_settled hu hk hc hs),
    fun hs => ⟨congrArg Host.Outcome.next (doSettleEnd_waits hs), congrArg Host.Outcome.next (doContained_waits hs)⟩,
    fun p slot w hw hx hk hf ht ha => ?_⟩
  · have hframe := s.newGen_frame i.val
    have hown := (s.inst_settleEnds i.val i.val).trans (if_pos rfl)
    refine ⟨_, congrArg Host.Outcome.next (doSettleEnd_settled hu hk hf hr hs), congrArg Inst.gen hown,
      (congrArg Inst.state hown).trans ?_, congrArg Inst.evtEn hown, (congrArg Inst.led hown :), s.cc_newGen i.val,
      fun g q hg hq => ?_, fun n hn ho => ?_, fun j hj => (s.inst_settleEnds i.val j).trans (if_neg hj),
      hframe.get .hold rfl, hframe.get .pur rfl⟩
    · simp [Inst.settleEnds, Inst.reset]
    · obtain ⟨p, rfl⟩ := State.queue_newGen hg hq
      exact ⟨rfl, rfl, rfl⟩
    · rw [State.updInst_at_chan, State.chan_newGen hn ho]
      exact ⟨rfl, rfl, ho⟩
  · obtain ⟨o, d, he⟩ := doSettleTmo_passed hu hw hx hk hf ht ha
    refine ⟨_, congrArg Host.Outcome.next he, fun x hm hslot => ?_, ?_, ?_⟩
    · obtain ⟨-, -, -, hwr, -⟩ := (State.writeOver_dataPath _ w.owner).fields p.val
      rw [hwr, State.raise_at_port, State.port_updPort, if_pos rfl] at hm
      obtain ⟨v, -, rfl⟩ := List.mem_map.1 hm
      by_cases hv : v.slot = slot.toNat
      · rw [if_pos hv]
      · rw [if_neg hv] at hslot
        exact absurd hslot hv
    · exact ⟨_, State.writeOver_finds _ w.owner (List.mem_append_right _ List.mem_cons_self), rfl, rfl⟩
    · rw [← he]
      exact (doSettleTmo_frame s p.val slot.toNat).get .hold rfl

end Sys2Proof.Machine
end

section
/-! PROOFS. What ends Lockdown and Fatal (R59, R446, R447). -/

namespace Sys2Proof.Machine

open Sys2Proof

/-- Step FUSE alters the factory values, and keeps the rest of what `Keeps` speaks of (R488). -/
theorem doFuse_keeps_rest (s : State) (f g : Fuses) (ok : Bool) : ∃ d, Keeps { s with droop := d } (doFuse f g ok s) := by
  by_cases hs : s.atStep 1 = true
  · exact ⟨_, doFuse_keeps s f g ok hs⟩
  · have hf : doFuse f g ok s = s := by simp [doFuse, hs]
    exact ⟨s.droop, hf.symm ▸ Keeps.rfl_⟩

/-- But for the factory values, every command other than the power and the resets keeps all that `Keeps` speaks of. -/
theorem exec_keeps_rest {c : Instr} {s t : State} (h : exec c s = .next t)
    (hc : c ≠ .pgoodFall ∧ c ≠ .powerOnReset ∧ c ≠ .blockReset) : ∃ d, Keeps { s with droop := d } t := by
  obtain ⟨hfall, hporst, hrst⟩ := hc
  by_cases hk : takesBack c = true
  · cases c with
    | pgoodFall => exact absurd rfl hfall
    | powerOnReset => exact absurd rfl hporst
    | blockReset => exact absurd rfl hrst
    | fuse f g ok =>
      cases h
      exact doFuse_keeps_rest s f g ok
    | _ => cases hk
  · exact ⟨s.droop, exec_keeps (by simpa using hk) h⟩

/-- In Lockdown a reset lets only its pin fall (R59). -/
theorem doPorst_lockdown {s : State} (hl : s.pwr.lockdown = true) : (doPorst s).pwr.lockdown = true := by
  simp [doPorst, hl]

theorem doRst_lockdown {s : State} (hl : s.pwr.lockdown = true) : (doRst s).pwr.lockdown = true := by
  simp [doRst, hl]

/-- No command but the fall of TT_PGOOD ends Lockdown (R59, R447). -/
theorem exec_lockdown {c : Instr} {s t : State} (hl : s.pwr.lockdown = true) (h : exec c s = .next t) (hc : c ≠ .pgoodFall) :
    t.pwr.lockdown = true := by
  by_cases hporst : c = .powerOnReset
  · subst hporst
    cases h
    exact doPorst_lockdown hl
  by_cases hrst : c = .blockReset
  · subst hrst
    cases h
    exact doRst_lockdown hl
  obtain ⟨d, hk⟩ := exec_keeps_rest h ⟨hc, hporst, hrst⟩
  exact hk.lockdown hl

/-- Settles O5: a bus clock keeps Lockdown (`tick_keeps`), and so does every command but the fall of TT_PGOOD (`exec_lockdown`),
which blanks the power registers. -/
theorem onlyPowerEndsLockdown : Obligations.OnlyPowerEndsLockdown := by
  unfold Obligations.OnlyPowerEndsLockdown
  refine fun s t hl => ⟨fun h hp => ?_, fun h => ?_⟩
  · rcases step_cases h with ⟨-, rfl⟩ | ⟨c, rest, hq, h⟩
    · exact (tick_keeps Keeps.rfl_).lockdown hl
    · exact exec_lockdown (s := { s with pending := rest }) hl h fun hc => hp rest (hc ▸ hq)
  · cases h
    rfl

/-- Settles O6: a bus clock keeps Fatal (`tick_keeps`), and so does every command but the power and the resets (`exec_keeps_rest`);
a reset of the block that is Present blanks it (`doRst_blank`, `doPorst_blank`), its collector included. -/
theorem onlyResetEndsFatal : Obligations.OnlyResetEndsFatal := by
  unfold Obligations.OnlyResetEndsFatal
  refine fun s t hf => ⟨fun h hp => ?_, fun c hc hl hb h => ?_⟩
  · rcases step_cases h with ⟨-, rfl⟩ | ⟨c, rest, hq, h⟩
    · exact (tick_keeps Keeps.rfl_).fatal hf
    · obtain ⟨hfall, hporst, hrst⟩ := hp rest
      obtain ⟨d, hk⟩ := exec_keeps_rest h ⟨fun hc => hfall (hc ▸ hq), fun hc => hporst (hc ▸ hq), fun hc => hrst (hc ▸ hq)⟩
      exact hk.fatal hf
  · rcases hc with rfl | rfl
    · cases h
      rw [doRst_blank hl (.inl hb)]
      exact ⟨rfl, rfl⟩
    · cases h
      rw [doPorst_blank hl (by simp [hb])]
      exact ⟨rfl, rfl⟩

end Sys2Proof.Machine
end

section
/-! PROOFS. The scrubbers (R440 to R444). -/

namespace Sys2Proof.Machine

open Sys2Proof

/-! ### SCRUB_STEP (R440, R441, R443) -/

/-- The words of a bell have been read (R440, R441). -/
def Collector.scrubbed (c : Collector) : Collector := { c with due := false, words := nextWords c.words }

theorem doScrub_finds_none {s : State} (hp : s.isPresent = true) (hk : s.pwr.clocked = true) (hf : s.frozen = false)
    (hd : s.flt.due = true) : doScrub [] s = { s with flt := s.flt.scrubbed } := by
  simp [doScrub, Collector.scrubbed, hp, hk, hf, hd]

/-- What is found in one structure is the only finding of the bell. -/
theorem doScrub_finds_one {s : State} (hp : s.isPresent = true) (hk : s.pwr.clocked = true) (hf : s.frozen = false)
    (hd : s.flt.due = true) (f : ScrubFind) :
    doScrub [f] s = { s.scrubFound f with flt := (s.scrubFound f).flt.scrubbed } := by
  cases hs : f.sram <;> simp [doScrub, Collector.scrubbed, hp, hk, hf, hd, hs]

theorem doScrub_waits {s : State} (hd : s.flt.due = false) (found : List ScrubFind) : doScrub found s = s := by
  simp [doScrub, hd]

/-- A finding is raised under the source of its structure, and counted if it can be repaired (R413, R443, R444). -/
theorem State.scrubFound_flt (s : State) (f : ScrubFind) : ∃ d, (s.scrubFound f).flt = { s.flt with
      waiting := s.flt.waiting ++ [d]
      fixes := if f.single ∨ f.sram = .context ∨ f.sram = .chartCache then satAdd 16 s.flt.fixes 1 else s.flt.fixes } ∧
    d.source = 36 + 2 * sramNo f.sram + (if f.single then 0 else 1) ∧ d.present = true := by
  refine ⟨s.sramFind f (nth s.flt.words (sramNo f.sram)), ?_, ?_, rfl⟩
  · simp only [State.scrubFound, Bool.or_eq_true, beq_iff_eq, or_assoc]
  · cases hf : f.single <;> simp [State.sramFind, b2n, hf]

/-! ### HOLD_SCRUB (R442) -/

/-- Whether a hold address lies in a bank, by the number of the scrubber's turn (R112, R442). -/
def inHoldBank (k a : Nat) : Bool := k * 65536 ≤ a && a < (k + 1) * 65536

/-- The turn's scrub has ended (R442). -/
def Collector.bankScrubbed (c : Collector) : Collector := { c with scrubOn := false, bankDone := true }

/-- The scrub of an EMPTY bank zeroes it (R442). -/
def State.holdScrubbed (s : State) : State :=
  { s with hold := s.hold.filter (fun c => !inHoldBank s.flt.bank c.1), flt := s.flt.bankScrubbed }

/-- The bank in turn is EMPTY (R442). -/
def State.turnEmpty (s : State) : Prop := s.bankMode (s.flt.bank / 2) (s.flt.bank % 2) = 0

theorem doHoldScrub_leaves {s : State} (hp : s.isPresent = true) (hk : s.pwr.clocked = true) (hf : s.frozen = false)
    (ho : s.flt.scrubOn = true) (hm : ¬ s.turnEmpty) (bad : Bool) :
    doHoldScrub bad s = { s with flt := s.flt.bankScrubbed } := by
  simp only [doHoldScrub, hp, hk, hf, ho]
  exact if_pos hm

theorem doHoldScrub_empty {s : State} (hp : s.isPresent = true) (hk : s.pwr.clocked = true) (hf : s.frozen = false)
    (ho : s.flt.scrubOn = true) (hm : s.turnEmpty) (bad : Bool) :
    doHoldScrub bad s = if bad then
      { s.holdScrubbed with flt := { s.flt.bankScrubbed with fixes := satAdd 16 s.flt.fixes 1 } }.raise 15 1 (s.flt.bank / 2) none
      else s.holdScrubbed := by
  simp only [doHoldScrub, hp, hk, hf, ho]
  exact if_neg (not_not_intro hm)

theorem State.read_holdScrubbed (s : State) (a : Nat) :
    Memory.read s.holdScrubbed.hold a = if inHoldBank s.flt.bank a then 0 else Memory.read s.hold a := by
  rw [State.holdScrubbed, Memory.read_filter _ (fun a => !inHoldBank s.flt.bank a)]
  cases inHoldBank s.flt.bank a <;> rfl

theorem inHoldBank_of_mem {k a : Nat} (h1 : k * 65536 ≤ a) (h2 : a < (k + 1) * 65536) : inHoldBank k a = true := by
  simp [inHoldBank, h1, h2]

theorem inHoldBank_of_outside {k a : Nat} (h : a < k * 65536 ∨ (k + 1) * 65536 ≤ a) : inHoldBank k a = false := by
  simp only [inHoldBank, Bool.and_eq_false_iff, decide_eq_false_iff_not]
  omega

/-- Settles O59: a scrub step reads on with what it finds (`doScrub_finds_one`, `State.scrubFound_flt`), and a scrub of a bank is
`doHoldScrub_empty` or, where the bank has been assigned meanwhile, `doHoldScrub_leaves`. -/
theorem scrubbersRun : Obligations.ScrubbersRun := by
  unfold Obligations.ScrubbersRun
  intro s hp hk hf
  refine ⟨fun hd => congrArg Host.Outcome.next (doScrub_finds_none hp hk hf hd), fun f hd => ?_,
    fun found hd => congrArg Host.Outcome.next (doScrub_waits hd found), fun bad ho hm => ?_,
    fun bad ho hm => congrArg Host.Outcome.next (doHoldScrub_leaves hp hk hf ho hm bad)⟩
  · obtain ⟨d, hflt, hsource, hpresent⟩ := s.scrubFound_flt f
    refine ⟨_, d, congrArg Host.Outcome.next (doScrub_finds_one hp hk hf hd f), rfl, rfl, ?_, ?_, hsource, hpresent, ?_⟩
    · show nextWords (s.scrubFound f).flt.words = nextWords s.flt.words
      rw [hflt]
    · show (s.scrubFound f).flt.waiting = _
      rw [hflt]
    · show (s.scrubFound f).flt.fixes = _
      rw [hflt]
  · refine ⟨_, congrArg Host.Outcome.next (doHoldScrub_empty hp hk hf ho hm bad), ?_⟩
    have hin (a : Nat) (h1 : s.flt.bank * 65536 ≤ a) (h2 : a < (s.flt.bank + 1) * 65536) :
        Memory.read s.holdScrubbed.hold a = 0 :=
      (s.read_holdScrubbed a).trans (if_pos (inHoldBank_of_mem h1 h2))
    have hout (a : Nat) (h : a < s.flt.bank * 65536 ∨ (s.flt.bank + 1) * 65536 ≤ a) :
        Memory.read s.holdScrubbed.hold a = Memory.read s.hold a :=
      (s.read_holdScrubbed a).trans (if_neg (by simp [inHoldBank_of_outside h]))
    cases bad with
    | true =>
      exact ⟨rfl, rfl, rfl, hin, hout, fun _ => ⟨rfl, _, List.mem_append_right _ List.mem_cons_self, rfl⟩, fun h => nomatch h⟩
    | false => exact ⟨rfl, rfl, rfl, hin, hout, (fun h => nomatch h), fun _ => rfl⟩

end Sys2Proof.Machine
end

section
/-! PROOFS. The record's close, the alarm's minimum, injection, and the stalls of the ports (R413, R428, R434, R436). -/

namespace Sys2Proof.Machine

open Sys2Proof

/-! ### Fields of a word -/

theorem bit_mask (hi lo : Nat) {b : Nat} (hb : b < 64) : bit (mask hi lo) b = decide (lo ≤ b ∧ b ≤ hi) := by
  rw [bit, mask, BitVec.testBit_toNat, BitVec.getLsbD_ofNat, Nat.testBit_shiftLeft, Nat.testBit_two_pow_sub_one,
    decide_eq_true hb, Bool.true_and, ← Bool.decide_and]
  exact decide_eq_decide.2 (by omega)

theorem bit_setFld (w : Word) (hi lo v : Nat) {b : Nat} (hb : b < 64) :
    bit (setFld w hi lo v) b = if lo ≤ b ∧ b ≤ hi then v.testBit (b - lo) else bit w b := by
  rw [setFld, bit_merge _ _ _ hb, bit_mask _ _ hb]
  by_cases h : lo ≤ b ∧ b ≤ hi
  · rw [if_pos (decide_eq_true h), if_pos h, bit, BitVec.testBit_toNat, BitVec.getLsbD_ofNat, Nat.testBit_shiftLeft,
      decide_eq_true hb, decide_eq_true h.1, Bool.true_and, Bool.true_and]
  · rw [if_neg (by simpa using h), if_neg h]

theorem testBit_fld (w : Word) (hi lo i : Nat) : (fld w hi lo).testBit i = (decide (i < hi + 1 - lo) && bit w (lo + i)) := by
  rw [fld, Nat.testBit_mod_two_pow, Nat.testBit_shiftRight, bit]

theorem fld_setFld_same (w : Word) {hi lo : Nat} (h : hi < 64) (v : Nat) :
    fld (setFld w hi lo v) hi lo = v % 2 ^ (hi + 1 - lo) := by
  refine Nat.eq_of_testBit_eq fun i => ?_
  rw [testBit_fld, Nat.testBit_mod_two_pow]
  by_cases hi' : i < hi + 1 - lo
  · rw [bit_setFld _ _ _ _ (by omega), if_pos (by omega), Nat.add_sub_cancel_left]
  · rw [decide_eq_false hi', Bool.false_and, Bool.false_and]

theorem fld_setFld_other (w : Word) {hi lo hi' lo' : Nat} (h : hi < 64) (hd : hi < lo' ∨ hi' < lo) (v : Nat) :
    fld (setFld w hi' lo' v) hi lo = fld w hi lo := by
  refine Nat.eq_of_testBit_eq fun i => ?_
  rw [testBit_fld, testBit_fld]
  by_cases hi' : i < hi + 1 - lo
  · rw [bit_setFld _ _ _ _ (by omega), if_neg (by omega)]
  · rw [decide_eq_false hi', Bool.false_and, Bool.false_and]

/-! ### Injection (R436) -/

/-- INJ_CTL but for GO after a write (R436): CAP takes a class up to Fatal, SOURCE is kept while HOLD is 1. -/
def injWord (old v : Word) : Word :=
  let cap := fld v 22 20
  let w := if 6 ≤ cap then old else setFld old 22 20 (min cap 4)
  let w := if bit old 1 then w else setFld w 14 8 (fld v 14 8)
  setFld w 1 1 (b2n (bit v 1))

/-- GO after a write of INJ_CTL: requested before, or requested for an event source (R436). -/
def State.injAsked (s : State) (v : Word) : Bool :=
  s.glb.injGo || (bit v 0 && srcUsed (fld (injWord s.glb.injCtl v) 14 8) && !srcLevel (fld (injWord s.glb.injCtl v) 14 8))

/-- The block takes a write of INJ_CTL (R436). -/
def State.injTaken (s : State) (v : Word) : State :=
  { s.noteWrite 0x400100 v with glb := { s.glb with injCtl := injWord s.glb.injCtl v, injGo := s.injAsked v } }

theorem State.writeInj_locked {s : State} (hl : s.glb.lock = true) (v : Word) : s.writeInj v = s := by
  simp [State.writeInj, hl]

theorem State.writeInj_unlocked {s : State} (hl : s.glb.lock = false) (v : Word) : s.writeInj v = s.injTaken v := by
  rw [State.writeInj, if_neg (by simp [hl])]
  rfl

theorem bit_hold_injWord (old v : Word) : bit (injWord old v) 1 = bit v 1 := by
  rw [injWord, bit_setFld _ _ _ _ (by decide), if_pos (by decide)]
  cases bit v 1 <;> rfl

/-- A write of CAP leaves SOURCE. -/
theorem fld_source_cap (old v : Word) :
    fld (if 6 ≤ fld v 22 20 then old else setFld old 22 20 (min (fld v 22 20) 4)) 14 8 = fld old 14 8 := by
  split
  · rfl
  · exact fld_setFld_other _ (by decide) (by decide) _

theorem fld_source_injWord (old v : Word) :
    fld (injWord old v) 14 8 = if bit old 1 then fld old 14 8 else fld v 14 8 := by
  rw [injWord, fld_setFld_other _ (by decide) (by decide)]
  split
  · exact fld_source_cap old v
  · rw [fld_setFld_same _ (by decide), fld, Nat.mod_mod]

/-- A write of INJ_CTL whose word the register's present value gives. -/
theorem State.portWrite_inj {s : State} (h : s.taking = true) (v : Word → Word) :
    s.portWrite false (fun s => s.writeInj (v s.glb.injCtl)) = (s.writeInj (v s.glb.injCtl)).answered :=
  State.portWrite_taking_of_pwr h false ((State.writeInj_frame s (v s.glb.injCtl)).get .pwr rfl)

/-- What INJ_GO writes: SOURCE and GO (R436). -/
def goWord (k : BitVec 7) (w : Word) : Word := setFld (setFld w 14 8 k.toNat) 0 0 1

/-- What INJ_HOLD writes: SOURCE and HOLD (R436, R438). -/
def holdWord (k : BitVec 7) (h : Bool) (w : Word) : Word := setFld (setFld w 14 8 k.toNat) 1 1 (b2n h)

theorem exec_injGo_taking {s : State} (ht : s.taking = true) (k : BitVec 7) :
    exec (.injGo k) s = .next (s.writeInj (goWord k s.glb.injCtl)).answered :=
  congrArg Host.Outcome.next (State.portWrite_inj ht (goWord k))

theorem exec_injHold_taking {s : State} (ht : s.taking = true) (k : BitVec 7) (h : Bool) :
    exec (.injHold k h) s = .next (s.writeInj (holdWord k h s.glb.injCtl)).answered :=
  congrArg Host.Outcome.next (State.portWrite_inj ht (holdWord k h))

/-- What INJ_GO and INJ_HOLD write as SOURCE (R436). -/
theorem fld_source_setFld (w : Word) (k : BitVec 7) : fld (setFld w 14 8 k.toNat) 14 8 = k.toNat := by
  rw [fld_setFld_same _ (by decide)]
  exact Nat.mod_eq_of_lt k.isLt

theorem bit_goWord (k : BitVec 7) (w : Word) : bit (goWord k w) 0 = true := by
  rw [goWord, bit_setFld _ _ _ _ (by decide), if_pos (by decide)]
  decide

theorem bit_holdWord (k : BitVec 7) (h : Bool) (w : Word) : bit (holdWord k h w) 1 = h := by
  rw [holdWord, bit_setFld _ _ _ _ (by decide), if_pos (by decide)]
  cases h <;> decide

/-- SOURCE as a write of GO or HOLD leaves it: it is kept while HOLD is 1 (R436). -/
theorem fld_source_written (w : Word) (k : BitVec 7) {b : Nat} (hb : b < 2) (v : Nat) :
    fld (injWord w (setFld (setFld w 14 8 k.toNat) b b v)) 14 8 = if bit w 1 then fld w 14 8 else k.toNat := by
  rw [fld_source_injWord, fld_setFld_other _ (by decide) (.inr (by omega)), fld_source_setFld]

/-! ### Closing the record, and stalls (R413, R428, R504) -/

/-- CLOSE closes the record only where SEEN is MERGED (R428). -/
theorem State.closeRecord_eq (s : State) :
    s.closeRecord = { s with flt := { s.flt with open_ := s.flt.open_ && s.flt.merged != s.flt.seen } } := by
  rw [State.closeRecord]
  by_cases hm : s.flt.merged = s.flt.seen
  · cases ho : s.flt.open_
    · rw [Bool.false_and, if_neg (by decide), Bool.false_and, ← ho]
    · simp [hm]
  · have hne : (s.flt.merged == s.flt.seen) = false := by simpa using hm
    rw [hne, Bool.and_false, if_neg (by decide), bne, hne, Bool.not_false, Bool.and_true]

theorem State.portWrite_frecClose {s : State} (ha : s.answersAbsent = false) (hl : s.pwr.lockdown = false)
    (hr : s.pwr.phase = .run) (seen : Nat) :
    s.portWrite true (fun s => { s with flt := { s.flt with seen } }.closeRecord) =
      ({ s with flt := { s.flt with seen } }.closeRecord).answered := by
  have hawake : ({ s with flt := { s.flt with seen } }.closeRecord).pwr.awake = true := by
    simp [State.closeRecord_eq, Power.awake, hr]
  simp only [State.portWrite, ha, hl, Bool.not_true, Bool.and_false, Bool.or_false, Bool.false_eq_true, if_false,
    State.wakeBy_awake hawake]
  rfl

theorem State.stall_ignored {s : State} (h : s.isPresent = false ∨ s.frozen = true) (source kind unit : Nat) :
    s.stall source kind unit true = s := by
  rcases h with h | h <;> simp [State.stall, h]

theorem State.stall_waits {s : State} (hp : s.isPresent = true) {p : Bool} (h : p = false ∨ s.frozen = false)
    (source kind unit : Nat) : s.stall source kind unit p = s.level source kind unit p := by
  rcases h with h | h <;> simp [State.stall, hp, h]

/-- Settles O58: a close is `State.closeRecord_eq`, a write of INJ_CTL `State.writeInj_unlocked` or `State.writeInj_locked`, and a
stall `State.stall_waits` or `State.stall_ignored`. -/
theorem faultControls : Obligations.FaultControls := by
  unfold Obligations.FaultControls
  intro s
  refine ⟨fun seen ha hl hr => ?_, fun h => ?_, fun h => ?_, fun k ht hl hh => ?_, fun k h ht hl => ?_, fun k h ht hl => ⟨?_, ?_⟩,
    fun c f h => ⟨?_, ?_⟩, fun c f p hp h => ?_⟩
  · exact congrArg Host.Outcome.next ((State.portWrite_frecClose ha hl hr _).trans (by rw [State.closeRecord_eq]; rfl))
  · exact congrArg Host.Outcome.next (if_pos h)
  · exact congrArg Host.Outcome.next (if_neg h)
  · have hsrc := (fld_source_written s.glb.injCtl k (b := 0) (by decide) 1).trans (if_neg (by simp [hh]))
    rw [exec_injGo_taking ht, State.writeInj_unlocked hl]
    refine ⟨_, rfl, rfl, hsrc, ?_⟩
    show (s.glb.injGo || (bit (goWord k _) 0 && srcUsed (fld _ 14 8) && !srcLevel (fld _ 14 8))) = _
    rw [bit_goWord, goWord, hsrc, Bool.true_and]
    rfl
  · rw [exec_injHold_taking ht, State.writeInj_unlocked hl]
    exact ⟨_, rfl, rfl, (bit_hold_injWord _ _).trans (bit_holdWord k h _), fld_source_written s.glb.injCtl k (by decide) _⟩
  · rw [exec_injGo_taking ht, State.writeInj_locked hl]
  · rw [exec_injHold_taking ht, State.writeInj_locked hl]
  · exact congrArg Host.Outcome.next (State.stall_ignored h _ _ _)
  · exact congrArg Host.Outcome.next (State.stall_ignored h _ _ _)
  · exact ⟨_, _, congrArg Host.Outcome.next (State.stall_waits hp h _ _ _), rfl, rfl,
      congrArg Host.Outcome.next (State.stall_waits hp h _ _ _), rfl, rfl⟩

end Sys2Proof.Machine
end

section
/-! PROOFS. What stopping work tells the collector: conditions that wait for their detection, and nothing else (R409, R411). -/

namespace Sys2Proof.Machine

open Sys2Proof

/-- Of the collector only what waits for its detection changes (R411). -/
def OnlyRaises (s t : State) : Prop := ∃ w, t.flt = { s.flt with waiting := w }

theorem OnlyRaises.rfl_ {s : State} : OnlyRaises s s := ⟨_, rfl⟩

theorem OnlyRaises.trans {s t u : State} (h : OnlyRaises s t) (g : OnlyRaises t u) : OnlyRaises s u := by
  obtain ⟨v, hv⟩ := h
  obtain ⟨w, hw⟩ := g
  exact ⟨w, by rw [hw, hv]⟩

/-- A change that leaves the collector. -/
theorem Frame.onlyRaises {ps : List Part} {s t : State} (h : Frame ps s t) (hp : ps.contains .flt = false) : OnlyRaises s t :=
  ⟨_, h.get .flt hp⟩

theorem State.raise_onlyRaises (s : State) (k kind unit : Nat) (inst : Option Nat) (d : Word) (x : Option Nat) :
    OnlyRaises s (s.raise k kind unit inst d x) := ⟨_, rfl⟩

theorem ite_onlyRaises {s t u : State} {p : Prop} [Decidable p] (ht : OnlyRaises s t) (hu : OnlyRaises s u) :
    OnlyRaises s (if p then t else u) := by
  split
  · exact ht
  · exact hu

theorem State.updChan_onlyRaises (s : State) (n : Nat) (f : Chan → Chan) : OnlyRaises s (s.updChan n f) := ⟨_, rfl⟩

theorem State.updFrag_onlyRaises (s : State) (id : Nat) (f : Frag → Frag) : OnlyRaises s (s.updFrag id f) := ⟨_, rfl⟩

theorem State.goOn_onlyRaises (s : State) (n : Nat) (next : Chan → ChState) : OnlyRaises s (s.goOn n next) := ⟨_, rfl⟩

theorem OnlyRaises.foldl {α : Type} {f : State → α → State} (hf : ∀ s x, OnlyRaises s (f s x)) (l : List α) (s : State) :
    OnlyRaises s (l.foldl f s) := by
  induction l generalizing s with
  | nil => exact OnlyRaises.rfl_
  | cons x xs ih => exact (hf s x).trans (ih _)

/-! ### Events -/

theorem State.loseEvent_onlyRaises (s : State) (i n : Nat) : OnlyRaises s (s.loseEvent i n) :=
  ite_onlyRaises (State.raise_onlyRaises (s.updInst i _) _ _ _ _ _ _) OnlyRaises.rfl_

theorem State.post_onlyRaises (s : State) (i : Nat) (r : EvRec) : OnlyRaises s (s.post i r) := by
  refine ite_onlyRaises OnlyRaises.rfl_ ?_
  have hl : OnlyRaises s (if s.lostDue i then s.addLost i else s) :=
    ite_onlyRaises ((State.addLost_frame _ _).onlyRaises rfl) OnlyRaises.rfl_
  refine hl.trans (ite_onlyRaises (State.loseEvent_onlyRaises _ _ _) (ite_onlyRaises ?_ ?_))
  · exact OnlyRaises.trans ((State.updInst_frame _ _ _).onlyRaises rfl) (State.loseEvent_onlyRaises _ _ _)
  · exact (State.updInst_frame _ _ _).onlyRaises rfl

theorem State.notice_onlyRaises (s : State) (i code : Nat) (load : List Byte) : OnlyRaises s (s.notice i code load) :=
  State.post_onlyRaises _ _ _

/-! ### Channels (R182, R188 to R198) -/

theorem State.chEvent_onlyRaises (s : State) (n code : Nat) (load : List Byte) : OnlyRaises s (s.chEvent n code load) :=
  State.post_onlyRaises _ _ _

theorem State.chIdle_onlyRaises (s : State) (n endc : Nat) : OnlyRaises s (s.chIdle n endc) :=
  State.chEvent_onlyRaises (s.updChan n _) _ _ _

theorem State.chError_onlyRaises (s : State) (n err : Nat) : OnlyRaises s (s.chError n err) :=
  State.chEvent_onlyRaises (s.updChan n _) _ _ _

theorem State.badDesc_onlyRaises (s : State) (n : Nat) : OnlyRaises s (s.badDesc n) :=
  OnlyRaises.trans (State.raise_onlyRaises (s.updChan n _) _ _ _ _ _ _) (State.chError_onlyRaises _ _ _)

theorem State.promote_onlyRaises (s : State) (n : Nat) : OnlyRaises s (s.promote n) :=
  ite_onlyRaises (State.badDesc_onlyRaises _ _) (State.goOn_onlyRaises (s.updChan n _) _ _)

theorem State.afterTransfer_onlyRaises (s : State) (n : Nat) : OnlyRaises s (s.afterTransfer n) := by
  refine ite_onlyRaises (State.promote_onlyRaises _ _) ?_
  split
  · exact State.chError_onlyRaises (s.updChan n _) _ _
  · exact ite_onlyRaises (State.chIdle_onlyRaises _ _ _) (ite_onlyRaises (State.chIdle_onlyRaises _ _ _) (State.goOn_onlyRaises _ _ _))

theorem State.countTransfer_onlyRaises (s : State) (n : Nat) : OnlyRaises s (s.countTransfer n) :=
  OnlyRaises.trans (ite_onlyRaises (State.chEvent_onlyRaises (s.updChan n _) _ _ _) OnlyRaises.rfl_)
    ((State.chCount_frame _ _ _).onlyRaises rfl)

theorem State.transferDone_onlyRaises (s : State) (n : Nat) : OnlyRaises s (s.transferDone n) :=
  (State.countTransfer_onlyRaises s n).trans (State.afterTransfer_onlyRaises _ _)

theorem State.asCalled_onlyRaises (s : State) (n : Nat) : OnlyRaises s (s.asCalled n) :=
  ite_onlyRaises (State.afterTransfer_onlyRaises (s.updChan n _) n)
    (ite_onlyRaises (State.badDesc_onlyRaises _ _) (State.updChan_onlyRaises _ _ _))

theorem State.drained_onlyRaises (s : State) (n : Nat) : OnlyRaises s (s.drained n) := by
  unfold State.drained
  dsimp only
  split
  · exact ite_onlyRaises (State.updChan_onlyRaises _ _ _) (State.asCalled_onlyRaises _ _)
  · exact ite_onlyRaises (State.chError_onlyRaises (s.updChan n _) _ _) (State.chIdle_onlyRaises (s.updChan n _) _ _)
  · split
    · exact OnlyRaises.rfl_
    · exact ite_onlyRaises (State.chIdle_onlyRaises ((s.updChan n _).updChan n _) _ _)
        (ite_onlyRaises (State.chError_onlyRaises (s.updChan n _) _ _) (State.chError_onlyRaises ((s.updChan n _).updChan n _) _ _))
  · exact ite_onlyRaises OnlyRaises.rfl_ (State.updChan_onlyRaises _ _ _)
  · exact OnlyRaises.rfl_

theorem State.ifDrained_onlyRaises (s : State) (n : Nat) : OnlyRaises s (s.ifDrained n) :=
  ite_onlyRaises (State.drained_onlyRaises _ _) OnlyRaises.rfl_

theorem State.chHalt_onlyRaises (s : State) (n : Fin 512) (wish : StopWish) : OnlyRaises s (s.chHalt n wish) := by
  have cleared : OnlyRaises s ((s.discardBursts n.val).retireFetch n) :=
    ((State.discardBursts_frame _ _).onlyRaises rfl).trans ((State.retireFetch_frame _ _).onlyRaises rfl)
  have still (f : Chan → Chan) : OnlyRaises s (((s.updChan n.val f).retireFetch n).chIdle n.val 3) :=
    OnlyRaises.trans ((State.retireFetch_frame (s.updChan n.val f) n).onlyRaises rfl) (State.chIdle_onlyRaises _ _ _)
  unfold State.chHalt
  dsimp only
  split
  · exact OnlyRaises.rfl_
  · exact still _
  · exact still _
  · exact State.ifDrained_onlyRaises (s.updChan n.val _) _
  · exact cleared.trans (State.ifDrained_onlyRaises ((((s.discardBursts n.val).retireFetch n).updChan n.val _).updChan n.val _) _)
  · exact cleared.trans (State.ifDrained_onlyRaises ((((s.discardBursts n.val).retireFetch n).updChan n.val _).updChan n.val _) _)

theorem State.chContain_onlyRaises (s : State) (n : Fin 512) : OnlyRaises s (s.chContain n) := by
  unfold State.chContain
  split
  · exact State.chError_onlyRaises _ _ _
  · exact ite_onlyRaises OnlyRaises.rfl_ (State.chError_onlyRaises _ _ _)
  · exact ((State.retireFetch_frame s n).onlyRaises rfl).trans
      (OnlyRaises.trans (State.updChan_onlyRaises _ n.val _) (State.chError_onlyRaises _ _ _))
  · exact State.chHalt_onlyRaises _ _ _

/-! ### Fragments and engines (R148, R192, R194) -/

theorem State.burstOk_onlyRaises (s : State) (n : Nat) (f : Frag) : OnlyRaises s (s.burstOk n f) := by
  have counted (g h : Chan → Chan) : OnlyRaises s ((s.chCount n g).updChan n h) :=
    OnlyRaises.trans ((State.chCount_frame _ _ _).onlyRaises rfl) (State.updChan_onlyRaises _ _ _)
  exact ite_onlyRaises ((counted _ _).trans (State.transferDone_onlyRaises _ _))
    (ite_onlyRaises ((counted _ _).trans ((State.countTransfer_onlyRaises _ _).trans (State.ifDrained_onlyRaises _ _)))
      ((counted _ _).trans (State.ifDrained_onlyRaises _ _)))

theorem State.burstFailed_onlyRaises (s : State) (n : Nat) (f : Frag) (err side stat : Nat) (out late : Bool) :
    OnlyRaises s (s.burstFailed n f err side stat out late) := State.ifDrained_onlyRaises (s.updChan n _) n

theorem State.burstEnds_onlyRaises (s : State) (n : Nat) (f : Frag) : OnlyRaises s (s.burstEnds n f) := by
  have failed (err side stat : Nat) (out late : Bool) := State.burstFailed_onlyRaises s n f err side stat out late
  exact ite_onlyRaises (State.ifDrained_onlyRaises _ _) (ite_onlyRaises (State.burstOk_onlyRaises _ _ _)
    (ite_onlyRaises (ite_onlyRaises (failed _ _ _ _ _) (failed _ _ _ _ _))
      (ite_onlyRaises (failed _ _ _ _ _) (ite_onlyRaises (failed _ _ _ _ _) (failed _ _ _ _ _)))))

theorem State.endFrag_onlyRaises (s : State) (id : Nat) : OnlyRaises s (s.endFrag id) := by
  unfold State.endFrag
  split
  · exact OnlyRaises.rfl_
  · dsimp only
    split
    · exact OnlyRaises.trans ((State.dropWalks_frame (s.dropFrag id) _).onlyRaises rfl) (State.burstEnds_onlyRaises _ _ _)
    · exact OnlyRaises.trans ((State.dropWalks_frame (s.dropFrag id) _).onlyRaises rfl)
        (OnlyRaises.trans ((State.updEntry_frame _ _ _ _).onlyRaises rfl) ((State.cancelRecs_frame _ _ _).onlyRaises rfl))

theorem State.writesOver_onlyRaises (s : State) (id : Nat) : OnlyRaises s (s.writesOver id) := by
  unfold State.writesOver
  split
  · exact OnlyRaises.rfl_
  · exact ite_onlyRaises (ite_onlyRaises (State.endFrag_onlyRaises (s.updFrag id _) id) (State.updFrag_onlyRaises _ _ _))
      OnlyRaises.rfl_

theorem State.stopFrag_onlyRaises (s : State) (id : Nat) (mark : Frag → Frag) : OnlyRaises s (s.stopFrag id mark) := by
  unfold State.stopFrag
  split
  · exact OnlyRaises.rfl_
  · exact ite_onlyRaises OnlyRaises.rfl_
      (ite_onlyRaises (State.endFrag_onlyRaises (s.updFrag id _) id) (State.updFrag_onlyRaises _ _ _))

theorem State.haltEngine_onlyRaises (s : State) (e : Nat) : OnlyRaises s (s.haltEngine e) :=
  OnlyRaises.trans ((State.updEng_frame s e _).onlyRaises rfl) (OnlyRaises.foldl (fun s id => s.stopFrag_onlyRaises id _) _ _)

/-! ### Queues and instances (R224, R345, R348) -/

theorem State.qOff_onlyRaises (s : State) (g : Nat) (q : Queue) : OnlyRaises s (s.qOff g q) :=
  OnlyRaises.trans ((State.updQueue_frame s g _).onlyRaises rfl) (State.post_onlyRaises _ _ _)

theorem State.qSettled_onlyRaises (s : State) (g : Nat) : OnlyRaises s (s.qSettled g) := by
  unfold State.qSettled
  split
  · exact OnlyRaises.rfl_
  · exact ite_onlyRaises OnlyRaises.rfl_ (ite_onlyRaises (State.qOff_onlyRaises _ _ _)
      (ite_onlyRaises ((State.updQueue_frame _ _ _).onlyRaises rfl) OnlyRaises.rfl_))

theorem State.writeEnable_onlyRaises (s : State) (g : Nat) (en : Bool) : OnlyRaises s (s.writeEnable g en) := by
  have upd (u : State) (f : Queue → Queue) : OnlyRaises u (u.updQueue g f) := (State.updQueue_frame u g f).onlyRaises rfl
  unfold State.writeEnable
  split
  · exact OnlyRaises.rfl_
  · exact ite_onlyRaises OnlyRaises.rfl_ (ite_onlyRaises (upd _ _)
      (ite_onlyRaises (((upd _ _).trans (upd _ _)).trans (State.qSettled_onlyRaises _ _)) (upd _ _)))

theorem State.cutsOver_onlyRaises (s : State) (i : Nat) : OnlyRaises s (s.cutsOver i) :=
  OnlyRaises.foldl State.writesOver_onlyRaises _ _

theorem State.stopWork_onlyRaises (s : State) (i : Nat) (reset : Bool) : OnlyRaises s (s.stopWork i reset) := by
  unfold State.stopWork
  refine OnlyRaises.trans ?_ ((State.settleBegins_frame _ _).onlyRaises rfl)
  refine OnlyRaises.trans ?_ (State.cutsOver_onlyRaises _ _)
  refine OnlyRaises.trans ?_ (OnlyRaises.foldl (fun u n => ite_onlyRaises (u.chHalt_onlyRaises _ _) (u.chContain_onlyRaises _)) _ _)
  refine OnlyRaises.trans ?_ (ite_onlyRaises ((State.stopEvents_frame _ _).onlyRaises rfl) OnlyRaises.rfl_)
  refine OnlyRaises.trans ?_ (OnlyRaises.foldl (fun u p => (u.updQueue_frame _ _).onlyRaises rfl) _ _)
  exact OnlyRaises.trans ((State.updInst_frame s i _).onlyRaises rfl) ((State.discard_frame _ _ _).onlyRaises rfl)

theorem State.contain_onlyRaises (s : State) (i : Nat) : OnlyRaises s (s.contain i) :=
  ite_onlyRaises (State.stopWork_onlyRaises (s.updInst i _) _ _) OnlyRaises.rfl_

/-! ### Actions (R408, R409) -/

theorem State.stopUnit_onlyRaises (s : State) (d : Detection) : OnlyRaises s (s.stopUnit d) := by
  have ch (n : Nat) : OnlyRaises s (if n < 512 && !s.inReset (s.chan n).owner then s.chStop (Fin.ofNat 512 n) else s) :=
    ite_onlyRaises (State.chHalt_onlyRaises _ _ _) OnlyRaises.rfl_
  have pur : OnlyRaises s s.haltPurser := (State.haltPurser_frame s).onlyRaises rfl
  unfold State.stopUnit
  dsimp only
  split
  · exact State.haltEngine_onlyRaises _ _
  · exact State.writeEnable_onlyRaises _ _ _
  · exact ch _
  · exact pur
  · exact ite_onlyRaises pur (ite_onlyRaises OnlyRaises.rfl_ (ite_onlyRaises (ch _) (State.writeEnable_onlyRaises _ _ _)))
  · exact OnlyRaises.rfl_

theorem State.act_onlyRaises (s : State) (d : Detection) (cls : Nat) : OnlyRaises s (s.act d cls) := by
  have pur : OnlyRaises s s.haltPurser := (State.haltPurser_frame s).onlyRaises rfl
  unfold State.act
  refine ite_onlyRaises pur (ite_onlyRaises OnlyRaises.rfl_ ?_)
  split
  · split
    · exact State.contain_onlyRaises _ _
    · exact OnlyRaises.rfl_
  · exact State.stopUnit_onlyRaises _ _
  · exact pur
  · exact OnlyRaises.rfl_

end Sys2Proof.Machine
end

section
/-! PROOFS. One detection of an event source (R411, R412, R417 to R422, R434, R445). -/

namespace Sys2Proof.Machine

open Sys2Proof

/-! ### What a bus clock finds (R411) -/

/-- One detection is all that the collector finds: no source is injected, and no other condition is present. -/
structure State.Sole (s : State) (d : Detection) : Prop where
  collects : s.collects = true
  waiting  : s.flt.waiting = []
  used     : d.source < 80
  event    : srcLevel d.source = false
  present  : d.present = true
  noEvent  : s.injEvent = none
  noHeld   : s.injHeld = none
  kept     : s.written 0x4830 = none

/-- The find of a real detection that no injected one coincides with. -/
def realFind (d : Detection) : Find := { source := d.source, reals := [d], inj := false }

/-- Its report (R411, R412). -/
def State.report (s : State) (d : Detection) : Report := { d, cls := s.effClass d false, inj := false, real := true }

theorem State.Sole.findOf {s : State} {d : Detection} (h : s.Sole d) (k : Nat) :
    s.findOf [d] k = if k = d.source then some (realFind d) else none := by
  by_cases hk : k = d.source
  · subst hk
    simp [State.findOf, realFind, h.event, h.present, h.noEvent]
  · have hother : (d.source == k) = false := by simpa using Ne.symm hk
    cases hl : srcLevel k <;> simp [State.findOf, hl, hother, hk, h.noEvent, h.noHeld]

/-- One number of a range has an image. -/
theorem filterMap_range_single {α : Type} {a n : Nat} (h : a < n) (x : α) :
    (List.range n).filterMap (fun k => if k = a then some x else none) = [x] := by
  have hnone : ∀ m ≤ a, (List.range m).filterMap (fun k => if k = a then some x else none) = [] := fun m hm =>
    List.filterMap_eq_nil_iff.2 fun k hk => if_neg (by have := List.mem_range.1 hk; omega)
  induction n with
  | zero => omega
  | succ n ih =>
    rw [List.range_succ, List.filterMap_append]
    by_cases hn : a = n
    · rw [hnone n (by omega)]
      simp [hn]
    · rw [ih (by omega)]
      simp [Ne.symm hn]

theorem State.Sole.finds {s : State} {d : Detection} (h : s.Sole d) : (List.range 80).filterMap (s.findOf [d]) = [realFind d] := by
  rw [funext h.findOf]
  exact filterMap_range_single h.used _

/-! ### The sources' own registers, CORR and the alarm (R414, R417, R430, R434) -/

/-- Changes of the registers of several sources leave those of every other. -/
theorem State.foldl_updSrc (f : State → Nat → Src → Src) (l : List Nat) (s : State) :
    ∃ srcs, l.foldl (fun s k => s.updSrc k (f s k)) s = { s with flt := { s.flt with srcs } } ∧
      ∀ k ∉ l, tabGet { sev := srcDefault k } srcs k = s.src k := by
  induction l generalizing s with
  | nil => exact ⟨_, rfl, fun _ _ => rfl⟩
  | cons j l ih =>
    obtain ⟨srcs, hs, hk⟩ := ih (s.updSrc j (f s j))
    refine ⟨srcs, hs, fun k hn => ?_⟩
    obtain ⟨hkj, hkl⟩ := not_or.1 (mt List.mem_cons.2 hn)
    rw [hk k hkl, State.src, State.updSrc, tabGet_tabSet, if_neg hkj]
    rfl

/-- A level source after the changes of a bus clock: the units at which its condition holds, and LIVE (R417, R438). -/
def State.levelAfter (s : State) (ds : List Detection) (k : Nat) (x : Src) : Src :=
  let us := levelUnits x.units (ds.filter (fun d => d.source == k))
  { x with units := us, live := !us.isEmpty || s.injHeld == some k }

/-- The level sources whose condition holds or moves on this bus clock; its end moves none (R411, R417). -/
def State.levelsMoved (s : State) (ds : List Detection) : List Nat :=
  if s.clk.ending then []
  else (List.range 80).filter (fun k => srcLevel k && ((s.src k).live || s.injHeld == some k || ds.any (fun d => d.source == k)))

theorem State.not_mem_levelsMoved (s : State) (ds : List Detection) {k : Nat} (h : srcLevel k = false) : k ∉ s.levelsMoved ds := by
  unfold State.levelsMoved
  split
  · exact List.not_mem_nil
  · simp [h]

/-- What has been detected waits no more, and GO is taken back (R411, R436). -/
def State.clockTaken (s : State) : State :=
  { s with
    flt := { s.flt with waiting := s.flt.waiting.filter (fun d => !s.detectsNow d) }
    clk := { s.clk with ending := false }
    glb := { s.glb with injGo := s.glb.injGo && (s.injEvent.isNone || ((s.written 0x400100).filter (fun v => bit v 0)).isSome) } }

theorem State.afterClock_levels (s : State) (ds : List Detection) : s.afterClock ds =
    ((s.levelsMoved ds).foldl (fun s k => s.updSrc k (s.levelAfter ds k)) s).clockTaken := rfl

/-- The bus clock changes registers of level sources alone, what waits, and GO (R417, R436). -/
theorem State.afterClock_eq (s : State) (ds : List Detection) :
    ∃ srcs w clk glb, s.afterClock ds = { s with flt := { s.flt with srcs, waiting := w }, clk, glb } ∧
      clk.wrote = s.clk.wrote ∧ ∀ k, srcLevel k = false → tabGet { sev := srcDefault k } srcs k = s.src k := by
  obtain ⟨srcs, hs, hk⟩ := State.foldl_updSrc (fun s k => s.levelAfter ds k) (s.levelsMoved ds) s
  rw [State.afterClock_levels, hs]
  exact ⟨srcs, _, _, _, rfl, rfl, fun k hl => hk k (s.not_mem_levelsMoved ds hl)⟩

/-- The registers of its source after a detection (R414, R417, R418). -/
def Src.detected (x : Src) (r : Report) : Src :=
  { x with count := satAdd 16 x.count 1, last := r.cls, latched := true, injd := r.inj && !r.real, live := true }

/-- CORR counts a detection of class Corrected (R430), if no write of this bus clock overrules it (R22). -/
def State.corrected (s : State) (cls : Nat) : State :=
  if cls = 1 then s.unlessWritten 0x4830 (fun s => { s with flt := { s.flt with corr := satAdd 32 s.flt.corr 1 } }) else s

theorem State.corrected_eq (s : State) (cls : Nat) : ∃ corr, s.corrected cls = { s with flt := { s.flt with corr } } := by
  unfold State.corrected State.unlessWritten
  split
  · split
    · exact ⟨_, rfl⟩
    · exact ⟨_, rfl⟩
  · exact ⟨_, rfl⟩

/-- The alarm after a detection of a class (R434). -/
def Collector.alarmed (c : Collector) (cls : Nat) : Collector :=
  { c with
    min := if c.alarmMinclass ≤ cls then 128 else c.min
    held := if c.alarmMinclass ≤ cls then true else c.held }

/-- The alarm is held from its class on, and a wake event with it (R434, R477). -/
def State.alarmed (s : State) (cls : Nat) : State :=
  if s.flt.alarmMinclass ≤ cls then
    ({ s with flt := { s.flt with min := 128, held := true } }.noteSet 0x4848 1).wakeBy .fault
  else s

theorem Power.wokenBy_flags (p : Power) (c : WakeCause) :
    (p.wokenBy c).fatal = p.fatal ∧ (p.wokenBy c).lockdown = p.lockdown := by
  unfold Power.wokenBy
  split
  · exact ⟨rfl, rfl⟩
  · exact ⟨rfl, rfl⟩
  · split
    · exact ⟨rfl, rfl⟩
    · exact ⟨rfl, rfl⟩
  · exact ⟨rfl, rfl⟩

theorem State.alarmed_eq (s : State) (cls : Nat) : ∃ clk pwr, s.alarmed cls = { s with flt := s.flt.alarmed cls, clk, pwr } ∧
    clk.wrote = s.clk.wrote ∧ pwr.fatal = s.pwr.fatal ∧ pwr.lockdown = s.pwr.lockdown := by
  unfold State.alarmed Collector.alarmed
  by_cases ha : s.flt.alarmMinclass ≤ cls
  · simp only [if_pos ha, State.wakeBy_eq]
    exact ⟨_, _, rfl, rfl, s.pwr.wokenBy_flags _⟩
  · simp only [if_neg ha]
    exact ⟨_, _, rfl, rfl, rfl, rfl⟩

/-- A detection in the registers of its source, in CORR and in the alarm (R414, R430, R434). -/
theorem State.tally_eq (s : State) (r : Report) : ∃ corr clk pwr, s.tally r = { s with
      flt := { s.flt with srcs := tabSet s.flt.srcs r.d.source ((s.src r.d.source).detected r), corr }.alarmed r.cls, clk, pwr } ∧
    clk.wrote = s.clk.wrote ∧ pwr.fatal = s.pwr.fatal ∧ pwr.lockdown = s.pwr.lockdown := by
  have ht : s.tally r = (((s.updSrc r.d.source fun x => x.detected r).noteSet (srcOff r.d.source) 2).corrected r.cls).alarmed r.cls :=
    rfl
  obtain ⟨corr, hc⟩ := State.corrected_eq ((s.updSrc r.d.source fun x => x.detected r).noteSet (srcOff r.d.source) 2) r.cls
  obtain ⟨clk, pwr, ha, hclk, hpwr⟩ := State.alarmed_eq (State.corrected _ r.cls) r.cls
  rw [hc] at ha hclk hpwr
  exact ⟨corr, clk, pwr, ht.trans (by rw [hc]; exact ha), hclk, hpwr⟩

/-! ### The record (R420 to R422) -/

/-- A detection that MINCLASS lets through opens a closed record (R421). -/
theorem State.toRecord_opens {s : State} {r : Report} (ho : s.flt.open_ = false) (hm : s.flt.minclass ≤ r.cls) :
    (s.toRecord [r]).1 = s.openRecord r := by
  simp [State.toRecord, ho, hm, minBy, dropFirst, State.mergeAll]

/-- It merges into an open one (R422). -/
theorem State.toRecord_merges {s : State} {r : Report} (ho : s.flt.open_ = true) (hm : s.flt.minclass ≤ r.cls) :
    (s.toRecord [r]).1 = { s with flt := s.flt.mergeRec r } := by
  simp [State.toRecord, ho, hm, State.mergeAll, State.mergeOne]

/-- Below MINCLASS it reaches no record (R420). -/
theorem State.toRecord_below {s : State} {r : Report} (hm : r.cls < s.flt.minclass) : (s.toRecord [r]).1 = s := by
  have hnone : [r].filter (fun r => decide (s.flt.minclass ≤ r.cls)) = [] := by simpa using hm
  unfold State.toRecord
  rw [hnone]
  cases s.flt.open_ <;> rfl

/-- Whatever the record does, the sources and the alarm are as before. -/
theorem State.toRecord_rest (s : State) (r : Report) : (s.toRecord [r]).1.flt.srcs = s.flt.srcs ∧
    (s.toRecord [r]).1.flt.min = s.flt.min ∧ (s.toRecord [r]).1.flt.held = s.flt.held := by
  by_cases hm : s.flt.minclass ≤ r.cls
  · cases ho : s.flt.open_ with
    | false =>
      rw [State.toRecord_opens ho hm]
      exact ⟨rfl, rfl, rfl⟩
    | true =>
      rw [State.toRecord_merges ho hm]
      exact ⟨rfl, rfl, rfl⟩
  · rw [State.toRecord_below (Nat.lt_of_not_le hm)]
    exact ⟨rfl, rfl, rfl⟩

/-! ### The action (R408, R445, R447) -/

theorem State.act_lockdown (s : State) (d : Detection) : (s.act d 5).pwr.lockdown = true := rfl

theorem State.act_fatal {s : State} (h : s.isolated = false) (d : Detection) : (s.act d 4).pwr.fatal = true := by
  simp [State.act, h]

theorem State.act_below {s : State} {d : Detection} {cls : Nat} (h : cls < 4) : (s.act d cls).pwr = s.pwr := by
  unfold State.act
  rw [if_neg (by omega)]
  split
  · rfl
  · split
    · split
      · exact (State.contain_frame _ _).get .pwr rfl
      · rfl
    · exact (State.stopUnit_frame _ _).get .pwr rfl
    · omega
    · rfl

/-! ### The bus clock of a sole detection -/

/-- The block once its collector has told of the detection: the source, the alarm and the record. -/
def State.told (s : State) (d : Detection) : State := ((s.afterClock [d]).tally (s.report d)).toRecord [s.report d] |>.1

/-- The block once it has also acted on it. -/
def State.acted (s : State) (d : Detection) : State :=
  (((s.told d).viewAll [(d, s.effClass d false, true)]).repair d).act d (s.effClass d false)

theorem State.Sole.detect_eq {s : State} {d : Detection} (h : s.Sole d) : ∃ ns : List Notice,
    s.detect [d] = (ns.foldl (fun s n => s.notice n.inst n.code n.load) (s.acted d)).viewNotices s := by
  unfold State.detect
  rw [h.collects, if_neg (by decide), h.waiting]
  simp only [List.filter_nil, List.nil_append, h.finds]
  exact ⟨_, rfl⟩

theorem State.viewNotices_onlyRaises (s before : State) : OnlyRaises s (s.viewNotices before) :=
  OnlyRaises.foldl (fun u i => OnlyRaises.trans (⟨_, rfl⟩ : OnlyRaises u (u.updInst i _)) (State.notice_onlyRaises _ _ _ _)) _ _

/-- Views, repairs, actions and notices leave the record, the sources and the alarm as they were told. -/
theorem State.Sole.onlyRaises {s : State} {d : Detection} (h : s.Sole d) : OnlyRaises (s.told d) (s.detect [d]) := by
  obtain ⟨ns, hd⟩ := h.detect_eq
  rw [hd]
  have hview := (State.viewAll_frame (s.told d) [(d, s.effClass d false, true)]).onlyRaises rfl
  have hrepair := (State.repair_frame ((s.told d).viewAll [(d, s.effClass d false, true)]) d).onlyRaises rfl
  have hact : OnlyRaises (s.told d) (s.acted d) := (hview.trans hrepair).trans (State.act_onlyRaises _ _ _)
  exact (hact.trans (OnlyRaises.foldl (fun u n => u.notice_onlyRaises _ _ _) ns _)).trans (State.viewNotices_onlyRaises _ _)

theorem State.Sole.detect_pwr {s : State} {d : Detection} (h : s.Sole d) : (s.detect [d]).pwr = (s.acted d).pwr := by
  obtain ⟨ns, hd⟩ := h.detect_eq
  rw [hd]
  have hnotices : Frame [.flt, .insts] (s.acted d) (ns.foldl (fun s n => s.notice n.inst n.code n.load) (s.acted d)) :=
    Frame.foldl (fun u n => u.notice_frame _ _ _) Frame.refl
  exact (hnotices.trans (State.viewNotices_frame _ _)).get .pwr rfl

/-- The source, CORR and the alarm after the bus clock: an event source is told apart from the level sources, whose conditions the
bus clock moves (R417). -/
theorem State.Sole.tally_eq {s : State} {d : Detection} (h : s.Sole d) : ∃ srcs w corr clk glb pwr,
    (s.afterClock [d]).tally (s.report d) = { s with
      flt := { s.flt with srcs, waiting := w, corr }.alarmed (s.effClass d false), clk, glb, pwr } ∧
    clk.wrote = s.clk.wrote ∧ pwr.fatal = s.pwr.fatal ∧ pwr.lockdown = s.pwr.lockdown ∧
    tabGet { sev := srcDefault d.source } srcs d.source = (s.src d.source).detected (s.report d) ∧
    ∀ k, srcLevel k = false → k ≠ d.source → tabGet { sev := srcDefault k } srcs k = s.src k := by
  obtain ⟨srcs, w, clk, glb, ha, hclk, hsrcs⟩ := s.afterClock_eq [d]
  obtain ⟨corr, clk', pwr, ht, hclk', hfatal, hlock⟩ := State.tally_eq (s.afterClock [d]) (s.report d)
  rw [ha] at ht hclk' hfatal hlock
  rw [ha]
  refine ⟨_, w, corr, clk', glb, pwr, ht, hclk'.trans hclk, hfatal, hlock, ?_, fun k hl hk => ?_⟩
  · refine (tabGet_tabSet_same ..).trans ?_
    exact congrArg (Src.detected · (s.report d)) (hsrcs d.source h.event)
  · exact (tabGet_tabSet_other _ _ _ _ _ hk).trans (hsrcs k hl)

/-! ### What the collector tells -/

theorem State.Sole.src_told {s : State} {d : Detection} (h : s.Sole d) (k : Nat) (hk : srcLevel k = false) :
    (s.told d).src k = if k = d.source then (s.src d.source).detected (s.report d) else s.src k := by
  obtain ⟨srcs, w, corr, clk, glb, pwr, ht, -, -, -, hown, hother⟩ := h.tally_eq
  rw [State.src, State.told, (State.toRecord_rest _ _).1, ht]
  split
  · rename_i he
    rw [he]
    exact hown
  · rename_i hne
    exact hother k hk hne

theorem State.Sole.alarm_told {s : State} {d : Detection} (h : s.Sole d) :
    (s.told d).flt.min = (s.flt.alarmed (s.effClass d false)).min ∧
      (s.told d).flt.held = (s.flt.alarmed (s.effClass d false)).held := by
  obtain ⟨srcs, w, corr, clk, glb, pwr, ht, -⟩ := h.tally_eq
  rw [State.told, (State.toRecord_rest _ _).2.1, (State.toRecord_rest _ _).2.2, ht]
  exact ⟨rfl, rfl⟩

theorem State.Sole.pwr_told {s : State} {d : Detection} (h : s.Sole d) :
    (s.told d).pwr.fatal = s.pwr.fatal ∧ (s.told d).pwr.lockdown = s.pwr.lockdown := by
  obtain ⟨srcs, w, corr, clk, glb, pwr, ht, -, hfatal, hlock, -⟩ := h.tally_eq
  rw [State.told, show (State.toRecord _ _).1.pwr = _ from (State.toRecord_frame _ _).get .pwr rfl, ht]
  exact ⟨hfatal, hlock⟩

/-- The record that a detection opens (R421). -/
def State.opened (s : State) (d : Detection) (c : Collector) : Collector :=
  { c with
    open_ := true, source := d.source, fcls := s.effClass d false, cls := s.effClass d false, inj := false, real := true
    glass := s.bell.glass % 65536, merged := 0, minj := false, sec0 := 0, sec1 := 0, attr := s.attrWord d.attr
    detail := d.detail, records := satAdd 32 s.flt.records 1 }

/-- The record is as before when the detection comes to it. -/
theorem State.Sole.untold {s : State} {d : Detection} (h : s.Sole d) :
    ((s.afterClock [d]).tally (s.report d)).flt.open_ = s.flt.open_ ∧
      ((s.afterClock [d]).tally (s.report d)).flt.minclass = s.flt.minclass := by
  obtain ⟨srcs, w, corr, clk, glb, pwr, ht, -⟩ := h.tally_eq
  rw [ht]
  exact ⟨rfl, rfl⟩

theorem State.Sole.opens {s : State} {d : Detection} (h : s.Sole d) (ho : s.flt.open_ = false)
    (hm : s.flt.minclass ≤ s.effClass d false) : ∃ c, (s.told d).flt = s.opened d c := by
  obtain ⟨hopen, hmin⟩ := h.untold
  obtain ⟨srcs, w, corr, clk, glb, pwr, ht, hwrote, -⟩ := h.tally_eq
  have hkept : (clk.wrote.find? fun p => p.1 == 0x4830).map (·.2) = none := by
    rw [hwrote]
    exact h.kept
  rw [State.told, State.toRecord_opens (hopen.trans ho) (Nat.le_trans (Nat.le_of_eq hmin) hm), ht]
  refine ⟨{ s.flt with srcs, waiting := w, corr }.alarmed (s.effClass d false), ?_⟩
  simp only [State.openRecord, State.written, hkept]
  rfl

theorem State.Sole.merges {s : State} {d : Detection} (h : s.Sole d) (ho : s.flt.open_ = true)
    (hm : s.flt.minclass ≤ s.effClass d false) : ∃ srcs w corr, (s.told d).flt =
      ({ s.flt with srcs, waiting := w, corr }.alarmed (s.effClass d false)).mergeRec (s.report d) := by
  obtain ⟨hopen, hmin⟩ := h.untold
  obtain ⟨srcs, w, corr, clk, glb, pwr, ht, -⟩ := h.tally_eq
  rw [State.told, State.toRecord_merges (hopen.trans ho) (Nat.le_trans (Nat.le_of_eq hmin) hm), ht]
  exact ⟨srcs, w, corr, rfl⟩

theorem State.Sole.below {s : State} {d : Detection} (h : s.Sole d) (hm : s.effClass d false < s.flt.minclass) :
    ∃ srcs w corr, (s.told d).flt = { s.flt with srcs, waiting := w, corr }.alarmed (s.effClass d false) := by
  obtain ⟨srcs, w, corr, clk, glb, pwr, ht, -⟩ := h.tally_eq
  rw [State.told, State.toRecord_below (Nat.lt_of_lt_of_eq hm h.untold.2.symm), ht]
  exact ⟨srcs, w, corr, rfl⟩

/-- A merged detection sets its source's bit in FREC_SEC (R422). -/
theorem bit_sec_mergeRec (c : Collector) (r : Report) :
    bit (if r.d.source < 64 then (c.mergeRec r).sec0 else (c.mergeRec r).sec1) (r.d.source % 64) = true := by
  have hbit : bit (BitVec.ofNat 64 (2 ^ (r.d.source % 64))) (r.d.source % 64) = true := by
    rw [bit, BitVec.testBit_toNat, BitVec.getLsbD_ofNat, Nat.testBit_two_pow_self, Bool.and_true]
    exact decide_eq_true (Nat.mod_lt _ (by decide))
  by_cases h : r.d.source < 64
  · simp only [Collector.mergeRec, if_pos h, bit_or, hbit, Bool.or_true]
  · simp only [Collector.mergeRec, if_neg h, bit_or, hbit, Bool.or_true]

/-! ### Fatal and Lockdown -/

/-- The power registers as the action finds them. -/
theorem State.Sole.pwr_acts {s : State} {d : Detection} (h : s.Sole d) : ∃ u : State, s.acted d = u.act d (s.effClass d false) ∧
    u.pwr.fatal = s.pwr.fatal ∧ u.pwr.lockdown = s.pwr.lockdown := by
  have hpwr : (((s.told d).viewAll [(d, s.effClass d false, true)]).repair d).pwr = (s.told d).pwr :=
    ((State.repair_frame _ _).get .pwr rfl).trans ((State.viewAll_frame _ _).get .pwr rfl)
  refine ⟨_, rfl, ?_⟩
  rw [hpwr]
  exact h.pwr_told

/-- Settles O57: the collector tells of the detection (`State.told`: its source, the alarm, and the record that it opens, merges into
or does not reach), and what follows only acts (`State.Sole.onlyRaises`, `State.Sole.detect_pwr`). -/
theorem detectionsAreReported : Obligations.DetectionsAreReported := by
  unfold Obligations.DetectionsAreReported
  intro s d cls hcol hwait hused hevent hpresent hnoev hnoheld hkept hcls
  have h : s.Sole d := ⟨hcol, hwait, hused, hevent, hpresent, hnoev, hnoheld, hkept⟩
  obtain ⟨w, hw⟩ := h.onlyRaises
  obtain ⟨u, hu, hfatal, hlock⟩ := h.pwr_acts
  rw [← hcls] at hu
  have hsrc (k : Nat) : (s.detect [d]).src k = (s.told d).src k := by
    rw [State.src, State.src, hw]
  have hown := (hsrc d.source).trans ((h.src_told d.source hevent).trans (if_pos rfl))
  obtain ⟨hmin, hheld⟩ := h.alarm_told
  rw [← hcls] at hmin hheld
  refine ⟨s.detect [d], rfl, by rw [hown]; rfl, by rw [hown, hcls]; rfl, by rw [hown]; rfl, by rw [hown]; rfl, by rw [hown]; rfl,
    fun k _ hl hk => (hsrc k).trans ((h.src_told k hl).trans (if_neg hk)), fun ho hm => ?_, fun ho hm => ?_, fun hm => ?_,
    fun ha => ?_, fun ha => ?_, fun h5 => ?_, fun h4 hi => ?_, fun hlt => ?_, (s.detect_frame [d]).get .hold rfl⟩
  · obtain ⟨c, hc⟩ := h.opens ho (hcls ▸ hm)
    rw [hw, hc, hcls]
    exact ⟨rfl, rfl, rfl, rfl, rfl, rfl, rfl, rfl, rfl, rfl, rfl, rfl, rfl, rfl⟩
  · obtain ⟨srcs, w', corr, hc⟩ := h.merges ho (hcls ▸ hm)
    rw [hw, hc, hcls]
    exact ⟨ho, rfl, rfl, rfl, rfl, rfl, rfl, rfl, rfl, bit_sec_mergeRec _ (s.report d)⟩
  · obtain ⟨srcs, w', corr, hc⟩ := h.below (hcls ▸ hm)
    rw [hw, hc]
    exact ⟨rfl, rfl, rfl, rfl, rfl, rfl⟩
  · rw [hw]
    exact ⟨hmin.trans (if_pos ha), hheld.trans (if_pos ha)⟩
  · rw [hw]
    exact ⟨hmin.trans (if_neg (Nat.not_le.2 ha)), hheld.trans (if_neg (Nat.not_le.2 ha))⟩
  · rw [h.detect_pwr, hu, h5]
    exact u.act_lockdown d
  · rw [h.detect_pwr, hu, h4]
    exact State.act_fatal (by rw [State.isolated, hfatal, hlock]; exact hi) d
  · rw [h.detect_pwr, hu, State.act_below hlt]
    exact ⟨hfatal, hlock⟩

end Sys2Proof.Machine
end

section
/-! PROOFS. From the quiescence point to low power and back to RUN (R465, R466, R474 to R478). -/

namespace Sys2Proof.Machine

open Sys2Proof

/-! ### Entry (R465, R466, R476) -/

/-- The quiescence point of an entry that has nothing left to do (R476). -/
theorem doQuiesce_entering {s : State} (hup : s.up = true) (hp : s.pwr.phase = .entering) (hq : s.pwr.quiesced = false)
    (hn : s.quiescent = true) :
    doQuiesce s = { s with pwr := { s.pwr with quiesced := true, waitFrom := s.now, held := none } } := by
  simp [doQuiesce, hup, hp, hq, hn]

/-- Work that is left defers the quiescence point (R476). -/
theorem doQuiesce_of_not_quiescent {s : State} (h : s.quiescent = false) : doQuiesce s = s := by
  simp [doQuiesce, h]

/-- Past the quiescence point the first slow edge, or the 32,000th bus clock, is the entry edge (R465). -/
theorem doEntryEdge_enters {s : State} {edge : Bool} (hw : s.entryWait = true)
    (he : edge = true ∨ s.pwr.waitFrom + 32000 ≤ s.now) :
    doEntryEdge edge s = { s with pwr := { s.pwr with
      phase := if s.pwr.target = 2 then .sleep else .doze, timeHeld := true, noedge := !edge, lowAt := s.now, edges := 0
      ran := s.counting } } := by
  rw [doEntryEdge, if_pos (by simpa [hw] using he)]

/-- A slow edge after the entry edge and before the wake's end is counted (R466). -/
theorem doEntryEdge_counts {s : State} (hp : s.isPresent = true) (hph : s.pwr.phase ≠ .entering) (ht : s.pwr.timeHeld = true)
    (hx : s.pwr.exitWait = false) : doEntryEdge true s = { s with pwr := { s.pwr with edges := s.pwr.edges + 1 } } := by
  have hw : s.entryWait = false := by simp [State.entryWait, hph]
  simp [doEntryEdge, hw, hp, ht, hx]

/-! ### Wake events (R474, R477) -/

theorem lowestCause_some (d c : WakeCause) : lowestCause (some d) c = if wakeCode d ≤ wakeCode c then d else c := by
  cases d <;> cases c <;> rfl

/-- Every cause reaches a working block; a flit does so on a port whose LINKUP is high (R60, R477). -/
theorem doWake_of_up {s : State} (hup : s.up = true) {c : WakeCause} {port : Nat}
    (hl : c = .fabric → (s.fab port).linkup = true) : doWake c port s = s.wakeBy c := by
  obtain ⟨hp, hi⟩ : s.isPresent = true ∧ s.isolated = false := by simpa [State.up] using hup
  cases c with
  | pin => simp [doWake, hp, hi]
  | fabric => simp [doWake, hp, hi, hl rfl]
  | register => simp [doWake, hp]
  | fault => simp [doWake, hp]

/-- In DOZE and SLEEP the lowest cause of the bus clock is kept (R474). -/
theorem doWake_asleep {s : State} (hup : s.up = true) (hp : s.pwr.phase = .doze ∨ s.pwr.phase = .sleep) {c : WakeCause}
    {port : Nat} (hl : c = .fabric → (s.fab port).linkup = true) :
    doWake c port s = { s with pwr := { s.pwr with woke := some (lowestCause s.pwr.woke c) } } := by
  rw [doWake_of_up hup hl, State.wakeBy_eq, Power.wokenBy_lowest hp]

/-! ### The wake's end (R478) -/

/-- A relation that every value has to what a change makes of it holds of the values read before and after all that are listed have
changed, if the value of an unlisted key has it to itself. -/
theorem tabGet_map_rel {α : Type} {d : α} {g : α → α} {R : α → α → Prop} (hd : R d d) (hg : ∀ v, R v (g v))
    (t : List (Nat × α)) (k : Nat) : R (tabGet d t k) (tabGet d (t.map (fun p => (p.1, g p.2))) k) := by
  induction t with
  | nil => exact hd
  | cons p t ih =>
    simp only [List.map_cons, tabGet]
    split
    · exact hg p.2
    · exact ih

theorem State.eng_clearHolds (s : State) (e : Nat) :
    s.clearHolds.eng e = { s.eng e with halted := false, clearing := false } :=
  tabGet_map ({} : Eng) s.engs (fun _ (x : Eng) => { x with halted := false, clearing := false }) e rfl

/-- A clear that goes on changes when it began, not whether an engine is halted or clearing. -/
theorem State.eng_clearsGoOn (s : State) (e : Nat) :
    (s.clearsGoOn.eng e).halted = (s.eng e).halted ∧ (s.clearsGoOn.eng e).clearing = (s.eng e).clearing :=
  tabGet_map_rel (d := ({} : Eng)) (g := fun x => { x with clearAt := s.now - (s.pwr.lowAt - x.clearAt) })
    (R := fun x y => y.halted = x.halted ∧ y.clearing = x.clearing) ⟨rfl, rfl⟩ (fun _ => ⟨rfl, rfl⟩) s.engs e

/-- The wake's end after a stay in which nothing was written that RUN must still do, and with no level to sample. -/
theorem doWakeComplete_nil {s : State} (hp : s.isPresent = true) (hw : s.pwr.phase = .waking) (hl : s.pwr.later = []) :
    doWakeComplete [] s = (if s.pwr.target = 2 then s.clearHolds else s).clearsGoOn.reachRun := by
  simp [doWakeComplete, hp, hw, hl]

/-- Settles O20: the point is `doQuiesce_entering`, the edges `doEntryEdge_enters` and `doEntryEdge_counts`, a wake event
`doWake_asleep`, and the wake's end `doWakeComplete_nil`, with the engines of `eng_clearHolds` and `eng_clearsGoOn`. -/
theorem lowPowerAndBack : Obligations.LowPowerAndBack := by
  unfold Obligations.LowPowerAndBack
  intro s hup
  have hp : s.isPresent = true := (Bool.and_eq_true_iff.1 hup).1
  refine ⟨fun hph hq hn => congrArg Host.Outcome.next (doQuiesce_entering hup hph hq hn),
    fun hn => congrArg Host.Outcome.next (doQuiesce_of_not_quiescent hn),
    fun edge hph hq hx he => congrArg Host.Outcome.next (doEntryEdge_enters (by simp [State.entryWait, hp, hph, hq, hx]) he),
    fun hph ht hx => congrArg Host.Outcome.next (doEntryEdge_counts hp hph ht hx),
    fun c port hph hl hw => ?_, fun c d port hph hl hw => ?_, fun hph hlater => ?_⟩
  · have hlow : lowestCause s.pwr.woke c = c := by
      rcases hw with hw | hw <;> simp [hw, lowestCause]
    refine congrArg Host.Outcome.next ((doWake_asleep hup hph hl).trans ?_)
    rw [hlow]
  · refine congrArg Host.Outcome.next ((doWake_asleep hup hph hl).trans ?_)
    rw [hw, lowestCause_some]
  · refine ⟨_, congrArg Host.Outcome.next (doWakeComplete_nil hp hph hlater), ?_⟩
    by_cases h2 : s.pwr.target = 2
    · rw [if_pos h2]
      refine ⟨rfl, rfl, rfl, rfl, rfl, rfl, fun _ => ⟨rfl, fun e => ?_⟩, fun hne => absurd h2 hne⟩
      have hkept := s.clearHolds.eng_clearsGoOn e
      rwa [s.eng_clearHolds] at hkept
    · rw [if_neg h2]
      exact ⟨rfl, rfl, rfl, rfl, rfl, rfl, fun he => absurd he h2, fun _ => ⟨rfl, s.eng_clearsGoOn⟩⟩

end Sys2Proof.Machine
end

section
/-! PROOFS. Dead reckoning at the exit edge (R466 to R471). -/

namespace Sys2Proof.Machine

open Sys2Proof

/-! ### The exit edge -/

theorem State.bell_makeUpBell {s : State} (h : s.bell.running = true) (e : Nat) : (s.makeUpBell e).bell = s.bell.makeUp e := by
  simp [State.makeUpBell, h]

theorem State.atExit_pwr (s : State) (slow x : Nat) (edge : Bool) : (s.atExit slow x edge).pwr =
    { s.pwr with timeHeld := false, exitWait := false, edges := 0, ran := [] } := by
  have hpwr : (s.makeUpBell (x / 128)).pwr = s.pwr := (State.makeUpBell_frame s _).get .pwr rfl
  simp only [State.atExit, hpwr]

theorem State.atExit_tmr (s : State) (slow x : Nat) (edge : Bool) : (s.atExit slow x edge).tmr =
    { s.tmr with
      slow := min slow (2 ^ 40 - 1), frac := x % 128, sat := decide (2 ^ 40 - 1 < slow), noedge := s.pwr.noedge || !edge
      made := BitVec.ofNat 64 (x / 128) } := by
  have hpwr : (s.makeUpBell (x / 128)).pwr = s.pwr := (State.makeUpBell_frame s _).get .pwr rfl
  have htmr : (s.makeUpBell (x / 128)).tmr = s.tmr := (State.makeUpBell_frame s _).get .tmr rfl
  simp only [State.atExit, hpwr, htmr]

theorem State.atExit_bell (s : State) (slow x : Nat) (edge : Bool) :
    (s.atExit slow x edge).bell = (s.makeUpBell (x / 128)).bell := by
  simp only [State.atExit]

/-! ### The end of the stay -/

/-- The exit edge after `slow` slow edges: counters, captures, bell and registers made up (R466 to R471); `seen` says that an
edge came in time. -/
def State.leavesStay (s : State) (slow : Nat) (seen : Bool) (caps : BitVec 8) : State :=
  (s.caughtUp (s.stay slow / 128) caps).atExit slow (s.stay slow) seen

section

variable (s : State) (slow : Nat) (seen : Bool) (caps : BitVec 8)

theorem State.leavesStay_frame : Frame [.clk, .pwr, .bell, .gls, .tmr, .queues] s (s.leavesStay slow seen caps) :=
  ((s.caughtUp_frame _ caps).grow (by decide)).trans (State.atExit_frame _ _ _ _)

theorem State.leavesStay_pwr :
    (s.leavesStay slow seen caps).pwr = { s.pwr with timeHeld := false, exitWait := false, edges := 0, ran := [] } := by
  rw [State.leavesStay, State.atExit_pwr, (s.caughtUp_frame _ caps).get .pwr rfl]

/-- DR_STAT and DR_MADE (R471) are those of the stay, whatever the counters are made up to. -/
theorem State.leavesStay_tmr : (s.leavesStay slow seen caps).tmr =
    { (s.caughtUp (s.stay slow / 128) caps).tmr with
      slow := min slow (2 ^ 40 - 1), frac := s.stay slow % 128, sat := decide (2 ^ 40 - 1 < slow), noedge := s.pwr.noedge || !seen
      made := BitVec.ofNat 64 (s.stay slow / 128) } := by
  rw [State.leavesStay, State.atExit_tmr, (s.caughtUp_frame _ caps).get .pwr rfl]

/-- The bell goes on by the bus clocks made up (R469). -/
theorem State.leavesStay_bell (h : s.bell.running = true) :
    (s.leavesStay slow seen caps).bell = s.bell.makeUp (s.stay slow / 128) := by
  have hbell : (s.caughtUp (s.stay slow / 128) caps).bell = s.bell := (s.caughtUp_frame _ caps).get .bell rfl
  rw [State.leavesStay, State.atExit_bell, State.bell_makeUpBell (by rw [hbell]; exact h), hbell]

end

/-- The exit edge, or the 32,000th bus clock without one, ends the stay; a stay with no slow edge is reported as SCLK_FAIL
(R466, R467). -/
theorem doReckoning_eq {s : State} {edge : Bool} (hp : s.isPresent = true) (hx : s.pwr.exitWait = true)
    (he : edge = true ∨ s.pwr.exitFrom + 32000 ≤ s.now) (edges : Nat) (caps : BitVec 8) {n : Nat}
    (hn : n = s.pwr.edges + edges + (if edge then 1 else 0)) :
    doReckoning edges edge caps s =
      { s.leavesStay n (edge && decide (s.now ≤ s.pwr.exitFrom + 32000)) caps with
        flt := if n = 0 then (s.raise 7 0 0 none).flt else s.flt } := by
  subst hn
  have hends : (!s.isPresent || !s.pwr.exitWait || !(edge || decide (s.pwr.exitFrom + 32000 ≤ s.now))) = false := by
    rcases he with he | he <;> simp [hp, hx, he]
  have hflt (slow : Nat) (seen : Bool) : (s.leavesStay slow seen caps).flt = s.flt :=
    (s.leavesStay_frame slow seen caps).get .flt rfl
  have hcase (slow : Nat) (seen : Bool) :
      (if slow = 0 then (s.leavesStay slow seen caps).raise 7 0 0 none else s.leavesStay slow seen caps) =
        { s.leavesStay slow seen caps with flt := if slow = 0 then (s.raise 7 0 0 none).flt else s.flt } := by
    split
    · rw [State.raise, hflt]
      rfl
    · rw [← hflt slow seen]
  rw [← hcase, doReckoning, hends]
  rfl

/-- A stay with no slow edge makes up no bus clock beyond the remainder (R467). -/
theorem State.stay_zero (s : State) : s.stay 0 = s.tmr.frac := by simp [State.stay]

/-- Settles O21: the stay's end is `doReckoning_eq`, and what it leaves of each part the `leavesStay` lemmas. -/
theorem deadReckoningMakesUpTheTime : Obligations.DeadReckoningMakesUpTheTime := by
  unfold Obligations.DeadReckoningMakesUpTheTime
  intro s edges edge caps n e hp hx hedge hn he
  change e = s.stay n / 128 at he
  have hrun := doReckoning_eq hp hx hedge edges caps hn
  generalize (edge && decide (s.now ≤ s.pwr.exitFrom + 32000)) = seen at hrun ⊢
  have hframe := s.leavesStay_frame n seen caps
  have htmr := s.leavesStay_tmr n seen caps
  rw [← he] at htmr
  refine ⟨_, congrArg Host.Outcome.next hrun, by rw [htmr], by rw [htmr]; rfl, by rw [htmr], by rw [htmr], by rw [htmr],
    s.leavesStay_pwr n seen caps, fun hb => ?_, fun h0 => ⟨fun hfrac => ?_, ?_⟩, fun h0 => if_neg h0,
    hframe.get .insts rfl, hframe.get .chans rfl, hframe.get .hold rfl⟩
  · rw [s.leavesStay_bell n seen caps hb, ← he]
    exact ⟨rfl, rfl, rfl⟩
  · rw [h0, s.stay_zero, Nat.div_eq_of_lt hfrac] at he
    rw [htmr, he]
    rfl
  · simp only [if_pos h0]
    exact ⟨_, List.mem_append_right _ (List.mem_singleton_self _), rfl⟩

end Sys2Proof.Machine
end

section
/-! PROOFS. The state after reset, and the factory values (R485, R489). -/

namespace Sys2Proof.Machine

open Sys2Proof

/-- Settles O3: after reset every table and the hold are empty, and every source has the SEV of its default. -/
theorem resetIsCanonical : Obligations.ResetIsCanonical :=
  ⟨Memory.nil_wf, List.Pairwise.nil, List.Pairwise.nil, List.Pairwise.nil, List.Pairwise.nil, List.Pairwise.nil,
    List.Pairwise.nil, List.Pairwise.nil, List.Pairwise.nil, List.Pairwise.nil, srcFloor_le_default⟩

/-- Settles O60: a bus clock keeps the factory values (`tick_keeps`), and so does every command but the power, the resets and step
FUSE (`exec_keeps`), which the hypothesis keeps from the front of the queue. -/
theorem factoryValuesStay : Obligations.FactoryValuesStay := by
  unfold Obligations.FactoryValuesStay
  intro s t h hq
  rcases step_cases h with ⟨-, rfl⟩ | ⟨c, rest, hp, h⟩
  · exact (tick_keeps Keeps.rfl_).fuses
  · obtain ⟨hfall, hporst, hrst, hfuse⟩ := hq rest
    have hc : takesBack c = false := by
      cases c with
      | pgoodFall => exact absurd hp hfall
      | powerOnReset => exact absurd hp hporst
      | blockReset => exact absurd hp hrst
      | fuse f g ok => exact absurd hp (hfuse f g ok)
      | _ => rfl
    exact (exec_keeps (s := { s with pending := rest }) hc h).fuses

end Sys2Proof.Machine
end

section
/-! PROOFS. Writes of PWR_CTL.TARGET (R474 to R477). -/

namespace Sys2Proof.Machine

open Sys2Proof

/-- A block that works does what a write says, and the write is a wake event (R477). -/
theorem State.portWrite_up {s : State} (hup : s.up = true) (ha : s.answersAbsent = false) (inFatal : Bool) (f : State → State) :
    s.portWrite inFatal f = ((f s).wakeBy .register).answered := by
  obtain ⟨-, hf, hl⟩ : s.isPresent = true ∧ s.pwr.fatal = false ∧ s.pwr.lockdown = false := by
    simpa [State.up, State.isolated] using hup
  simp [State.portWrite, ha, hf, hl, State.answered]

theorem State.taking_of_awake {s : State} (hup : s.up = true) (ha : s.answersAbsent = false) (hw : s.pwr.awake = true) :
    s.taking = true := by
  obtain ⟨hp, hi⟩ : s.isPresent = true ∧ s.isolated = false := by simpa [State.up] using hup
  exact s.taking_iff.2 ⟨hp, hi, ha, hw⟩

/-- A write of TARGET to a block that is awake only sets the registers that the entry needs (R475). -/
theorem State.portWrite_target {s : State} (hup : s.up = true) (ha : s.answersAbsent = false) (hw : s.pwr.awake = true) (n : Nat) :
    s.portWrite false (fun s => s.writeTarget n) = (s.writeTarget n).answered :=
  State.portWrite_taking (State.taking_of_awake hup ha hw) false (State.writeTarget_awake hw n)

/-! ### RUN (R475, R476) -/

/-- The entry into low power begins: log cache entries are queued for flushing and polls not issued are given up. -/
theorem State.writeTarget_run_low {s : State} (h : s.pwr.phase = .run) {k : Nat} (hk : k = 1 ∨ k = 2) : s.writeTarget k =
    { s with
      pwr := { s.pwr with phase := .entering, target := k, quiesced := false, held := none }
      logc := (s.queueLines fun _ => true).logc
      queues := s.queues.map fun q => (q.1, { q.2 with waiting := false }) } := by
  rcases hk with rfl | rfl <;> simp [State.writeTarget, State.targetLow, State.queueLines, h]

theorem State.writeTarget_run_zero {s : State} (h : s.pwr.phase = .run) : s.writeTarget 0 = s := by
  simp [State.writeTarget, State.targetRun, h]

/-- A change of every queue is the change of each. -/
theorem State.queue?_of_map {s t : State} {f : Queue → Queue} (h : t.queues = s.queues.map fun q => (q.1, f q.2)) (g : Nat) :
    t.queue? g = (s.queue? g).map f := by
  simp [State.queue?, h, List.find?_map, Function.comp_def]

/-! ### Before and past the quiescence point (R475, R477) -/

theorem State.writeTarget_entering_low {s : State} (h : s.pwr.phase = .entering) (hq : s.pwr.quiesced = false) {k : Nat}
    (hk : k = 1 ∨ k = 2) : s.writeTarget k = { s with pwr := { s.pwr with target := k } } := by
  rcases hk with rfl | rfl <;> simp [State.writeTarget, State.targetLow, h, hq]

theorem State.writeTarget_entering_zero {s : State} (h : s.pwr.phase = .entering) (hq : s.pwr.quiesced = false) :
    s.writeTarget 0 = { s with pwr := { s.pwr with phase := .run, target := 0 } } := by
  simp [State.writeTarget, State.targetRun, h, hq]

/-- From the quiescence point to the end of the wake TARGET does not change. -/
def Power.committed (p : Power) : Prop :=
  p.phase = .entering ∧ p.quiesced = true ∨ p.phase = .doze ∨ p.phase = .sleep ∨ p.phase = .waking

theorem State.writeTarget_committed {s : State} (h : s.pwr.committed) (n : Nat) : s.writeTarget n = s := by
  unfold State.writeTarget State.targetRun State.targetLow
  rcases h with ⟨h, hq⟩ | h | h | h <;> simp_all

/-- A wake event changes neither TARGET nor, on its own bus clock, the phase (R477). -/
theorem Power.wokenBy_phase (p : Power) (c : WakeCause) : (p.wokenBy c).target = p.target ∧ (p.wokenBy c).phase = p.phase := by
  unfold Power.wokenBy
  split
  · exact ⟨rfl, rfl⟩
  · exact ⟨rfl, rfl⟩
  · split
    · exact ⟨rfl, rfl⟩
    · exact ⟨rfl, rfl⟩
  · exact ⟨rfl, rfl⟩

theorem State.portWrite_target_committed {s : State} (hup : s.up = true) (ha : s.answersAbsent = false) (h : s.pwr.committed)
    (n : Nat) : (s.portWrite false (fun s => s.writeTarget n)).pwr = s.pwr.wokenBy .register := by
  rw [State.portWrite_up hup ha, State.writeTarget_committed h, State.wakeBy_eq]
  rfl

/-- Settles O19: a write of TARGET in RUN and before the quiescence point is the `State.writeTarget` of its case, and past it only
the wake event of the register port (`State.portWrite_target_committed`). -/
theorem powerTargets : Obligations.PowerTargets := by
  unfold Obligations.PowerTargets
  refine fun s hup ha => ⟨fun hr => ⟨fun c k hc => ?_, ?_⟩, fun he hq => ?_, fun hpast c hc => ?_⟩
  · have hw : s.pwr.awake = true := by simp [Power.awake, hr]
    have hexec : exec c s = .next (s.writeTarget k).answered := by
      rcases hc with ⟨rfl, rfl⟩ | ⟨rfl, rfl⟩
      · exact congrArg Host.Outcome.next (State.portWrite_target hup ha hw 1)
      · exact congrArg Host.Outcome.next (State.portWrite_target hup ha hw 2)
    refine ⟨_, hexec, ?_⟩
    rw [State.writeTarget_run_low hr (hc.imp And.right And.right)]
    exact ⟨rfl, rfl, State.queue?_of_map rfl⟩
  · refine congrArg Host.Outcome.next ((State.portWrite_target hup ha (by simp [Power.awake, hr]) 0).trans ?_)
    rw [State.writeTarget_run_zero hr]
  · have hwrite (n : Nat) := State.portWrite_target hup ha (by simp [Power.awake, he, hq]) n
    refine ⟨congrArg Host.Outcome.next ((hwrite 1).trans ?_), congrArg Host.Outcome.next ((hwrite 2).trans ?_),
      congrArg Host.Outcome.next ((hwrite 0).trans ?_)⟩
    · rw [State.writeTarget_entering_low he hq (.inl rfl)]
    · rw [State.writeTarget_entering_low he hq (.inr rfl)]
    · rw [State.writeTarget_entering_zero he hq]
  · have hexec : ∃ n, exec c s = .next (s.portWrite false fun s => s.writeTarget n) := by
      rcases hc with rfl | rfl | rfl
      · exact ⟨1, rfl⟩
      · exact ⟨2, rfl⟩
      · exact ⟨0, rfl⟩
    obtain ⟨n, hexec⟩ := hexec
    refine ⟨_, hexec, ?_⟩
    rw [State.portWrite_target_committed hup ha hpast]
    exact s.pwr.wokenBy_phase _

end Sys2Proof.Machine
end

section
/-! PROOFS. Step FUSE (R485, R488, R489). -/

namespace Sys2Proof.Machine

open Sys2Proof

/-- A block at step FUSE whose bus clock is at its end: from there to its FAULT_DETECTION the collector takes only what the bell, the
timers, the sensors and the register port have found on it (R411). -/
def fuseAtClockEnd : State :=
  { State.reset with pwr := { State.reset.pwr with step := 1 }, clk := { State.reset.clk with ending := true } }

/-- A fuse copy that programs nothing. -/
def unprogrammedFuses : Fuses := { cal0 := 0, cal1 := 0, cal2 := 0, cal3 := 0, sec := 0, key0 := zeros 48, key1 := zeros 48 }

/-- FUSE_ERR is no condition of the bus clock itself, so at its end the mismatch waits and Lockdown does not begin. -/
theorem doFuse_fuseAtClockEnd :
    (doFuse unprogrammedFuses unprogrammedFuses false fuseAtClockEnd).pwr.lockdown = false ∧
      (doFuse unprogrammedFuses unprogrammedFuses false fuseAtClockEnd).flt.waiting.any (fun d => d.source == 76) = true := by
  decide

/-- Refutes O11: the mismatch is detected in its own step only if `clk.ending` is false, which the statement does not ask: at
`fuseAtClockEnd` a failed check leaves the block out of Lockdown (`doFuse_fuseAtClockEnd`). -/
theorem not_fuseLoadsOrLocksDown : ¬ Obligations.FuseLoadsOrLocksDown := by
  unfold Obligations.FuseLoadsOrLocksDown
  intro h
  obtain ⟨-, hmismatch, -⟩ := h fuseAtClockEnd unprogrammedFuses unprogrammedFuses false
  obtain ⟨t, ht, hlock, -⟩ := hmismatch (by decide) (by decide) (by decide)
  cases ht
  rw [doFuse_fuseAtClockEnd.1] at hlock
  cases hlock

end Sys2Proof.Machine
end

section
/-! PROOFS. Self-trims, user offsets, the temperature and the recheck of the code (R474, R483 to R487, R493). -/

namespace Sys2Proof.Machine

open Sys2Proof

/-- Entry j of a list with one entry for each of the first n numbers. -/
theorem getD_map_range {α : Type} (f : Nat → α) (d : α) {n j : Nat} (h : j < n) : ((List.range n).map f).getD j d = f j := by
  simp [List.getD, h]

/-! ### The self-trim (R483, R484) -/

/-- The sensor after a correction of the comparator whose turn it is. -/
def Droop.trimmed (d : Droop) (c : Int) : Droop :=
  { d with
    bells := 0, turn := (d.turn + 1) % 6
    trims := (List.range 6).map fun j => d.trims.getD j 0 + if j = d.turn then clamp (-2) 2 c else 0
    round := if d.turn == 5 then 0 else larger d.round c
    drift := if d.turn == 5 then larger d.round c else d.drift }

theorem Droop.trims_trimmed (d : Droop) (c : Int) {j : Nat} (h : j < 6) :
    (d.trimmed c).trims.getD j 0 = d.trims.getD j 0 + if j = d.turn then clamp (-2) 2 c else 0 :=
  getD_map_range _ _ h

/-- A correction that the range cuts short is reported (R484). -/
theorem doSelfTrim_due {s : State} (hr : s.droopRuns = true) (hf : s.frozen = false) (hb : 4096 ≤ s.droop.bells) (c : Int) :
    doSelfTrim c s = { s with
      droop := s.droop.trimmed c, flt := if 2 < c.natAbs then (s.raise 71 0 0 none).flt else s.flt } := by
  have hdue : (!s.droopRuns || s.frozen || decide (s.droop.bells < 4096)) = false := by simp [hr, hf, hb]
  rw [doSelfTrim, hdue, if_neg Bool.false_ne_true]
  split <;> rfl

/-! ### The user offsets (R486, R487) -/

/-- The calibration with CAL_OFSk written: only the bits that hold fields are kept. -/
def Droop.withOfs (d : Droop) (k : Nat) (v : Word) : Droop :=
  { d with ofs := (List.range 4).map fun j => if j = k then v &&& calMask k else wordAt d.ofs j }

theorem Droop.wordAt_withOfs (d : Droop) (k : Nat) (v : Word) {j : Nat} (h : j < 4) :
    wordAt (d.withOfs k v).ofs j = if j = k then v &&& calMask k else wordAt d.ofs j :=
  getD_map_range _ _ h

/-- A write that is taken; one that the range of a field cuts short is reported once the fuses are loaded (R486). -/
theorem State.writeOfs_taken {s : State} {k : Nat} (h : k < 2 ∨ s.pwr.step = 3) (v : Word) : s.writeOfs k v =
    { s with
      droop := s.droop.withOfs k v
      flt := if s.droop.loaded && (s.droop.withOfs k v).clamps [k] then (s.raise 75 0 0 none).flt else s.flt } := by
  rw [State.writeOfs, if_neg (by omega)]
  change (if s.droop.loaded && (s.droop.withOfs k v).clamps [k] then _ else _) = _
  split <;> rfl

/-- Words 2 and 3 are written in IMAGE_WAIT only (R487). -/
theorem State.writeOfs_late {s : State} {k : Nat} (hk : 2 ≤ k) (h : s.pwr.step ≠ 3) (v : Word) : s.writeOfs k v = s := by
  rw [State.writeOfs, if_pos ⟨hk, h⟩]

theorem State.calOfsWrite_taking {s : State} (h : s.taking = true) (k : Fin 4) (v : Word) :
    exec (.calOfsWrite k v) s = .next (s.writeOfs k.val v).answered :=
  congrArg Host.Outcome.next (State.portWrite_taking_of_pwr h false ((State.writeOfs_frame s _ v).get .pwr rfl))

/-! ### The temperature (R413, R474) -/

/-- The level source of 105 °C begins or ends (R413). -/
def warmDetection (present : Bool) : Detection :=
  { source := 73, attr := { kind := 0, unit := 0, inst := none }, detail := 0, xcause := none, present }

/-- The event of 125 °C, TEMP_CRIT (R413). -/
def critDetection : Detection :=
  { source := 74, attr := { kind := 0, unit := 0, inst := none }, detail := 0, xcause := none, present := true }

/-- What a change of the temperature brings to the collector: the level source as 105 °C is crossed, and the event as the temperature
rises past 125 °C. -/
def tempFinds (was now : Int) : List Detection :=
  (if (decide (105 < was)) != decide (105 < now) then [warmDetection (105 < now)] else []) ++
    if 125 < now ∧ ¬ 125 < was then [critDetection] else []

theorem doTemp_eq {s : State} (h : s.droopRuns = true) (x : BitVec 8) : doTemp x s =
    { s with
      pwr := { s.pwr with temp := x }
      flt := { s.flt with waiting := s.flt.waiting ++ tempFinds s.pwr.temp.toInt x.toInt } } := by
  unfold doTemp tempFinds
  rw [h, if_neg (by decide)]
  dsimp only
  split <;> split <;> simp [State.raise, State.level, warmDetection, critDetection]

theorem critDetection_mem_tempFinds {was now : Int} (hn : 125 < now) (hw : ¬ 125 < was) : critDetection ∈ tempFinds was now := by
  simp [tempFinds, hn, hw]

/-! ### The recheck of the code (R493) -/

theorem doRecheck_due {s : State} (hp : s.isPresent = true) (hk : s.pwr.clocked = true) (h7 : s.pwr.step = 7)
    (hb : 65536 ≤ s.droop.recheck) (same : Bool) : doRecheck same s =
      { s with
        droop := { s.droop with recheck := 0 }
        flt := if same then s.flt else (s.raise 48 4 0 none (s.purDetail 0)).flt } := by
  have hdue : (!s.isPresent || !s.pwr.clocked || s.pwr.step != 7 || decide (s.droop.recheck < 65536)) = false := by
    simp [hp, hk, h7, hb]
  rw [doRecheck, hdue, if_neg Bool.false_ne_true]
  cases same <;> rfl

/-- Settles O23: a self-trim is `doSelfTrim_due`, a write of an offset `State.writeOfs_taken` or `State.writeOfs_late`, a sample of
the temperature `doTemp_eq`, and a recheck `doRecheck_due`. -/
theorem trimsAndSamples : Obligations.TrimsAndSamples := by
  unfold Obligations.TrimsAndSamples
  intro s hr
  have hp : s.isPresent = true := (Bool.and_eq_true_iff.1 hr).1
  refine ⟨fun c hf hb _ => ?_, fun k v ht hk => ?_, fun k v ht hk h3 => ?_, fun x => ?_, fun same h7 hclk hb => ?_⟩
  · refine ⟨_, congrArg Host.Outcome.next (doSelfTrim_due hr hf hb c), rfl, rfl, fun j hj => s.droop.trims_trimmed c hj,
      fun h => ?_, fun h => if_neg (by omega), rfl⟩
    simp only [if_pos h, State.waiting_raise, List.length_append, List.length_singleton]
  · refine ⟨_, State.calOfsWrite_taking ht k v, ?_⟩
    rw [State.writeOfs_taken hk]
    refine ⟨(s.droop.wordAt_withOfs _ v k.isLt).trans (if_pos rfl), fun j hj hne => ?_, rfl, rfl, fun hl => if_neg (by simp [hl])⟩
    exact (s.droop.wordAt_withOfs _ v hj).trans (if_neg hne)
  · rw [State.calOfsWrite_taking ht, State.writeOfs_late hk h3]
  · refine ⟨_, congrArg Host.Outcome.next (doTemp_eq hr x), rfl, rfl, fun hx hw =>
      ⟨critDetection, List.mem_append_right _ (critDetection_mem_tempFinds hx hw), rfl, rfl⟩⟩
  · refine ⟨_, congrArg Host.Outcome.next (doRecheck_due hp hclk h7 hb same), rfl, rfl, fun h => if_pos h, fun h => ?_⟩
    subst h
    exact ⟨_, List.mem_append_right _ (List.mem_singleton_self _), rfl⟩

end Sys2Proof.Machine
end

section
/-! PROOFS. What a step runs. -/

namespace Sys2Proof.Machine

open Sys2Proof

/-- A command that its port can carry runs on the rest of the queue. -/
theorem step_of_wf {s : State} {c : Instr} {rest : List Instr} (hp : s.pending = c :: rest) (hc : c.wf = true) :
    step s = exec c { s with pending := rest } := by
  simp only [step, hp, if_pos hc]

/-- A command that no port can carry is refused, whatever the state (log entry 9). -/
theorem step_of_not_wf {s : State} {c : Instr} {rest : List Instr} (hp : s.pending = c :: rest) (hc : c.wf = false) :
    step s = .refused .illFormed := by
  simp only [step, hp, hc, if_neg Bool.false_ne_true]

/-- A step on an empty queue is one bus clock (log entry 3). -/
theorem step_of_pending_nil {s : State} (hp : s.pending = []) : step s = .next (tick s) := by
  simp only [step, hp]

/-- Settles O1: the queue is empty or has a front command, well-formed or not, and `step` has one equation for each. -/
theorem stepRunsTheFrontCommand : Obligations.StepRunsTheFrontCommand := by
  unfold Obligations.StepRunsTheFrontCommand
  intro s c rest
  exact ⟨step_of_wf, step_of_not_wf, step_of_pending_nil⟩

end Sys2Proof.Machine
end

section
/-! PROOFS. An isolated block's queues, channels, engines, instances and fragments (R106, R418, R419, R443, R445, R447). -/

namespace Sys2Proof.Machine

open Sys2Proof

/-! ### The units as a part of the state -/

/-- The parts of State that hold the units of R445. -/
def unitParts : List Part := [.frags, .insts, .queues, .chans, .engs]

/-- The units stay as they are. -/
def UnitsStay (s t : State) : Prop := ∀ p ∈ unitParts, p.same s t

theorem UnitsStay.refl {s : State} : UnitsStay s s := fun p _ => p.same_refl s

theorem UnitsStay.trans {s t u : State} (h : UnitsStay s t) (g : UnitsStay t u) : UnitsStay s u :=
  fun p hp => p.same_trans (h p hp) (g p hp)

/-- A change of other parts leaves the units. -/
theorem Frame.unitsStay {ps : List Part} {s t : State} (h : Frame ps s t)
    (hp : unitParts.all (fun p => !ps.contains p) = true) : UnitsStay s t :=
  fun p hm => h.get p (by simpa using List.all_eq_true.1 hp p hm)

theorem Keeps.isolated {s t : State} (h : Keeps s t) (hi : s.isolated = true) : t.isolated = true := by
  simp only [State.isolated, Bool.or_eq_true] at hi ⊢
  exact hi.imp h.fatal h.lockdown

theorem State.not_up_of_isolated {s : State} (h : s.isolated = true) : s.up = false := by
  simp [State.up, h]

/-! ### Commands that wait for a block that works -/

section
variable {s : State} (h : s.up = false)
include h

theorem State.newWork_of_not_up : s.newWork = false := by simp [State.newWork, h]
theorem State.issues_of_not_up : s.issues = false := by simp [State.issues, h]
theorem State.purRuns_of_not_up : s.purRuns = false := by simp [State.purRuns, h]
theorem State.receives_of_not_up : s.receives = false := by simp [State.receives, h]
theorem State.polls_of_not_up : s.polls = false := by simp [State.polls, h]
theorem State.pollsRun_of_not_up : s.pollsRun = false := by simp [State.pollsRun, h]
theorem State.lostDue_of_not_up (i : Nat) : s.lostDue i = false := by simp [State.lostDue, h]
theorem State.atStep_of_not_up (n : Nat) : s.atStep n = false := by simp [State.atStep, h]
theorem State.onCmd_of_not_up (op : Nat) (kind : Nat → Bool) (f : Cmd → State → State) : s.onCmd op kind f = s := by
  simp [State.onCmd, State.running, State.purRuns_of_not_up h]

end

/-- The commands that change nothing of a block that is absent or isolated. -/
def needsUp : Instr → Bool
  | .fuse _ _ _ | .meminit _ | .load | .verify | .fwinit _ => true
  | .dispatchAssign _ | .admission _ | .fragmentWriteStart _ _ | .writeDataAccept _ _ | .manifestRecordRead _ _ => true
  | .chartRead _ | .engineClearDone _ | .pollDue _ | .pollIssue | .completionOverwrite _ | .eventRecordWrite _ => true
  | .lostRecord _ | .msiWrite _ | .levelCrossing _ _ | .linkFetch _ | .chLinkTmo _ | .commandStart => true
  | .queryVersions | .queryInstance | .queryPool | .instCreate | .instRemove | .instReset | .instSuspend | .instResume => true
  | .shareSet | .qCreate | .qResize | .qDestroy | .qReadCtx | .qStrictGrant | .qStrictRevoke | .chBind | .chUnbind => true
  | .logCtlOn | .logCtlOff | .logCtlFlush | .planLoad | .planCancel | .adminInit | .commandCompletion => true
  | .purCmdTmo | .purWdog | .settleEnd _ | .settleTmo _ _ | .contained _ | .ccInvDone | .logFlush | .logSwapDone => true
  | .rdReq _ | .wrReq _ | .inboundResponse _ | .rdRsp _ | .wrRsp _ | .busyReissue _ _ | .remoteTimeout => true
  | .arbiterGrant _ _ | .strayMessage _ | .quiescencePoint => true
  | _ => false

theorem exec_of_not_up {c : Instr} {s : State} (hc : needsUp c = true) (h : s.up = false) : exec c s = .next s := by
  cases c with
  | fuse | meminit | verify | fwinit =>
    simp [exec, execFuse, doFuse, execMeminit, doMeminit, execVerify, doVerify, execFwinit, doFwinit, State.atStep_of_not_up h]
  | load =>
    simp only [exec, execLoad, doLoad]
    split <;> simp [State.atStep_of_not_up h]
  | dispatchAssign | admission | fragmentWriteStart | writeDataAccept | chartRead | pollIssue | lostRecord | levelCrossing
  | commandStart | engineClearDone | chLinkTmo | settleEnd | contained | logFlush | rdReq | wrReq | rdRsp | wrRsp
  | remoteTimeout | arbiterGrant | strayMessage | quiescencePoint | commandCompletion | purWdog | linkFetch =>
    simp [exec, execDispatchAssign, doDispatch, execAdmission, doAdmission, execFragmentWriteStart, doWriteStart,
      execWriteDataAccept, doWriteData, execChartRead, doChartRead, execPollIssue, doPollIssue, execLostRecord,
      execLevelCrossing, doLevel, execCommandStart, doCommandStart, execEngineClearDone, doClearDone, execChLinkTmo,
      doLinkTmo, execSettleEnd, doSettleEnd, execContained, doContained, execLogFlush, doLogFlush, execRdReq, execWrReq,
      State.inRequest, execRdRsp, execWrRsp, State.inResponse, execRemoteTimeout, doRemoteTimeout, execArbiterGrant, doGrant,
      execStrayMessage, doStray, execQuiescencePoint, doQuiesce, execCommandCompletion, doCompletion, execPurWdog,
      execLinkFetch, doLinkFetch, h, State.newWork_of_not_up h, State.issues_of_not_up h, State.purRuns_of_not_up h,
      State.receives_of_not_up h, State.polls_of_not_up h, State.lostDue_of_not_up h]
  | queryVersions | queryInstance | queryPool | instCreate | instRemove | instReset | instSuspend | instResume | shareSet
  | qCreate | qResize | qDestroy | qReadCtx | qStrictGrant | qStrictRevoke | chBind | chUnbind | logCtlOn | logCtlOff
  | logCtlFlush | planLoad | planCancel | adminInit => exact congrArg Host.Outcome.next (State.onCmd_of_not_up h _ _ _)
  | manifestRecordRead | pollDue | completionOverwrite | eventRecordWrite | msiWrite | purCmdTmo | settleTmo | ccInvDone
  | logSwapDone | inboundResponse | busyReissue =>
    simp only [exec, execManifestRecordRead, doRecRead, execPollDue, State.pollDue, execCompletionOverwrite, doOverwrite,
      execEventRecordWrite, doRecordWrite, execMsiWrite, doMsi, execPurCmdTmo, doCmdTmo, execSettleTmo, doSettleTmo,
      execCcInvDone, doCcDone, execLogSwapDone, doSwapDone, execInboundResponse, doInbResponse, execBusyReissue, doReissue,
      h, State.newWork_of_not_up h, State.issues_of_not_up h, State.pollsRun_of_not_up h]
    repeat' split
    all_goals simp_all
  | _ => cases hc

/-! ### Commands whose parts hold no unit -/

/-- Whether a block works is a matter of its power registers (R60). -/
theorem State.up_congr {s t : State} (h : t.pwr = s.pwr) : t.up = s.up := by
  simp only [State.up, State.isPresent, State.isolated, h]

/-- What Fatal lets software write are registers of the collector (R445). -/
theorem State.writeReg_fatalReg {r : Reg} (h : fatalReg r = true) (s : State) (v : Word) :
    Frame [.clk, .flt] s (s.writeReg r v) := by
  have hw : s.writeReg r v = s.writeTime r v := by cases r <;> first | rfl | cases h
  rw [hw]
  cases r with
  | frecCtl => exact (State.writeFrecCtl_frame s v).grow (by decide)
  | fltSrc k => exact (State.writeSrc_frame s k v).grow (by decide)
  | fltCnt | alarmCtl | alarmStat | fltRoute =>
    intro p hp
    cases p <;> first | rfl | exact absurd (by decide) hp
  | _ => cases h

/-- What the register port shows is no unit. -/
theorem State.answered_units (s : State) : UnitsStay s s.answered := fun p hp => by
  cases p <;> first | rfl | exact absurd hp (by decide)

/-- A write that the register port takes leaves the units of an isolated block (R445, R447). -/
theorem State.portWrite_units {s : State} (hi : s.isolated = true) (inFatal : Bool) (f : State → State)
    (hf : inFatal = true → UnitsStay s (f s)) : UnitsStay s (s.portWrite inFatal f) := by
  have hwake (u : State) : UnitsStay u (u.wakeBy .register) := (State.wakeBy_frame u _).unitsStay rfl
  have hin : UnitsStay s (if s.pwr.lockdown || (s.pwr.fatal && !inFatal) then s else f s) := by
    split
    · exact .refl
    · rename_i hn
      obtain ⟨hl, hfat⟩ : s.pwr.lockdown = false ∧ (s.pwr.fatal = true → inFatal = true) := by simpa using hn
      exact hf (hfat (by simpa [State.isolated, hl] using hi))
  unfold State.portWrite
  dsimp only
  split
  · exact (s.portDone_frame 0).unitsStay rfl
  · exact (hin.trans (hwake _)).trans (State.answered_units _)

theorem State.regWrite_units {s : State} (hi : s.isolated = true) (off : Nat) (v : Word) : UnitsStay s (s.regWrite off v) := by
  cases hr : regAt off with
  | none =>
    rw [State.regWrite_of_none hr]
    exact State.portWrite_units hi _ _ fun _ => .refl
  | some r =>
    rw [State.regWrite_of_some hr]
    exact State.portWrite_units hi _ _ fun hf => (State.writeReg_fatalReg hf s v).unitsStay rfl

/-- The rows that are a write leave the units of an isolated block. -/
theorem write_units {c : Instr} {s t : State} (hw : isWrite c = true) (hi : s.isolated = true) (h : exec c s = .next t) :
    UnitsStay s t := by
  by_cases hreg : ∃ off v, c = .registerWrite off v
  · obtain ⟨off, v, rfl⟩ := hreg
    cases h
    exact State.regWrite_units hi _ v
  by_cases hclose : ∃ n, c = .frecClose n
  · obtain ⟨n, rfl⟩ := hclose
    cases h
    refine State.portWrite_units hi true _ fun _ => Frame.unitsStay (ps := [.flt]) (fun p hp => ?_) rfl
    unfold State.closeRecord
    split <;> cases p <;> first | rfl | exact absurd (by decide) hp
  obtain ⟨inFatal, f, he, hf⟩ := exec_write hw
  have ht : t = s.portWrite inFatal f := by simpa [he] using h.symm
  subst ht
  refine State.portWrite_units hi inFatal f fun hin => ?_
  rcases hf hin with rfl | hc | ⟨off, v, r, hc, -, -⟩
  · exact .refl
  · exact absurd hc hclose
  · exact absurd ⟨off, v, hc⟩ hreg

/-- A read beat of an isolated block only frees its slot (R64, R154). -/
theorem State.beat_units {s : State} (h : s.up = false) (c : Nat) (b : RBeat) : UnitsStay s (s.beat c b) := by
  have hs : s.beatSeen c b = s := by simp [State.beatSeen, h]
  unfold State.beat
  dsimp only
  rw [hs]
  split
  · split
    · exact Frame.unitsStay (State.updPort_frame _ _ _) rfl
    · exact .refl
  · split
    · rw [if_neg (by simp [h])]
      exact .refl
    · rw [if_pos (by simp [h])]
      exact Frame.unitsStay (State.beatSlot_frame _ _ _ _ _) rfl

/-- So does an acknowledgement (R64). -/
theorem doWriteAck_units {s : State} (h : s.up = false) (c : Nat) (tag : Tag) (stat : BitVec 2) :
    UnitsStay s (doWriteAck c tag stat s) := by
  unfold doWriteAck
  dsimp only
  split
  · exact Frame.unitsStay (State.updPort_frame _ _ _) rfl
  · rw [if_pos (by simp [h])]
    exact Frame.unitsStay (State.updPort_frame _ _ _) rfl

/-- The change of a link's level: nothing that waits is given up while no work goes on (R359). -/
theorem doLinkup_units {s : State} (h : s.up = false) (f : Nat) (up : Bool) : UnitsStay s (doLinkup f up s) := by
  have hlevel (u : State) (k : Nat) (p : Bool) : UnitsStay u (u.level k 5 f p) := Frame.unitsStay (State.level_frame _ _ _ _ _) rfl
  have hend (u v : State) (hu : u.pwr = s.pwr) (hs : UnitsStay s u) : UnitsStay s (if (up || !u.up) = true then u else v) := by
    rw [if_pos (by simp [State.up_congr hu, h])]
    exact hs
  have hfab (g : FPort → FPort) : UnitsStay s (s.updFab f g) := Frame.unitsStay (State.updFab_frame _ _ _) rfl
  unfold doLinkup
  dsimp only
  split
  · exact hfab _
  · split
    · exact hend _ _ rfl ((hfab _).trans (hlevel _ _ _))
    · exact hend _ _ rfl (hfab _)

/-- The exit edge moves the due times of polls in a block that works alone (R466). -/
theorem State.atExit_units {s : State} (h : s.up = false) (slow x : Nat) (edge : Bool) : UnitsStay s (s.atExit slow x edge) := by
  have hmade := State.makeUpBell_frame s (x / 128)
  have hup : (s.makeUpBell (x / 128)).up = false := (State.up_congr (hmade.get .pwr rfl)).trans h
  have hqueues : (s.makeUpBell (x / 128)).queues = s.queues := hmade.get .queues rfl
  intro p hp
  cases p with
  | queues => simp [Part.same, State.atExit, hup, hqueues]
  | frags | insts | chans | engs => exact (State.atExit_frame s slow x edge).get _ rfl
  | _ => exact absurd hp (by decide)

theorem doReckoning_units {s : State} (h : s.up = false) (edges : Nat) (edge : Bool) (caps : BitVec 8) :
    UnitsStay s (doReckoning edges edge caps s) := by
  have hcaught (e : Nat) := State.caughtUp_frame s e caps
  have hstay (e slow x : Nat) (seen : Bool) : UnitsStay s ((s.caughtUp e caps).atExit slow x seen) :=
    (Frame.unitsStay (hcaught e) rfl).trans (State.atExit_units ((State.up_congr ((hcaught e).get .pwr rfl)).trans h) slow x seen)
  unfold doReckoning
  dsimp only
  split
  · exact .refl
  · split
    · exact (hstay _ _ _ _).trans (Frame.unitsStay (State.raise_frame _ _ _ _ _ _ _) rfl)
    · exact hstay _ _ _ _

/-- The rows whose frame holds no unit, or whose change of units waits for a block that works. -/
theorem exec_units {c : Instr} {s t : State} (hi : s.isolated = true) (h : exec c s = .next t)
    (hc : c ≠ .pgoodFall ∧ c ≠ .powerOnReset ∧ c ≠ .blockReset)
    (hb : c ≠ .bell ∧ c ≠ .bellInEdge ∧ c ≠ .bellMiss ∧ c ≠ .bellAcquire)
    (hd : ∀ found, c ≠ .faultDetection found) (hw : ∀ levels, c ≠ .wakeComplete levels) : UnitsStay s t := by
  have hup := State.not_up_of_isolated hi
  by_cases hn : needsUp c = true
  · rw [exec_of_not_up hn hup] at h
    cases h
    exact .refl
  by_cases hwr : isWrite c = true
  · exact write_units hwr hi h
  cases c with
  | pgoodFall | powerOnReset | blockReset => simp at hc
  | bell | bellInEdge | bellMiss | bellAcquire => simp at hb
  | faultDetection found => exact absurd rfl (hd found)
  | wakeComplete levels => exact absurd rfl (hw levels)
  | resetRelease => cases h; exact Frame.unitsStay (doRelease__frame _ _) rfl
  | pgoodRise => cases h; exact Frame.unitsStay (doPgoodRise_frame _) rfl
  | absenceResponder write off v =>
    cases h
    unfold doAccess
    split
    · exact (s.portDone_frame 0).unitsStay rfl
    · split
      · exact State.regWrite_units hi _ v
      · exact Frame.unitsStay (State.portRead_frame _ _) rfl
  | rpTmo => cases h; exact Frame.unitsStay (doRpTmo_frame _ _ _) rfl
  | readBeat p b => cases h; exact State.beat_units hup p.val b
  | pollResponse p b =>
    cases h
    split
    · exact State.beat_units hup p.val b
    · exact .refl
  | writeAck p tag stat => cases h; exact doWriteAck_units hup p.val tag stat
  | linkupChange f up => cases h; exact doLinkup_units hup f.val up
  | deadReckoning edges edge caps => cases h; exact doReckoning_units hup edges edge caps
  | mpStall | fpTxStall => cases h; exact Frame.unitsStay (State.stall_frame _ _ _ _ _) rfl
  | alarmMinExpiry =>
    cases h
    split
    · intro p hp
      cases p <;> first | rfl | exact absurd hp (by decide)
    · exact .refl
  | scrubStep => cases h; exact Frame.unitsStay (doScrub_frame _ _) rfl
  | holdScrub => cases h; exact Frame.unitsStay (doHoldScrub_frame _ _) rfl
  | timerTick => cases h; exact Frame.unitsStay (doTimer_frame _ _) rfl
  | captureEdge => cases h; exact Frame.unitsStay (doCapture_frame _ _ _) rfl
  | filteredEdge => cases h; exact Frame.unitsStay (doFiltered_frame _ _ _) rfl
  | capValRead => cases h; exact Frame.unitsStay (doCapRead_frame _ _) rfl
  | debugHaltAssert | debugHaltRelease => cases h; exact Frame.unitsStay (State.setHalt_frame _ _) rfl
  | entryEdge => cases h; exact Frame.unitsStay (doEntryEdge_frame _ _) rfl
  | wakeEvent => cases h; exact Frame.unitsStay (doWake_frame _ _ _) rfl
  | droopTrip => cases h; exact Frame.unitsStay (doDroop_frame _ _ _) rfl
  | stepRise => cases h; exact Frame.unitsStay (doStepRise_frame _) rfl
  | droopSelfTrim => cases h; exact Frame.unitsStay (doSelfTrim_frame _ _) rfl
  | tempSample => cases h; exact Frame.unitsStay (doTemp_frame _ _) rfl
  | codeRecheck => cases h; exact Frame.unitsStay (doRecheck_frame _ _) rfl
  | _ => first | exact absurd rfl hn | exact absurd rfl hwr

/-! ### Detections in an isolated block (R418, R419, R443) -/

/-- Instances stay but for their fault views (R322), and fragments and engines altogether. -/
structure OnlyViews (s t : State) : Prop where
  frags : t.frags = s.frags
  engs  : t.engs = s.engs
  insts : ∀ i, (t.inst i).noView = (s.inst i).noView

theorem OnlyViews.trans {s t u : State} (h : OnlyViews s t) (g : OnlyViews t u) : OnlyViews s u :=
  ⟨g.frags.trans h.frags, g.engs.trans h.engs, fun i => (g.insts i).trans (h.insts i)⟩

theorem UnitsStay.onlyViews {s t : State} (h : UnitsStay s t) : OnlyViews s t :=
  ⟨h .frags (by decide), h .engs (by decide), fun i => by rw [State.inst, h .insts (by decide)]; rfl⟩

theorem OnlyViews.foldl {α : Type} {f : State → α → State} (hf : ∀ s x, OnlyViews s (f s x)) (l : List α) (s : State) :
    OnlyViews s (l.foldl f s) := by
  induction l generalizing s with
  | nil => exact ⟨rfl, rfl, fun _ => rfl⟩
  | cons x xs ih => exact (hf s x).trans (ih _)

theorem Frame.onlyViews {ps : List Part} {s t : State} (h : Frame ps s t)
    (hp : ([.frags, .engs, .insts] : List Part).all (fun p => !ps.contains p) = true) : OnlyViews s t := by
  simp only [List.all_cons, List.all_nil, Bool.and_true, Bool.and_eq_true, Bool.not_eq_true'] at hp
  obtain ⟨hfrags, hengs, hinsts⟩ := hp
  refine ⟨h.get .frags hfrags, h.get .engs hengs, fun i => ?_⟩
  rw [State.inst, h.get .insts hinsts]
  rfl

theorem OnlyViews.ite {p : Prop} [Decidable p] {s t u : State} (ht : OnlyViews s t) (hu : OnlyViews s u) :
    OnlyViews s (if p then t else u) := by
  split
  · exact ht
  · exact hu

theorem State.updInst_onlyViews (s : State) (i : Nat) {f : Inst → Inst} (hf : ∀ x, (f x).noView = x.noView) :
    OnlyViews s (s.updInst i f) := by
  refine ⟨rfl, rfl, fun j => ?_⟩
  rw [State.inst_updInst]
  split
  · rename_i h
    rw [h, hf]
  · rfl

theorem State.fvCount_onlyViews (s : State) (i k hi lo : Nat) : OnlyViews s (s.fvCount i k hi lo) := by
  unfold State.fvCount State.unlessWritten
  split
  · exact ⟨rfl, rfl, fun _ => rfl⟩
  · exact s.updInst_onlyViews i fun x => by split <;> rfl

theorem State.view_onlyViews (s : State) (d : Detection) (cls : Nat) : OnlyViews s (s.view d cls) := by
  have hsame (u : State) : OnlyViews u u := ⟨rfl, rfl, fun _ => rfl⟩
  have hcount (i : Nat) : OnlyViews s (s.viewCount i d) := by
    have hx : OnlyViews s (if (d.xcause.isSome && d.source != 25) || d.source == 14 || d.source == 22 then s.fvCount i 1 63 48 else s) :=
      .ite (s.fvCount_onlyViews ..) (hsame s)
    unfold State.viewCount
    dsimp only
    refine hx.trans ?_
    generalize (if (d.xcause.isSome && d.source != 25 || d.source == 14 || d.source == 22) = true then s.fvCount i 1 63 48 else s) = u
    split
    case h_6 | h_7 => exact .ite (u.fvCount_onlyViews ..) (hsame u)
    all_goals first | exact u.fvCount_onlyViews .. | exact hsame u
  unfold State.view
  split
  · exact hsame s
  · split
    · exact hsame s
    · exact (hcount _).trans (State.updInst_onlyViews _ _ fun _ => rfl)

theorem State.notice_isolated {s : State} (h : s.isolated = true) (i code : Nat) (load : List Byte) :
    s.notice i code load = s := by
  simp [State.notice, State.post, h]

theorem State.notices_isolated {s : State} (h : s.isolated = true) (ns : List Notice) :
    ns.foldl (fun s n => s.notice n.inst n.code n.load) s = s := by
  induction ns with
  | nil => rfl
  | cons n ns ih => rw [List.foldl_cons, State.notice_isolated h, ih]

theorem State.viewNotices_onlyViews {s : State} (h : s.isolated = true) (before : State) : OnlyViews s (s.viewNotices before) := by
  unfold State.viewNotices
  dsimp only
  generalize (List.filter _ s.insts).map _ = is
  have hsteps : ∀ u : State, u.isolated = true → OnlyViews u (is.foldl (fun s i =>
      (s.updInst i (fun x => { x with fview := some s.bell.glass })).notice i 0x33 (leBytes 8 (s.fvLast i).toNat)) u) := by
    induction is with
    | nil => exact fun u _ => ⟨rfl, rfl, fun _ => rfl⟩
    | cons i is ih =>
      intro u hu
      rw [List.foldl_cons, State.notice_isolated (by exact hu)]
      exact (u.updInst_onlyViews i (f := fun x => { x with fview := some u.bell.glass }) fun _ => rfl).trans (ih _ hu)
  exact hsteps s h

/-- An isolated block takes no action but that of Lockdown, which stops the Purser (R419). -/
theorem State.act_units {s : State} (h : s.isolated = true) (d : Detection) (cls : Nat) : UnitsStay s (s.act d cls) := by
  unfold State.act
  split
  · refine (Frame.unitsStay (State.haltPurser_frame s) rfl).trans fun p hp => ?_
    cases p <;> first | rfl | exact absurd hp (by decide)
  · exact .refl

/-- A repair concerns queues and channels for an uncorrectable context word alone (R443). -/
theorem State.repair_units {s : State} {d : Detection} (h : d.source ≠ 37) : UnitsStay s (s.repair d) := by
  intro p hp
  unfold State.repair
  dsimp only
  split
  · cases p <;> first | rfl | exact absurd hp (by decide)
  · rw [if_pos (by simp [h])]
    exact p.same_refl s

/-- Repairs and actions of an isolated block leave instances, engines and fragments, and queues and channels where no context word
is repaired (R419, R443). -/
theorem State.actAll_isolated {s : State} (h : s.isolated = true) (ps : List (Detection × Nat × Bool)) :
    OnlyViews s (s.actAll ps).1 ∧
      ((∀ p ∈ ps, p.2.2 = true → p.1.source ≠ 37) → (s.actAll ps).1.queues = s.queues ∧ (s.actAll ps).1.chans = s.chans) := by
  induction ps generalizing s with
  | nil => exact ⟨⟨rfl, rfl, fun _ => rfl⟩, fun _ => ⟨rfl, rfl⟩⟩
  | cons p ps ih =>
    obtain ⟨d, cls, real⟩ := p
    have hrep : OnlyViews s (if real then s.repair d else s) := by
      split
      · exact Frame.onlyViews (State.repair_frame s d) rfl
      · exact ⟨rfl, rfl, fun _ => rfl⟩
    have hiso : (if real then s.repair d else s).isolated = true := by
      split
      · exact (State.repair_keeps Keeps.rfl_ d).isolated h
      · exact h
    have hact := State.act_units hiso d cls
    obtain ⟨hrest, hkept⟩ := ih ((State.act_keeps Keeps.rfl_ d cls).isolated hiso)
    refine ⟨(hrep.trans hact.onlyViews).trans hrest, fun hd => ?_⟩
    obtain ⟨hq, hc⟩ := hkept fun p hp => hd p (List.mem_cons_of_mem _ hp)
    have hu : UnitsStay s (if real then s.repair d else s) := by
      split
      · rename_i hr
        exact State.repair_units (hd _ List.mem_cons_self hr)
      · exact .refl
    exact ⟨hq.trans ((hu.trans hact) .queues (by decide)), hc.trans ((hu.trans hact) .chans (by decide))⟩

/-- What a bus clock of the collector acts on as real are conditions that it was given or that waited (R411). -/
theorem State.mem_parts {s : State} {ds : List Detection} {k : Nat} {f : Find} {p : Detection × Nat} (hf : s.findOf ds k = some f)
    (hp : p ∈ s.parts f) (hr : f.reals.isEmpty = false) : p.1 ∈ ds := by
  have hreals : ∀ d ∈ f.reals, d ∈ ds := by
    unfold State.findOf at hf
    dsimp only at hf
    split at hf <;> split at hf <;> cases hf <;> exact fun d hd => (List.mem_filter.1 hd).1
  unfold State.parts at hp
  rw [if_neg (by simp [hr])] at hp
  obtain ⟨d, hd, rfl⟩ := List.mem_map.1 hp
  exact hreals d hd

/-- A bus clock of the collector in an isolated block (R411, R418, R419). -/
theorem State.detect_isolated {s : State} (h : s.isolated = true) (found : List Detection) :
    OnlyViews s (s.detect found) ∧
      ((∀ d ∈ s.flt.waiting, d.source ≠ 37) → (∀ d ∈ found, d.source ≠ 37) →
        (s.detect found).queues = s.queues ∧ (s.detect found).chans = s.chans) := by
  unfold State.detect
  split
  · exact ⟨⟨rfl, rfl, fun _ => rfl⟩, fun _ _ => ⟨rfl, rfl⟩⟩
  · dsimp only
    set ds := s.flt.waiting.filter s.detectsNow ++ found with hds
    set fs := (List.range 80).filterMap (s.findOf ds) with hfs
    set rs := fs.map s.reportOf
    set ps := fs.flatMap (fun f => (s.parts f).map (fun p => (p.1, p.2, !f.reals.isEmpty))) with hps
    have htally (l : List Report) (u : State) : Frame [.clk, .pwr, .flt] u (l.foldl State.tally u) :=
      Frame.foldl (fun v x => State.tally_frame v x) Frame.refl
    have hfrom : UnitsStay s ((rs.foldl State.tally (s.afterClock ds)).toRecord rs).1 :=
      ((Frame.unitsStay (State.afterClock_frame s ds) rfl).trans (Frame.unitsStay (htally _ _) rfl)).trans
        (Frame.unitsStay (State.toRecord_frame _ rs) rfl)
    have hk : Keeps s ((rs.foldl State.tally (s.afterClock ds)).toRecord rs).1 :=
      State.toRecord_keeps (Keeps.foldl (State.afterClock_keeps Keeps.rfl_ ds) fun _ x k => State.tally_keeps k x) rs
    generalize (((rs.foldl State.tally (s.afterClock ds)).toRecord rs)) = u at hfrom hk
    have hviews : OnlyViews u.1 (u.1.viewAll ps) := OnlyViews.foldl (fun v x => v.view_onlyViews _ _) _ _
    have hkv := hk.trans (State.viewAll_keeps Keeps.rfl_ ps)
    obtain ⟨hacts, hkept⟩ := State.actAll_isolated (hkv.isolated h) ps
    have hlast : ((u.1.viewAll ps).actAll ps).1.isolated = true := (State.actAll_keeps ps hkv).isolated h
    rw [State.notices_isolated hlast]
    refine ⟨((hfrom.onlyViews.trans hviews).trans hacts).trans (State.viewNotices_onlyViews hlast s), fun hw hfd => ?_⟩
    have hreal : ∀ p ∈ ps, p.2.2 = true → p.1.source ≠ 37 := by
      intro p hp hr
      obtain ⟨f, hf, hpf⟩ := List.mem_flatMap.1 hp
      obtain ⟨q, hq, rfl⟩ := List.mem_map.1 hpf
      obtain ⟨k, -, hk⟩ := List.mem_filterMap.1 hf
      rcases List.mem_append.1 (State.mem_parts hk hq (by simpa using hr)) with hm | hm
      · exact hw _ (List.mem_filter.1 hm).1
      · exact hfd _ hm
    obtain ⟨hq, hc⟩ := hkept hreal
    have hv := State.viewAll_frame u.1 ps
    have hn := State.viewNotices_frame ((u.1.viewAll ps).actAll ps).1 s
    exact ⟨(hn.get .queues rfl).trans (hq.trans ((hv.get .queues rfl).trans (hfrom .queues (by decide)))),
      (hn.get .chans rfl).trans (hc.trans ((hv.get .chans rfl).trans (hfrom .chans (by decide))))⟩

/-! ### The bell of an isolated block (R106, R445) -/

/-- Instances stay but for the shares that a plan accepted before brings (R106, R312). -/
def OnlyShares (s t : State) : Prop :=
  t.insts = s.insts ∨ ∃ p, s.led.plan = some p ∧
    t.insts = s.insts.map (fun q => (q.1, { q.2 with led := p.onShare q.1 q.2.led }))

theorem State.planTakes_insts (s : State) (p : Plan) :
    (s.planTakes p).insts = s.insts.map (fun q => (q.1, { q.2 with led := p.onShare q.1 q.2.led })) := by
  unfold State.planTakes
  dsimp only
  exact (Frame.foldl (ps := [.flt]) (fun v x => State.raise_frame v _ _ _ _ _ _) Frame.refl).get .insts rfl

theorem State.ring_shares {s : State} (h : s.up = false) (aligned : Bool) : OnlyShares s (s.ring aligned) := by
  have hring : (s.ring aligned).insts = (s.planBell ((s.bell.glass + 1) % 2 ^ 64)).insts := by
    simp only [State.ring, h, Bool.false_eq_true, if_false]
    rfl
  unfold OnlyShares
  rw [hring, State.planBell]
  split
  · rename_i p hp
    split
    · exact .inr ⟨p, hp, State.planTakes_insts s p⟩
    · exact .inl rfl
  · exact .inl rfl

theorem exec_bell_shares {c : Instr} {s t : State} (h : s.up = false)
    (hc : c = .bell ∨ c = .bellInEdge ∨ c = .bellMiss ∨ c = .bellAcquire) (he : exec c s = .next t) : OnlyShares s t := by
  have hring (b : Bell) (aligned : Bool) : OnlyShares s (State.ring { s with bell := b } aligned) :=
    State.ring_shares (s := { s with bell := b }) h aligned
  rcases hc with rfl | rfl | rfl | rfl <;> cases he
  · unfold doBell
    split
    · exact .inl rfl
    · split
      · exact hring s.bell false
      · split
        · exact hring s.bell false
        · exact .inl rfl
  · unfold doEdge
    dsimp only
    repeat' split
    all_goals first | exact .inl rfl | exact hring _ _
  · have htell (u : State) (lost : Bool) (hu : OnlyShares s u) : OnlyShares s (u.tellMiss lost) := by
      unfold OnlyShares
      rw [(State.tellMiss_frame u lost).get .insts rfl]
      exact hu
    unfold doMiss
    dsimp only
    split
    · exact .inl rfl
    · split
      · exact htell _ _ (hring _ _)
      · split
        · exact htell _ _ (.inl rfl)
        · exact .inl rfl
  · unfold doAcquire
    dsimp only
    repeat' split
    all_goals first | exact .inl rfl | exact hring _ _

/-! ### The end of a wake, and the bus clock -/

/-- The end of a wake of an isolated block leaves all units but the engines (R478). -/
theorem doWakeComplete_isolated {s : State} (h : s.up = false) (levels : List (Fin 512 × BitVec 12)) :
    Frame [.pwr, .bell, .engs, .hold] s (doWakeComplete levels s) ∧ (s.pwr.phase ≠ .waking → doWakeComplete levels s = s) := by
  unfold doWakeComplete
  constructor
  · dsimp only
    split
    · rw [h, if_neg Bool.false_ne_true]
      have hholds : Frame [.pwr, .bell, .engs, .hold] s (if s.pwr.target = 2 then s.clearHolds else s) := by
        split
        · exact (State.clearHolds_frame s).grow (by decide)
        · exact Frame.refl
      exact (hholds.trans ((State.clearsGoOn_frame _).grow (by decide))).trans ((State.reachRun_frame _).grow (by decide))
    · exact Frame.refl
  · intro hp
    rw [if_neg (by simp [hp])]

/-- A bus clock of an isolated block leaves the units (R445). -/
theorem tick_units {s : State} (h : s.isolated = true) : UnitsStay s (tick s) := by
  have hpending (u : State) (l : List Instr) (c : Clock) : UnitsStay u { u with pending := l, clk := c } := fun p hp => by
    cases p <;> first | rfl | exact absurd hp (by decide)
  have hk : Keeps s s.clocks.pulsesEnd.bellClock.publish.wakeClock :=
    State.wakeClock_keeps (State.publish_keeps (State.bellClock_keeps (State.pulsesEnd_keeps (State.clocks_keeps Keeps.rfl_))))
  have hstart : UnitsStay s s.clocks.pulsesEnd.bellClock.publish.wakeClock :=
    ((((Frame.unitsStay (State.clocks_frame s) rfl).trans (Frame.unitsStay (State.pulsesEnd_frame _) rfl)).trans
      (Frame.unitsStay (State.bellClock_frame _) rfl)).trans (Frame.unitsStay (State.publish_frame _) rfl)).trans
      (Frame.unitsStay (State.wakeClock_frame _) rfl)
  have hwork : s.clocks.pulsesEnd.bellClock.publish.wakeClock.workClock = s.clocks.pulsesEnd.bellClock.publish.wakeClock := by
    simp [State.workClock, State.not_up_of_isolated (hk.isolated h)]
  unfold tick
  split
  · exact hpending s _ _
  · split
    · exact hpending s _ _
    · unfold State.nextClock
      dsimp only
      rw [hwork]
      exact ((hstart.trans (Frame.unitsStay (State.alarmClock_frame _) rfl)).trans
        (Frame.unitsStay (State.droopClock_frame _) rfl)).trans (hpending _ _ _)

/-! ### Fragments and instances of an isolated block -/

/-- Fragments stay, and instances but for their fault views and the shares of an accepted plan. -/
structure Isolates (s t : State) : Prop where
  frags : t.frags = s.frags
  insts : ∀ i, (t.inst i).noView = { (s.inst i).noView with led := (t.inst i).led }
  led   : s.led.plan = none → ∀ i, (t.inst i).led = (s.inst i).led

theorem OnlyViews.isolates {s t : State} (h : OnlyViews s t) : Isolates s t := by
  have hled (i : Nat) : (t.inst i).led = (s.inst i).led := congrArg (·.led) (h.insts i)
  refine ⟨h.frags, fun i => ?_, fun _ => hled⟩
  rw [h.insts i, hled i]
  rfl

/-- A table whose listed values are changed: a key reads the changed value, or the one of an unlisted key as before. -/
theorem tabGet_map_cases {α : Type} (d : α) (t : List (Nat × α)) (g : Nat → α → α) (k : Nat) :
    tabGet d (t.map (fun p => (p.1, g p.1 p.2))) k = g k (tabGet d t k) ∨
      tabGet d (t.map (fun p => (p.1, g p.1 p.2))) k = tabGet d t k := by
  induction t with
  | nil => exact .inr rfl
  | cons p t ih =>
    obtain ⟨j, v⟩ := p
    simp only [List.map_cons, tabGet]
    split
    · rename_i h
      exact .inl (h ▸ rfl)
    · exact ih

theorem OnlyShares.isolates {s t : State} (h : OnlyShares s t) (hf : t.frags = s.frags) : Isolates s t := by
  rcases h with h | ⟨p, hp, h⟩
  · have hi (i : Nat) : t.inst i = s.inst i := by rw [State.inst, h]; rfl
    exact ⟨hf, fun i => by rw [hi]; rfl, fun _ i => by rw [hi]⟩
  · refine ⟨hf, fun i => ?_, fun hn => by simp [hn] at hp⟩
    rcases tabGet_map_cases {} s.insts (fun i x => { x with led := p.onShare i x.led }) i with hi | hi <;>
      rw [State.inst, h, hi] <;> rfl

/-- The commands of an isolated block, by what they change: the bell its shares, the collector the fault views and repaired context
words, the end of a wake the engines, any other no unit. -/
theorem exec_isolated {c : Instr} {s t : State} (hi : s.isolated = true) (h : exec c s = .next t)
    (hc : c ≠ .pgoodFall ∧ c ≠ .powerOnReset ∧ c ≠ .blockReset) :
    Isolates s t ∧
      ((∀ d ∈ s.flt.waiting, d.source ≠ 37) → (∀ found, c = .faultDetection found → ∀ d ∈ found, d.source ≠ 37) →
        t.queues = s.queues ∧ t.chans = s.chans) ∧ (s.pwr.phase ≠ .waking → t.engs = s.engs) := by
  have hup := State.not_up_of_isolated hi
  by_cases hb : c = .bell ∨ c = .bellInEdge ∨ c = .bellMiss ∨ c = .bellAcquire
  · have hframe : Frame [.clk, .glb, .bell, .gls, .flt, .droop, .led, .insts] s t := by
      rcases hb with rfl | rfl | rfl | rfl <;> cases h
      · exact doBell_frame s
      · exact doEdge_frame s
      · exact doMiss_frame s
      · exact (doAcquire_frame s).grow (by decide)
    exact ⟨(exec_bell_shares hup hb h).isolates (hframe.get .frags rfl),
      fun _ _ => ⟨hframe.get .queues rfl, hframe.get .chans rfl⟩, fun _ => hframe.get .engs rfl⟩
  by_cases hd : ∃ found, c = .faultDetection found
  · obtain ⟨found, rfl⟩ := hd
    cases h
    obtain ⟨hviews, hkept⟩ := State.detect_isolated hi found
    exact ⟨hviews.isolates, fun hw hf => hkept hw (hf found rfl), fun _ => hviews.engs⟩
  by_cases hw : ∃ levels, c = .wakeComplete levels
  · obtain ⟨levels, rfl⟩ := hw
    cases h
    obtain ⟨hframe, hsame⟩ := doWakeComplete_isolated hup levels
    have hinsts : OnlyShares s (doWakeComplete levels s) := .inl (hframe.get .insts rfl)
    exact ⟨hinsts.isolates (hframe.get .frags rfl), fun _ _ => ⟨hframe.get .queues rfl, hframe.get .chans rfl⟩,
      fun hp => by rw [hsame hp]⟩
  · have hu := exec_units hi h hc (by tauto) (fun found hf => hd ⟨found, hf⟩) (fun levels hl => hw ⟨levels, hl⟩)
    exact ⟨hu.onlyViews.isolates, fun _ _ => ⟨hu .queues (by decide), hu .chans (by decide)⟩, fun _ => hu .engs (by decide)⟩

/-- Settles O8: a bus clock leaves every unit (`tick_units`), and a command what `exec_isolated` says of it. -/
theorem isolationKeepsTheUnits : Obligations.IsolationKeepsTheUnits := by
  unfold Obligations.IsolationKeepsTheUnits
  intro s t hi h hr
  rcases step_cases h with ⟨-, rfl⟩ | ⟨c, rest, hp, h⟩
  · have hu := tick_units hi
    have hinsts := hu.onlyViews.isolates
    exact ⟨hinsts.frags, hinsts.insts, hinsts.led, fun _ _ => ⟨hu .queues (by decide), hu .chans (by decide)⟩,
      fun _ => hu .engs (by decide)⟩
  · obtain ⟨hfall, hporst, hrst⟩ := hr rest
    obtain ⟨hinsts, hunits, hengs⟩ := exec_isolated (s := { s with pending := rest }) hi h
      ⟨fun hc => hfall (hc ▸ hp), fun hc => hporst (hc ▸ hp), fun hc => hrst (hc ▸ hp)⟩
    exact ⟨hinsts.frags, hinsts.insts, hinsts.led, fun hw hf => hunits hw fun found hc => hf found rest (hc ▸ hp), hengs⟩

end Sys2Proof.Machine
end

section
/-! PROOFS. A state from its parts. -/

namespace Sys2Proof.Machine

open Sys2Proof

/-- States whose parts are all the same are one. -/
theorem State.eq_of_parts {s t : State} (h : ∀ p : Part, p.same s t) : t = s := by
  cases s
  cases t
  simp only [State.mk.injEq]
  exact ⟨h .pending, h .now, h .age, h .clk, h .pwr, h .glb, h .bell, h .gls, h .tmr, h .flt, h .droop, h .mbs, h .pur, h .led,
    h .insts, h .queues, h .chans, h .engs, h .frags, h .nextId, h .hold, h .ports, h .fabs, h .inbs, h .nextInb, h .pollAt,
    h .cc, h .walks, h .walked, h .logc⟩

end Sys2Proof.Machine
end

section
/-! PROOFS. HALT, FREEZE and the end of a freeze (R74, R463, R464). -/

namespace Sys2Proof.Machine

open Sys2Proof

/-- A change that ends no freeze leaves the bell (R74). -/
theorem State.thawed_of_frozen {s t : State} (h : s.frozen = true → t.frozen = true) : s.thawed t = t := by
  unfold State.thawed
  cases hs : s.frozen <;> simp_all

/-- At the end of a freeze a slaved bell acquires (R74). -/
theorem State.thawed_of_ends {s t : State} (h : t.frozen = false) :
    s.thawed t = { t with bell := if s.frozen then { t.bell with locked := false } else t.bell } := by
  unfold State.thawed
  cases hs : s.frozen <;> simp [h]

theorem State.setHalt_true {s : State} (hp : s.isPresent = true) : s.setHalt true =
    { s with glb := { s.glb with halt := true }, clk := { s.clk with dbg := some s.heldDbg } } := by
  rw [State.setHalt, if_pos hp, State.thawed_of_frozen]
  · rfl
  · simp [State.frozen]

theorem State.setHalt_false {s : State} (hp : s.isPresent = true) : s.setHalt false =
    { s with glb := { s.glb with halt := false }, clk := { s.clk with dbg := some s.heldDbg }
             bell := if s.frozen then { s.bell with locked := false } else s.bell } := by
  rw [State.setHalt, if_pos hp, State.thawed_of_ends]
  · rfl
  · simp [State.frozen]

/-- HALT of a block that is not Present stays (R62). -/
theorem State.setHalt_absent {s : State} (hp : s.isPresent = false) (v : Bool) : s.setHalt v = s := by
  simp [State.setHalt, hp]

theorem State.setFreeze_eq (s : State) (f : Bool) : s.setFreeze f =
    { s with glb := { s.glb with freeze := f }, clk := { s.clk with dbg := some s.heldDbg }
             bell := if s.frozen = true ∧ f = false then { s.bell with locked := false } else s.bell } := by
  unfold State.setFreeze
  cases f with
  | false =>
    rw [State.thawed_of_ends (by simp [State.frozen])]
    simp only [and_true]
    rfl
  | true =>
    rw [State.thawed_of_frozen (by simp +contextual [State.frozen])]
    simp only [Bool.true_eq_false, and_false, if_false]
    rfl

/-- Settles O24: HALT is `setHalt_true`, `setHalt_false` or `setHalt_absent`, and FREEZE is written as `setFreeze_eq` says, unless
LOCK is set. -/
theorem debugHaltAndFreeze : Obligations.DebugHaltAndFreeze := by
  unfold Obligations.DebugHaltAndFreeze
  intro s
  refine ⟨fun hp => ⟨congrArg Host.Outcome.next (State.setHalt_true hp), congrArg Host.Outcome.next (State.setHalt_false hp)⟩,
    fun hp => ⟨congrArg Host.Outcome.next (State.setHalt_absent hp _), congrArg Host.Outcome.next (State.setHalt_absent hp _)⟩,
    fun f ht hl => congrArg Host.Outcome.next ?_, fun f ht hl => congrArg Host.Outcome.next ?_⟩
  · rw [State.portWrite_taking_of_pwr ht _ (by simp [hl, State.setFreeze_eq])]
    simp only [hl, Bool.false_eq_true, if_false, State.setFreeze_eq]
    rfl
  · rw [State.portWrite_taking_of_pwr ht _ (by simp [hl])]
    simp [hl]

end Sys2Proof.Machine
end

section
/-! PROOFS. Writes of QCTL (R206, R223, R224, R233, R477). -/

namespace Sys2Proof.Machine

open Sys2Proof

/-! ### A queue as the state holds it -/

/-- Only what becomes of the queue as it stands tells two updates apart. -/
theorem State.updQueue_congr {s : State} {g : Nat} {q : Queue} (h : s.queue? g = some q) {f f' : Queue → Queue}
    (hf : f q = f' q) : s.updQueue g f = s.updQueue g f' := by
  simp only [State.updQueue, h, hf]

/-- A queue found under its instance and local number is of that instance (R200, R205). -/
theorem State.localQueue_inst {s : State} {i l g : Nat} {q : Queue} (h : s.localQueue i l = some (g, q)) : q.inst = i := by
  have := List.find?_some h
  simp only [Bool.and_eq_true, beq_iff_eq] at this
  exact this.1

/-! ### The write as it reaches the queue -/

theorem State.pageWrite_taking {s : State} (h : s.taking = true) {i : Nat} (hi : s.exists_ i = true) {f : State → State}
    (ha : (f s).pwr.awake = true) : s.pageWrite i f = (f s).answered := by
  rw [State.pageWrite, State.portWrite_taking h _ (by rw [if_pos hi]; exact ha), if_pos hi]

section
variable {s : State} {i l g : Nat} {q : Queue} (ht : s.taking = true) (hx : s.exists_ i = true) (hr : s.inReset i = false)
  (hl : s.localQueue i l = some (g, q))
include ht hx hr hl

/-- With the clusters clocked a write of ENABLE acts on the queue at once (R223, R224). -/
theorem State.pageWrite_setEnable (hc : s.pwr.clocked = true) (en : Bool) :
    s.pageWrite i (fun s => s.setEnable i l en) = (s.writeEnable g en).answered := by
  have he : s.setEnable i l en = s.writeEnable g en := by
    simp [State.setEnable, State.steer, hc, doEnable, State.pageOpen, State.up_of_taking ht, hx, hr, onLocal, hl]
  have hp : (s.writeEnable g en).pwr = s.pwr := (State.writeEnable_frame s g en).get .pwr rfl
  rw [State.pageWrite_taking ht hx (by rw [he, hp]; exact State.awake_of_taking ht), he]

/-- So do RETRY and SKIP (R233). -/
theorem State.pageWrite_setRelease (hc : s.pwr.clocked = true) (skip : Bool) :
    s.pageWrite i (fun s => s.setRelease i l skip) = (if skip then s.skip g else s.retry g).answered := by
  have he : s.setRelease i l skip = if skip then s.skip g else s.retry g := by
    cases skip <;> simp [State.setRelease, State.steer, hc, doSkip, doRetry, State.pageOpen, State.up_of_taking ht, hx, hr, onLocal, hl]
  have hp : (if skip then s.skip g else s.retry g).pwr = s.pwr := by
    split
    · exact (State.skip_frame s g).get .pwr rfl
    · exact (State.retry_frame s g).get .pwr rfl
  rw [State.pageWrite_taking ht hx (by rw [he, hp]; exact State.awake_of_taking ht), he]

/-- While the clusters hold no clock the bit is set at once, and what it steers waits for RUN (R477). -/
theorem State.pageWrite_setEnable_unclocked (hq : s.queue? g = some q) (hc : s.pwr.clocked = false) (hd : q.dying = false)
    (hf : q.state ≠ .fenced) (en : Bool) : s.pageWrite i (fun s => s.setEnable i l en) =
      ({ s.updQueue g (fun q => { q with enable := en }) with
        pwr := { s.pwr with later := s.pwr.later ++ [.enable i l en] } } : State).answered := by
  have hu := State.updQueue_congr hq (f := fun q => if q.dying || q.state == .fenced then q else { q with enable := en })
    (f' := fun q => { q with enable := en }) (by simp [hd, hf])
  have he : s.setEnable i l en = { s.updQueue g (fun q => { q with enable := en }) with
      pwr := { s.pwr with later := s.pwr.later ++ [.enable i l en] } } := by
    simp only [State.setEnable, State.steer, hc, hr, onLocal, hl, Bool.false_eq_true, if_false, hu, State.updQueue_pwr]
  rw [State.pageWrite_taking ht hx (by rw [he]; exact (State.awake_of_taking ht : s.pwr.awake = true)), he]

end

/-! ### The queue -/

/-- The queue after SKIP (R233): the malformed entry that it halted on is taken, or its slot is only passed. -/
def Queue.skipped (q : Queue) (gen age : Nat) : Queue :=
  let mal := q.err.cause == 0
  let q := if mal then q.take q.haltRaw gen q.err.status age else q.advance
  let q := { q with err := { q.err with valid := false } }
  if q.enable then q.poll_ age else { q with state := if mal then .draining else .off }

section
variable (q : Queue) (gen age : Nat)

theorem Queue.skipped_head : (q.skipped gen age).head = (q.head + 1) % 2 ^ q.k := by
  unfold Queue.skipped
  cases q.err.cause == 0 <;> cases he : q.enable <;> simp [Queue.take, Queue.advance, Queue.poll_, he]

theorem Queue.skipped_err : (q.skipped gen age).err.valid = false := by
  unfold Queue.skipped
  cases q.err.cause == 0 <;> cases he : q.enable <;> simp [Queue.take, Queue.advance, Queue.poll_, he]

theorem Queue.skipped_state :
    (q.skipped gen age).state = if q.enable then .polling else if q.err.cause = 0 then .draining else .off := by
  unfold Queue.skipped
  by_cases hc : q.err.cause = 0 <;> cases he : q.enable <;> simp [hc, Queue.take, Queue.advance, Queue.poll_, he]

theorem Queue.skipped_entries : (q.skipped gen age).entries = if q.err.cause = 0 then q.entries ++
    [{ seq := q.nextSeq, slot := q.head, lap := q.lap, raw := q.haltRaw, gen, bad := q.err.status, taken := age }]
      else q.entries := by
  unfold Queue.skipped
  by_cases hc : q.err.cause = 0 <;> cases he : q.enable <;> simp [hc, Queue.take, Queue.advance, Queue.poll_, he]

end

section
variable {s : State} {g : Nat} {q : Queue} (hq : s.queue? g = some q)
include hq

theorem State.writeEnable_of_queue (hd : q.dying = false) (hf : q.state ≠ .fenced) (hr : s.inReset q.inst = false) (en : Bool) :
    s.writeEnable g en =
      if en then s.updQueue g (fun q =>
        if q.state == .off || q.state == .draining then { q with enable := true }.poll_ s.age else { q with enable := true })
      else if q.state == .polling then
        ((s.updQueue g (fun q => { q with enable := false })).updQueue g (fun _ =>
          { q with enable := false, state := .draining, waiting := false, drop := q.drop || q.poll })).qSettled g
      else s.updQueue g (fun q => { q with enable := false }) := by
  simp [State.writeEnable, hq, hd, hf, hr]

/-- A queue that is not HALTED ignores RETRY and SKIP (R233). -/
theorem State.release_ignored (hs : q.state ≠ .halted) : s.retry g = s ∧ s.skip g = s := by
  simp [State.retry, State.skip, hq, hs]

theorem State.retry_halted (hs : q.state = .halted) : s.retry g = s.updQueue g (fun q => { q with
    err := { q.err with valid := false }, state := if q.enable then .polling else .off
    due := if q.enable then s.age else q.due, waiting := if q.enable then false else q.waiting }) := by
  simp only [State.retry, hq, hs, bne_self_eq_false, Bool.false_eq_true, if_false]
  refine State.updQueue_congr hq ?_
  cases q.enable <;> rfl

theorem State.skip_halted (hs : q.state = .halted) :
    s.skip g = s.updQueue g (fun q => q.skipped (s.inst q.inst).gen s.age) := by
  simp only [State.skip, hq, hs, bne_self_eq_false, Bool.false_eq_true, if_false]
  rfl

end

/-! ### ENABLE cleared (R224) -/

/-- A queue that drains with nothing open or outstanding is OFF (R224). -/
theorem State.queue_qSettled {s : State} {g : Nat} {q : Queue} (hq : s.queue? g = some q) (hs : q.state = .draining) :
    (s.qSettled g).queue? g =
      some (if q.entries = [] ∧ q.poll = false then { q with state := .off, waiting := false } else q) := by
  have hoff : (s.qOff g q).queue? g = some { q with state := .off, waiting := false } := by
    have hqs := (State.qEvent_frame (s.updQueue g (fun q => { q with state := .off, waiting := false })) g q 0x12
      (leBytes 8 q.cnt.toNat)).get .queues rfl
    rw [State.qOff, State.queue?, hqs]
    exact (State.queue_updQueue ..).trans (by simp [hq])
  unfold State.qSettled
  rw [hq]
  dsimp only
  cases he : q.entries <;> cases hp : q.poll <;> simp [hs, he, hp, hoff, hq]

theorem State.queue_qSettled_other {s : State} {g j : Nat} (hj : j ≠ g) : (s.qSettled g).queue? j = s.queue? j := by
  have hoff (q : Queue) : (s.qOff g q).queue? j = s.queue? j := by
    have hqs := (State.qEvent_frame (s.updQueue g (fun q => { q with state := .off, waiting := false })) g q 0x12
      (leBytes 8 q.cnt.toNat)).get .queues rfl
    rw [State.qOff, State.queue?, hqs]
    exact (State.queue_updQueue ..).trans (if_neg hj)
  unfold State.qSettled
  repeat' split
  · rfl
  · rfl
  · exact hoff _
  · simp [hj]
  · rfl

/-- Settles O35: a write of QCTL reaches the queue by `State.pageWrite_setEnable` or `State.pageWrite_setRelease`, or waits for RUN
by `State.pageWrite_setEnable_unclocked`; what it makes of the queue is `State.writeEnable_of_queue`, `State.retry_halted` and
`State.skip_halted`. -/
theorem queueControlWrites : Obligations.QueueControlWrites := by
  unfold Obligations.QueueControlWrites
  intro s i l g q ht hx hr hl hq
  have hinst : s.inReset q.inst = false := by rw [State.localQueue_inst hl]; exact hr
  have henable (hc : s.pwr.clocked = true) (hd : q.dying = false) (hf : q.state ≠ .fenced) (en : Bool) :=
    (State.pageWrite_setEnable ht hx hr hl hc en).trans
      (congrArg State.answered (State.writeEnable_of_queue hq hd hf hinst en))
  have hrelease (hc : s.pwr.clocked = true) (skip : Bool) := State.pageWrite_setRelease ht hx hr hl hc skip
  refine ⟨fun hc hd hf => congrArg Host.Outcome.next (State.pageWrite_setEnable_unclocked ht hx hr hl hq hc hd hf true),
    fun hc hd hs => congrArg Host.Outcome.next ((henable hc hd (by rcases hs with h | h <;> simp [h]) true).trans ?_),
    fun hc hd h1 h2 h3 => congrArg Host.Outcome.next ((henable hc hd h3 true).trans ?_), fun hc hd hs => ?_,
    fun hc hs => congrArg Host.Outcome.next ((hrelease hc false).trans (congrArg State.answered (State.retry_halted hq hs))),
    fun hc hs => ?_, fun hc hs => ?_⟩
  · rw [if_pos rfl]
    refine congrArg State.answered (State.updQueue_congr hq ?_)
    rcases hs with h | h <;> simp [h, Queue.poll_]
  · rw [if_pos rfl]
    exact congrArg State.answered (State.updQueue_congr hq (by simp [h1, h2]))
  · have hw := henable hc hd (by simp [hs]) false
    rw [if_neg Bool.false_ne_true, if_pos (by simp [hs])] at hw
    generalize hu : (s.updQueue g (fun q => { q with enable := false })).updQueue g (fun _ =>
      { q with enable := false, state := .draining, waiting := false, drop := q.drop || q.poll }) = u at hw
    have hqu : u.queue? g = some { q with enable := false, state := .draining, waiting := false, drop := q.drop || q.poll } := by
      simp [← hu, hq]
    have hframe := State.qSettled_frame u g
    refine ⟨_, _, congrArg Host.Outcome.next hw, State.queue_qSettled hqu rfl, ?_⟩
    refine ⟨by split <;> rfl, ?_, by split <;> rfl, by split <;> rfl, fun hp => ?_, ?_, ?_, ?_, fun j hj => ?_⟩
    · dsimp only
      split <;> rfl
    · simp [hp]
    · exact (hframe.get .chans rfl).trans (hu ▸ ((s.updQueue_frame g _).trans (State.updQueue_frame _ g _)).get .chans rfl)
    · exact (hframe.get .frags rfl).trans (hu ▸ ((s.updQueue_frame g _).trans (State.updQueue_frame _ g _)).get .frags rfl)
    · exact (hframe.get .hold rfl).trans (hu ▸ ((s.updQueue_frame g _).trans (State.updQueue_frame _ g _)).get .hold rfl)
    · exact (State.queue_qSettled_other hj).trans (by simp [← hu, hj])
  · have hqs := State.queue_updQueue s g (fun q => q.skipped (s.inst q.inst).gen s.age) g
    rw [if_pos rfl, hq] at hqs
    have hframe := s.updQueue_frame g (fun q => q.skipped (s.inst q.inst).gen s.age)
    refine ⟨_, _, congrArg Host.Outcome.next ((hrelease hc true).trans (congrArg State.answered (State.skip_halted hq hs))), hqs,
      Queue.skipped_head .., Queue.skipped_err .., Queue.skipped_state .., fun h0 => ?_, fun h0 => ?_, ?_, fun j hj => ?_⟩
    · rw [Queue.skipped_entries, if_neg h0]
    · rw [Queue.skipped_entries, if_pos h0]
      exact ⟨_, rfl, rfl, rfl, rfl⟩
    · refine State.eq_of_parts fun p => ?_
      have hp := hframe p
      cases p <;> first | rfl | exact hp (by decide)
    · exact (State.queue_updQueue ..).trans (if_neg hj)
  · obtain ⟨hretry, hskip⟩ := State.release_ignored hq hs
    exact ⟨congrArg Host.Outcome.next ((hrelease hc false).trans (congrArg State.answered hretry)),
      congrArg Host.Outcome.next ((hrelease hc true).trans (congrArg State.answered hskip))⟩

end Sys2Proof.Machine
end

section
/-! PROOFS. Translated accesses that join the control path of their port (R143, R332, R333). -/

namespace Sys2Proof.Machine

open Sys2Proof

theorem State.xlate_congr {s t : State} (hc : t.cc = s.cc) (hw : t.walked = s.walked) (hg : t.glb = s.glb) (x : XCtx)
    (i a : Nat) (write : Bool) : t.xlate x i a write = s.xlate x i a write := by
  simp only [State.xlate, State.cached, State.node, hc, hw, hg]

theorem State.busy_congr {s t : State} (hp : t.ports = s.ports) (hf : t.fabs = s.fabs) (o : Owner) : t.busy o = s.busy o := by
  simp only [State.busy, hp, hf]

theorem State.inst_congr {s t : State} (h : t.insts = s.insts) (i : Nat) : t.inst i = s.inst i := by
  simp only [State.inst, h]

theorem State.port_congr {s t : State} (h : t.ports = s.ports) (c : Nat) : t.port c = s.port c := by
  simp only [State.port, h]

theorem State.queue_congr {s t : State} (h : t.queues = s.queues) (g : Nat) : t.queue? g = s.queue? g := by
  simp only [State.queue?, h]

/-- A request whose address x translated joins the control path of port c: the cache has used the page, the walks of x are
over (R143, R332, R333). -/
def State.joins (s : State) (x : XCtx) (i a c : Nat) (r : CtlReq) : State := ((s.touch i a).dropWalked x).putCtl c r

theorem State.joins_frame (s : State) (x : XCtx) (i a c : Nat) (r : CtlReq) :
    Frame [.cc, .walked, .ports] s (s.joins x i a c r) := fun p hp => by
  cases p <;> first | rfl | exact absurd hp (by decide)

theorem State.port_joins (s : State) (x : XCtx) (i a c : Nat) (r : CtlReq) (k : Nat) : (s.joins x i a c r).port k =
    if k = c then { s.port c with ctl := (s.port c).ctl ++ [r] } else s.port k := State.port_updPort ..

theorem State.ctl_joins {s t : State} {c : Nat} (h : t.port c = s.port c) (x : XCtx) (i a : Nat) (r : CtlReq) :
    ((t.joins x i a c r).port c).ctl = (s.port c).ctl ++ [r] := by
  rw [State.port_joins, if_pos rfl, h]

/-- A request that joins its port after a change of the queues alone changes those and what it is put on. -/
theorem State.joins_eq {s t : State} (h : Frame [.queues] s t) (x : XCtx) (i a c : Nat) (r : CtlReq) : t.joins x i a c r =
    { s with queues := (t.joins x i a c r).queues, cc := (t.joins x i a c r).cc, walked := (t.joins x i a c r).walked
             ports := (t.joins x i a c r).ports } :=
  State.eq_of_parts fun p => by
    have hp := h p
    cases p <;> first | rfl | exact hp (by decide)

theorem Queue.entry?_updEntry {q : Queue} {seq : Nat} {e : Entry} (h : q.entry? seq = some e) {f : Entry → Entry}
    (hf : ∀ e, (f e).seq = e.seq) : (q.updEntry seq f).entry? seq = some (f e) := by
  have hseq : e.seq = seq := by simpa using List.find?_some h
  have hcomp : (fun e : Entry => e.seq == seq) ∘ (fun e => if e.seq = seq then f e else e) = fun e => e.seq == seq :=
    funext fun e => by
      by_cases he : e.seq = seq <;> simp [he, hf]
  simp only [Queue.entry?, Queue.updEntry, List.find?_map, hcomp]
  rw [show q.entries.find? _ = some e from h]
  simp [hseq]

end Sys2Proof.Machine
end

section
/-! PROOFS. Completion overwrites, event records and MSI writes (R273, R326, R396, R399). -/

namespace Sys2Proof.Machine

open Sys2Proof

/-- An overwrite that waits and whose page translates joins the control path of its queue's cluster (R273). -/
theorem State.ovrGo_ok {s : State} {g : Fin 16384} {q : Queue} {e : Entry} {seq pa : Nat} (hq : s.queue? g.val = some q)
    (he : q.entry? seq = some e) (hw : e.ovr = .waiting) (hb : s.busy (.ovr g.val seq) = false)
    (hx : s.xlate (.ovr g e.slot) q.inst (q.slotAddr e.slot) true = .ok pa) :
    s.ovrGo g seq = s.joins (.ovr g e.slot) q.inst (q.slotAddr e.slot) q.cluster
      (s.ctlReq (.ovr g.val seq) true q.inst (q.slotAddr e.slot) pa 64 6 .top) := by
  simp only [State.ovrGo, hq, he, Option.bind_some, Option.map_some, hw, hb, hx]
  rfl

/-- The event ring of an instance that issues the record r (R241). -/
def Inst.sends (r : EvRec) (rest : List EvRec) (x : Inst) : Inst := { x with evOut := some r, evWait := rest }

/-- The interrupt of an instance that issues its write, for queue q and on a port (R326). -/
def Inst.sendsMsi (port : Nat) (q : Option Nat) (x : Inst) : Inst :=
  { x with msiTrig := none, msiOut := true, msiQ := q, msiPort := port }

/-- A record whose write is outstanding and whose page translates joins the control path of its port (R241). -/
theorem State.evtGo_ok {s : State} {i : Fin 1024} {r : EvRec} {pa : Nat} (ho : (s.inst i.val).evOut = some r)
    (hb : s.busy (.evt i.val) = false) (hx : s.xlate (.evt i) i.val (s.inst i.val).recAddr true = .ok pa) :
    s.evtGo i = s.joins (.evt i) i.val (s.inst i.val).recAddr r.port
      (s.ctlReq (.evt i.val) true i.val (s.inst i.val).recAddr pa 32 5 .top ((s.inst i.val).recBytes r)) := by
  simp only [State.evtGo, ho, hb, hx]
  rfl

/-- An MSI write whose page translates, and whose node a port leads to, joins the control path of its port (R326, R359). -/
theorem State.msiGo_ok {s : State} {i : Fin 1024} {pa : Nat} (ho : (s.inst i.val).msiOut = true)
    (hb : s.busy (.msi i.val) = false)
    (hroute : nodeOf (s.inst i.val).msiAddr.toNat = s.node ∨ (s.route (nodeOf (s.inst i.val).msiAddr.toNat)).isSome = true)
    (hx : s.xlate (.msi i) i.val (s.inst i.val).msiAddr.toNat true = .ok pa) :
    s.msiGo i = s.joins (.msi i) i.val (s.inst i.val).msiAddr.toNat (s.inst i.val).msiPort
      (s.ctlReq (.msi i.val) true i.val (s.inst i.val).msiAddr.toNat pa 4 2 .top (leBytes 4 (s.inst i.val).msiData.toNat)) := by
  have hport : ¬ (nodeOf (s.inst i.val).msiAddr.toNat != s.node &&
      (s.route (nodeOf (s.inst i.val).msiAddr.toNat)).isNone) = true := by
    rcases hroute with h | h
    · simp [h]
    · simp [Option.isSome_iff_ne_none.1 h]
  rw [State.msiGo]
  dsimp only
  rw [ho, hb, hx]
  exact if_neg hport

theorem doOverwrite_due {s : State} {g : Fin 16384} {q : Queue} {e : Entry} (hi : s.issues = true)
    (hq : s.queue? g.val = some q) (he : q.entries.find? (fun e => s.ovrReady g.val q e) = some e) :
    doOverwrite g s = (s.updEntry g.val e.seq (fun e => { e with ovr := .waiting, ovrAt := s.now })).ovrGo g e.seq := by
  simp only [doOverwrite, hq, hi, he]
  rfl

theorem doRecordWrite_next {s : State} {i : Fin 1024} {r : EvRec} {rest : List EvRec} (hi : s.issues = true)
    (hw : (s.inst i.val).evWait = r :: rest) (ho : (s.inst i.val).evOut = none) (he : (s.inst i.val).evtEn = true)
    (ha : (s.inst i.val).ackAt ≠ some s.now) (hr : s.inReset i.val = false) :
    doRecordWrite i s = (s.updInst i.val (Inst.sends r rest)).evtGo i := by
  simp [doRecordWrite, hw, hi, ho, he, ha, hr]
  rfl

theorem doMsi_waits {s : State} {i : Fin 1024} {port : Nat} {q : Option Nat} (hi : s.issues = true)
    (ht : (s.inst i.val).msiTrig = some (port, q)) (ho : (s.inst i.val).msiOut = false) (hr : s.inReset i.val = false) :
    doMsi i s =
      (s.updInst i.val (Inst.sendsMsi port q)).msiGo i := by
  simp [doMsi, ht, hi, ho, hr]
  rfl

/-- Settles O36: each write's own row sets what waits for it, and its translated request joins its port (`State.ovrGo_ok`,
`State.evtGo_ok`, `State.msiGo_ok`). -/
theorem ownWritesJoinTheirPort : Obligations.OwnWritesJoinTheirPort := by
  unfold Obligations.OwnWritesJoinTheirPort
  refine fun s hi => ⟨fun g q e pa hq hfind he hb hx => ?_, fun i r rest pa hw ho hen ha hr hb hx => ?_,
    fun i port q pa ht ho hr hb hroute hx => ?_⟩
  · have hu := s.updEntry_frame g.val e.seq (fun e => { e with ovr := .waiting, ovrAt := s.now })
    have hq' := (s.queue_updEntry g.val e.seq (fun e => { e with ovr := .waiting, ovrAt := s.now }) g.val).trans (if_pos rfl)
    rw [hq, Option.map_some] at hq'
    have he' := Queue.entry?_updEntry he (f := fun e => { e with ovr := .waiting, ovrAt := s.now }) (fun _ => rfl)
    have hgo := (doOverwrite_due hi hq hfind).trans (State.ovrGo_ok (pa := pa) hq' he' rfl
      ((State.busy_congr (hu.get .ports rfl) (hu.get .fabs rfl) _).trans hb)
      ((State.xlate_congr (hu.get .cc rfl) (hu.get .walked rfl) (hu.get .glb rfl) ..).trans hx))
    refine ⟨_, _, congrArg Host.Outcome.next hgo, State.ctl_joins (State.port_congr (hu.get .ports rfl) _) .., rfl, rfl,
      rfl, rfl, rfl, rfl, ⟨_, hq', he', rfl⟩, State.joins_eq hu ..⟩
  · have hinst := s.inst_updInst i.val (Inst.sends r rest)
    have hx' := (hinst i.val).trans (if_pos rfl)
    have hgo := (doRecordWrite_next hi hw ho hen ha hr).trans (State.evtGo_ok (pa := pa) (congrArg Inst.evOut hx') hb
      (by rw [hx']; exact hx))
    exact ⟨_, _, congrArg Host.Outcome.next hgo, State.ctl_joins (s := s) (t := s.updInst i.val (Inst.sends r rest)) rfl .., rfl, rfl,
      (congrArg Inst.recAddr hx').trans rfl, rfl, rfl, (congrArg (Inst.recBytes · r) hx').trans rfl, hx',
      fun j hj => (hinst j).trans (if_neg hj), rfl⟩
  · have hinst := s.inst_updInst i.val (Inst.sendsMsi port q)
    have hx' := (hinst i.val).trans (if_pos rfl)
    have hgo := (doMsi_waits hi ht ho hr).trans (State.msiGo_ok (pa := pa) (congrArg Inst.msiOut hx') hb
      (by rw [hx']; exact hroute) (by rw [hx']; exact hx))
    rw [congrArg Inst.msiPort hx'] at hgo
    exact ⟨_, _, congrArg Host.Outcome.next hgo, State.ctl_joins (s := s) (t := s.updInst i.val (Inst.sendsMsi port q)) rfl .., rfl, rfl, rfl, rfl,
      (congrArg (fun x : Inst => leBytes 4 x.msiData.toNat) hx').trans rfl, hx', fun j hj => (hinst j).trans (if_neg hj), rfl⟩

end Sys2Proof.Machine
end

section
/-! PROOFS. Polls that fall due and are issued (R215, R216, R217). -/

namespace Sys2Proof.Machine

open Sys2Proof

theorem State.queue_joins (s : State) (x : XCtx) (i a c : Nat) (r : CtlReq) (j : Nat) :
    (s.joins x i a c r).queue? j = s.queue? j := rfl

/-- An outstanding poll whose slot translates joins the control path of its queue's cluster (R202). -/
theorem State.pollGo_ok {s : State} {g : Fin 16384} {q : Queue} {pa : Nat} (hq : s.queue? g.val = some q) (hp : q.poll = true)
    (hb : s.busy (.poll g.val) = false) (hx : s.xlate (.poll g) q.inst (q.slotAddr q.head) false = .ok pa) :
    s.pollGo g = s.joins (.poll g) q.inst (q.slotAddr q.head) q.cluster
      (s.ctlReq (.poll g.val) false q.inst (q.slotAddr q.head) pa 64 6 .top) := by
  simp only [State.pollGo, hq, hp, hb, hx]
  rfl

/-- The polls after one of queue g was issued, with Q_POLL_LATE for one past its deadline (R216). -/
def State.pollSent (s : State) (g : Nat) (q : Queue) : State :=
  let t := { s.updQueue g (fun q => { q with waiting := false, poll := true }) with pollAt := s.age + 2 }
  if q.due < s.age then t.raise 23 2 g (some q.inst) (queueDetail q.head q.lap 0) else t

theorem State.pollSent_frame (s : State) (g : Nat) (q : Queue) : Frame [.queues, .pollAt, .flt] s (s.pollSent g q) := fun p hp => by
  have hq := s.updQueue_frame g (fun q => { q with waiting := false, poll := true }) p
  unfold State.pollSent
  split
  all_goals cases p <;> first | exact absurd hp (by decide) | exact hq (by decide)

theorem State.queue_pollSent {s : State} {g : Nat} {q : Queue} (hq : s.queue? g = some q) (j : Nat) : (s.pollSent g q).queue? j =
    if j = g then some { q with waiting := false, poll := true } else s.queue? j := by
  have hqueue := s.queue_updQueue g (fun q => { q with waiting := false, poll := true }) j
  rw [hq] at hqueue
  unfold State.pollSent
  split
  · exact hqueue
  · exact hqueue

theorem State.pollAt_pollSent (s : State) (g : Nat) (q : Queue) : (s.pollSent g q).pollAt = s.age + 2 := by
  unfold State.pollSent
  split <;> rfl

theorem State.flt_pollSent_timely {s : State} {g : Nat} {q : Queue} (h : s.age ≤ q.due) : (s.pollSent g q).flt = s.flt := by
  rw [State.pollSent, if_neg (by omega)]
  exact (s.updQueue_frame g _).get .flt rfl

theorem State.waiting_pollSent_late {s : State} {g : Nat} {q : Queue} (h : q.due < s.age) :
    ∃ d ∈ (s.pollSent g q).flt.waiting, d.source = 23 ∧ d.attr.unit = g := by
  rw [State.pollSent, if_pos h, State.waiting_raise]
  exact ⟨_, List.mem_append_right _ List.mem_cons_self, rfl, rfl⟩

/-- The chosen poll is issued where R217 does not drop it now. -/
theorem doPollIssue_chosen {s : State} {g : Fin 16384} {q : Queue} (hp : s.polls = true) (ha : s.pollAt ≤ s.age)
    (hc : s.pollChoice = some (g.val, q)) (ok : Bool)
    (hok : ok = decide (q.state = .polling ∧ q.susp = false ∧ q.poll = false ∧ q.entries.length < q.depth ∧
      s.active q.inst = true)) :
    doPollIssue s = if ok then (s.pollSent g.val q).pollGo g
      else s.updQueue g.val (fun q => { q with waiting := false }) := by
  have hlate : ¬ s.age < s.pollAt := by omega
  have hg : Fin.ofNat 16384 g.val = g := Fin.ext (Nat.mod_eq_of_lt g.isLt)
  have hcond : (q.state == .polling && !q.susp && !q.poll && decide (q.entries.length < q.depth) && s.active q.inst) = ok := by
    rw [hok]
    simp [Bool.and_assoc, beq_eq_decide]
  simp only [doPollIssue, hp, hlate, hc, hcond, hg]
  cases ok <;> simp [State.pollSent]

/-- Settles O33: the chosen poll is dropped or issued (`doPollIssue_chosen`), and an issued one joins its port (`State.pollGo_ok`). -/
theorem pollsFallDueAndIssue : Obligations.PollsFallDueAndIssue := by
  unfold Obligations.PollsFallDueAndIssue
  refine fun s g q hq => ⟨fun hr hs hd => ?_, fun h => ?_, fun ok hok hp ha hc => ⟨fun hno => ?_, fun pa hyes hb hx => ?_⟩, fun h => ?_⟩
  · have hlate : ¬ s.age < q.due := by omega
    refine congrArg Host.Outcome.next ?_
    simp only [State.pollDue, hq, hr, hs, hlate]
    exact State.updQueue_congr hq rfl
  · refine congrArg Host.Outcome.next ?_
    rcases h with h | h | h <;> simp [State.pollDue, hq, h]
  · refine congrArg Host.Outcome.next ((doPollIssue_chosen hp ha hc ok hok).trans ?_)
    simp [hno]
  · have hout := s.pollSent_frame g.val q
    have hq' := (State.queue_pollSent hq g.val).trans (if_pos rfl)
    have hgo := (doPollIssue_chosen hp ha hc ok hok).trans ((if_pos hyes).trans (State.pollGo_ok (pa := pa) hq' rfl
      ((State.busy_congr (hout.get .ports rfl) (hout.get .fabs rfl) _).trans hb)
      ((State.xlate_congr (hout.get .cc rfl) (hout.get .walked rfl) (hout.get .glb rfl) ..).trans hx)))
    have hj := State.joins_frame (s.pollSent g.val q)
    refine ⟨_, _, congrArg Host.Outcome.next hgo, ((hj _ _ _ _ _).get .pollAt rfl).trans (s.pollAt_pollSent g.val q),
      (State.queue_joins ..).trans hq', State.ctl_joins (State.port_congr (hout.get .ports rfl) _) .., rfl, rfl, rfl, rfl, rfl,
      rfl, fun h => ((hj _ _ _ _ _).get .flt rfl).trans (State.flt_pollSent_timely h), fun h => ?_,
      fun j hj => (State.queue_joins ..).trans ((State.queue_pollSent hq j).trans (if_neg hj)),
      ((hj _ _ _ _ _).get .insts rfl).trans (hout.get .insts rfl), ((hj _ _ _ _ _).get .frags rfl).trans (hout.get .frags rfl),
      ((hj _ _ _ _ _).get .hold rfl).trans (hout.get .hold rfl)⟩
    rw [(hj _ _ _ _ _).get .flt rfl]
    exact State.waiting_pollSent_late h
  · refine congrArg Host.Outcome.next ?_
    rcases h with h | h | h <;> simp [doPollIssue, h]

end Sys2Proof.Machine
end

section
/-! PROOFS. Manifest record reads and their charge (R261, R550). -/

namespace Sys2Proof.Machine

open Sys2Proof

/-- The entry with a side whose record is being read, for its next fragment (R261). -/
def Entry.reads (dst : Bool) (e : Entry) : Entry := e.updSide dst (fun m => { m with reading := some (e.pos, e.nextK) })

theorem Entry.reads_seq (dst : Bool) (e : Entry) : (e.reads dst).seq = e.seq := by cases dst <;> rfl

theorem Entry.reads_raw (dst : Bool) (e : Entry) : (e.reads dst).raw = e.raw := by cases dst <;> rfl

theorem Entry.recs_reads (dst : Bool) (e : Entry) : ((e.reads dst).side dst).recs = (e.side dst).recs := by cases dst <;> rfl

theorem Entry.reading_reads (dst : Bool) (e : Entry) : ((e.reads dst).side dst).reading.isSome = true := by cases dst <;> rfl

/-- A queue with no record of that side being read reads that of the entry which begins. -/
theorem Queue.find_reads {q : Queue} {e : Entry} {dst : Bool} (he : q.entry? e.seq = some e)
    (hnone : ∀ x ∈ q.entries, (x.side dst).reading = none) :
    (q.updEntry e.seq (Entry.reads dst)).entries.find? (fun x => (x.side dst).reading.isSome) = some (e.reads dst) := by
  have hcomp : q.entries.find? ((fun x : Entry => (x.side dst).reading.isSome) ∘
      (fun x => if x.seq = e.seq then x.reads dst else x)) = q.entries.find? (fun x => x.seq == e.seq) := by
    refine List.find?_congr fun x hx => ?_
    by_cases h : x.seq = e.seq <;> simp [h, hnone x hx, Entry.reading_reads]
  simp only [Queue.updEntry, List.find?_map, hcomp]
  rw [show q.entries.find? _ = some e from he]
  simp

theorem State.route_congr {s t : State} (hg : t.glb = s.glb) (hp : t.fabs = s.fabs) (node : Nat) : t.route node = s.route node := by
  simp only [State.route, State.spanPort, State.fab, hg, hp]

theorem State.fragSpan_congr {s t : State} (hg : t.glb = s.glb) (hp : t.fabs = s.fabs) : t.fragSpan = s.fragSpan := by
  funext f
  simp only [State.fragSpan, State.spanNeed, State.node, hg, State.route_congr hg hp]
  rfl

theorem State.canCharge_congr {s t : State} (hi : t.insts = s.insts) (hf : t.frags = s.frags) (hb : t.bell = s.bell)
    (hg : t.glb = s.glb) (hp : t.fabs = s.fabs) (i c : Nat) (firm : Bool) (prio bytes : Nat) (span : List (Nat × Nat × Nat)) :
    t.canCharge i c firm prio bytes span = s.canCharge i c firm prio bytes span := by
  simp only [State.canCharge, State.kept, State.spanFits, State.reserving, State.inst, State.fragSpan_congr hg hp, hi,
    hf, hb]
  rfl

/-- A record read whose page translates joins the control path of its queue's cluster, in the class of the budget that it
would take (R261, R550). -/
theorem State.recGo_ok {s : State} {g : Fin 16384} {dst : Bool} {q : Queue} {e : Entry} {pa : Nat} (hq : s.queue? g.val = some q)
    (he : q.entries.find? (fun e => (e.side dst).reading.isSome) = some e) (hb : s.busy (.man g.val e.seq dst) = false)
    (hx : s.xlate (.man g dst) q.inst (recAddr e.raw dst (e.side dst).recs) false = .ok pa) :
    s.recGo g dst = s.joins (.man g dst) q.inst (recAddr e.raw dst (e.side dst).recs) q.cluster
      (s.ctlReq (.man g.val e.seq dst) false q.inst (recAddr e.raw dst (e.side dst).recs) pa 16 4
        (clsOf (s.recCharge q) q.prio)) := by
  simp only [State.recGo, hq, he, hb, hx]
  rfl

/-- A record that the next fragment of a queue needs begins to be read (R261). -/
theorem doRecRead_needed {s : State} {g : Fin 16384} {dst : Bool} {q : Queue} {e : Entry} (hn : s.newWork = true)
    (hq : s.queue? g.val = some q) (he : q.next = some e) (hs : q.susp = false) (ha : s.active q.inst = true)
    (hadm : s.admits (.queue g.val) = true) (hop : opcode e.raw = 5) (hstop : e.stop = none)
    (hneed : ∃ a b, manNext e.raw e.pos e.mSrc e.mDst = .needs a b ∧ (if dst then b else a) = true)
    (hr : (e.side dst).reading = none) (hk : (s.recCharge q).isSome = true) :
    doRecRead g dst s = (s.updEntry g.val e.seq (Entry.reads dst)).recGo g dst := by
  obtain ⟨a, b, hman, hside⟩ := hneed
  have hk' : (s.recCharge q).isNone = false := by simpa [Option.isSome_iff_ne_none] using hk
  simp only [doRecRead, hq, he, hn, hs, ha, hadm, hop, hstop, hman, hside, hr, hk']
  rfl

/-- Only an owner that no log takes costs anything (R550). -/
theorem State.owner_of_ctlCost {s : State} {r : CtlReq} {k : Charge} (h : s.ctlCost r = .costs k) :
    loggedOwner r.owner = false := by
  unfold State.ctlCost at h
  cases ho : r.owner <;> simp_all [loggedOwner]

/-- Counting the waits for log cache entries leaves what is outstanding on the memory ports (R381). -/
theorem State.rd_countCtlWaits (s : State) (c k : Nat) : ((s.countCtlWaits c).port k).rd = (s.port k).rd := by
  unfold State.countCtlWaits
  dsimp only
  generalize hlate : (s.port c).ctl.filter _ = late
  have hfold : ∀ t : State, (late.foldl (fun s r => s.logWaits r.inst) t).ports = t.ports := fun t =>
    (Frame.foldl (ps := [.glb, .flt]) (fun s r => State.logWaits_frame s _) Frame.refl).get .ports rfl
  rw [State.port_congr (hfold _), State.port_updPort]
  by_cases hk : k = c <;> simp [hk]

theorem State.rd_countAllWaits (s : State) (k : Nat) : (s.countAllWaits.port k).rd = (s.port k).rd := by
  have hfold : ∀ (l : List Nat) (t : State), ((l.foldl State.countCtlWaits t).port k).rd = (t.port k).rd := fun l => by
    induction l with
    | nil => exact fun _ => rfl
    | cons c l ih => exact fun t => (ih _).trans (t.rd_countCtlWaits c k)
  exact (hfold _ _).trans (congrArg MPort.rd (State.port_congr (s.countWaits_frame.get .ports rfl) k))

theorem State.ctlCharged_costs {s : State} {r : CtlReq} {k : Charge} (h : s.ctlCost r = .costs k) (c : Nat) :
    s.ctlCharged c r = s.charge r.inst c k r.bytes (s.ctlSpan r) := by
  simp only [State.ctlCharged, h]

theorem State.insts_ctlTaken (s : State) (c : Nat) (r : CtlReq) : (s.ctlTaken c r).insts = (s.ctlCharged c r).insts := by
  unfold State.ctlTaken
  split <;> rfl

/-- Settles O31: the read joins its port uncharged (`State.recGo_ok`); a grant of an access that costs charges it
(`State.ctlCharged_costs`). -/
theorem manifestRecordsAreRead : Obligations.ManifestRecordsAreRead := by
  unfold Obligations.ManifestRecordsAreRead
  refine ⟨fun s g dst q e k pa hn hq he hs ha hadm hop hstop hneed hnone hent hk hb hx => ?_,
    fun s c par o r k hi ho hwhat hw hp hd hk => ?_⟩
  · have hr : (e.side dst).reading = none := hnone e (List.mem_of_find?_eq_some hent)
    have hu := s.updEntry_frame g.val e.seq (Entry.reads dst)
    have hqueue := s.queue_updEntry g.val e.seq (Entry.reads dst)
    have hq' := (hqueue g.val).trans (if_pos rfl)
    rw [hq, Option.map_some] at hq'
    have hbegin := doRecRead_needed hn hq he hs ha hadm hop hstop hneed hr (Option.isSome_of_eq_some hk)
    generalize s.updEntry g.val e.seq (Entry.reads dst) = v at hu hqueue hq' hbegin
    have hgo := hbegin.trans (State.recGo_ok (pa := pa) hq' (Queue.find_reads hent hnone)
      (by rw [State.busy_congr (hu.get .ports rfl) (hu.get .fabs rfl), Entry.reads_seq]; exact hb)
      (by rw [State.xlate_congr (hu.get .cc rfl) (hu.get .walked rfl) (hu.get .glb rfl), Entry.recs_reads, Entry.reads_raw]
          exact hx))
    have hcls : v.recCharge (q.updEntry e.seq (Entry.reads dst)) = some k :=
      (State.canCharge_congr (hu.get .insts rfl) (hu.get .frags rfl) (hu.get .bell rfl) (hu.get .glb rfl) (hu.get .fabs rfl)
        ..).trans hk
    rw [hcls] at hgo
    refine ⟨_, _, congrArg Host.Outcome.next hgo, State.ctl_joins (State.port_congr (hu.get .ports rfl) _) ..,
      congrArg (Owner.man g.val · dst) (Entry.reads_seq ..), rfl, rfl, rfl, rfl, rfl, hu.get .insts rfl, hu.get .gls rfl,
      hu.get .frags rfl, hu.get .hold rfl, hu.get .flt rfl, fun j hj => (hqueue j).trans (if_neg hj), fun j hj => ?_⟩
    exact (State.port_joins ..).trans ((if_neg hj).trans (State.port_congr (hu.get .ports rfl) j))
  · have hgrant := doGrant_some hi ho par
    have hrd := s.rd_countAllWaits c.val
    generalize s.countAllWaits = u at hd hk hgrant hrd ⊢
    have hctl : u.grant (.mem c) par o = (u.setRr (.mem c) o).grantCtl c.val r := by simp only [State.grant, hwhat]
    have hgo := hgrant.trans (hctl.trans
      (State.grantCtl_read (s := u.setRr (.mem c) o) hw hd (State.owner_of_ctlCost hk) hp c.val))
    refine ⟨_, congrArg Host.Outcome.next hgo, ?_, ?_⟩
    · rw [(State.issueRead_frame _ _ _ _ _ _ _ _).get .insts rfl, State.insts_ctlTaken,
        State.ctlCharged_costs (s := u.setRr (.mem c) o) hk]
      rfl
    · rw [State.issueRead_port, if_pos rfl]
      simp [State.ctlTaken_port, State.setRr, hrd]

end Sys2Proof.Machine
end

section
/-! PROOFS. What a poll brings (R210, R211, R227, R228). -/

namespace Sys2Proof.Machine

open Sys2Proof

theorem State.node_congr {s t : State} (h : t.glb = s.glb) : t.node = s.node := by
  simp only [State.node, h]

theorem State.adminStays_congr {s t : State} (hg : t.glb = s.glb) (hp : t.pur = s.pur) : t.adminStays = s.adminStays := by
  simp only [State.adminStays, State.frozen, hg, hp]

/-- The 64 B of a poll that failed nowhere reach its queue (R210). -/
theorem State.pollBeat {s : State} {p : Nat} {b : RBeat} {r : RdOut} {g : Nat} (hu : s.up = true)
    (hold : b.tag.slot.toNat ∉ (s.port p).oldRd)
    (hfind : (s.port p).rd.find? (fun r => r.slot == b.tag.slot.toNat) = some r) (ho : r.owner = .poll g)
    (hlen : b.data.length = 2 ^ r.width) (hfirst : r.first = true → ∀ x ∈ (s.port p).rd, x.first = true)
    (hgen : b.tag.gen.toNat = (s.inst b.tag.inst.toNat).gen) (hstat : b.stat = 0) (hbad : b.bad = []) :
    (if s.isPollBeat p b then s.beat p b else s) = (s.beatMet p b r).pollData g (some b.data) := by
  have hpoll : s.isPollBeat p b = true := by
    refine List.any_eq_true.2 ⟨r, List.mem_of_find?_eq_some hfind, ?_⟩
    simpa [ho] using List.find?_some hfind
  rw [if_pos hpoll, State.beat_live hu hold hfind hlen hfirst hgen]
  simp [State.deliver, ho, hstat, hbad]

/-- The queue that has taken the entry of its poll (R211). -/
def Queue.polled (q : Queue) (raw : List Byte) (gen bad age : Nat) : Queue := { q.take raw gen bad age with poll := false }

theorem Queue.polled_lap (q : Queue) (raw : List Byte) (gen bad age : Nat) :
    (q.polled raw gen bad age).lap = q.lap ↔ q.head + 1 ≠ 2 ^ q.k := by
  show (if q.head + 1 = 2 ^ q.k then !q.lap else q.lap) = q.lap ↔ _
  split <;> simp_all

theorem Queue.polled_entries (q : Queue) (raw : List Byte) (gen bad age : Nat) : (q.polled raw gen bad age).entries =
    q.entries ++ [{ seq := q.nextSeq, slot := q.head, lap := q.lap, raw, gen, bad, taken := age }] := rfl

/-- An admissible entry is taken, a malformed one of a queue that is not strict with Q_MALFORMED (R210, R227). -/
theorem State.pollData_taken {s : State} {g : Nat} {q : Queue} {raw : List Byte} (hq : s.queue? g = some q)
    (hd : q.drop = false) (ha : (g == 0 && s.adminStays) = false) (hv : hbit raw 0 = true) (hl : hbit raw 1 = q.lap)
    (hs : malformed (g == 0) s.node raw = 0 ∨ q.strict = false) : s.pollData g (some raw) =
      let t := s.updQueue g (fun q => q.polled raw (s.inst q.inst).gen (malformed (g == 0) s.node raw) s.age)
      if malformed (g == 0) s.node raw = 0 then t
      else t.raise 24 2 g (some q.inst) (queueDetail q.head q.lap (malformed (g == 0) s.node raw)) := by
  have hcond : (malformed (g == 0) s.node raw ≠ 0 && q.strict) = false := by
    rcases hs with h | h <;> simp [h]
  simp only [State.pollData, hq, hd, hv, hl, ha, hcond]
  simp [Queue.polled]

/-- A slot with no entry of this lap brings nothing (R210). -/
theorem State.pollData_empty {s : State} {g : Nat} {q : Queue} {raw : List Byte} (hq : s.queue? g = some q)
    (hd : q.drop = false) (h : hbit raw 0 = false ∨ hbit raw 1 ≠ q.lap) :
    s.pollData g (some raw) = s.updQueue g (fun q => { q with poll := false }) := by
  have hcond : (!hbit raw 0 || hbit raw 1 != q.lap || (g == 0 && s.adminStays)) = true := by
    rcases h with h | h <;> simp [h]
  simp only [State.pollData, hq, hd, hcond]
  rfl

/-- A malformed entry halts a strict queue (R228). -/
theorem State.pollData_halts {s : State} {g : Nat} {q : Queue} {raw : List Byte} (hq : s.queue? g = some q)
    (hd : q.drop = false) (ha : (g == 0 && s.adminStays) = false) (hv : hbit raw 0 = true) (hl : hbit raw 1 = q.lap)
    (hm : malformed (g == 0) s.node raw ≠ 0) (hs : q.strict = true) :
    s.pollData g (some raw) = s.strictHalt g 0 (malformed (g == 0) s.node raw) raw none := by
  simp [State.pollData, hq, hd, hv, hl, ha, hm, hs]

/-- The queue that has halted at its HEAD (R228, R230). -/
def Queue.strictHalted (q : Queue) (cause status : Nat) (raw : List Byte) : Queue :=
  { q with
    poll := false, waiting := false, haltRaw := raw
    err := { index := q.head, lap := q.lap, cause, status, valid := true }
    state := if q.entries.isEmpty then .halted else .halting }

/-- A malformed entry of a strict queue halts it, with Q_HALTED found (R228). -/
theorem State.strictHalt_malformed {s : State} {g : Nat} {q : Queue} (hq : s.queue? g = some q) (status : Nat)
    (raw : List Byte) (x : Option Nat) : (s.strictHalt g 0 status raw x).queue? g = some (q.strictHalted 0 status raw) ∧
      ∃ d ∈ (s.strictHalt g 0 status raw x).flt.waiting, d.source = 25 ∧ d.attr.unit = g := by
  have hqueue := (s.queue_updQueue g (fun _ => q.strictHalted 0 status raw) g).trans (if_pos rfl)
  rw [hq, Option.map_some] at hqueue
  have hcount := ((s.updQueue g (fun _ => q.strictHalted 0 status raw)).fvCount_frame q.inst 1 15 0)
  have hall : s.strictHalt g 0 status raw x = ((((s.updQueue g (fun _ => q.strictHalted 0 status raw)).fvCount q.inst 1 15 0).raise
      25 2 g (some q.inst) (queueDetail q.head q.lap 0) x).qEvent g (q.strictHalted 0 status raw) 0x11
        (leBytes 8 (q.strictHalted 0 status raw).errWord.toNat)) := by
    simp only [State.strictHalt, hq]
    rfl
  rw [hall]
  refine ⟨?_, ?_⟩
  · rw [State.queue_congr ((State.qEvent_frame _ _ _ _ _).get .queues rfl)]
    exact (State.queue_congr (hcount.get .queues rfl) g).trans hqueue
  · refine ⟨_, State.post_finds _ _ _ (List.mem_append_right _ List.mem_cons_self), rfl, rfl⟩

/-- Settles O34: what the bytes of a poll bring is `State.pollData_taken`, `State.pollData_empty` and `State.pollData_halts`. -/
theorem pollResponsesTakeEntries : Obligations.PollResponsesTakeEntries := by
  unfold Obligations.PollResponsesTakeEntries
  intro s p b r g q hu hold hfind ho hlen hfirst hgen hstat hbad hq hd ha
  have hpoll : exec (.pollResponse p b) s = .next ((s.beatMet p.val b r).pollData g (some b.data)) :=
    congrArg Host.Outcome.next (State.pollBeat hu hold hfind ho hlen hfirst hgen hstat hbad)
  have hmet := s.beatMet_frame p.val b r
  generalize s.beatMet p.val b r = v at hpoll hmet
  have hvq : v.queue? g = some q := (State.queue_congr (hmet.get .queues rfl) g).trans hq
  have hva : (g == 0 && v.adminStays) = false := by
    rw [State.adminStays_congr (hmet.get .glb rfl) (hmet.get .pur rfl)]
    exact ha
  have hnode : v.node = s.node := State.node_congr (hmet.get .glb rfl)
  have hgenq : (v.inst q.inst).gen = (s.inst q.inst).gen := congrArg Inst.gen (State.inst_congr (hmet.get .insts rfl) _)
  have hothers : ∀ f : Queue → Queue, ∀ j, j ≠ g → (v.updQueue g f).queue? j = s.queue? j := fun f j hj => by
    rw [State.queue_updQueue, if_neg hj]
    exact State.queue_congr (hmet.get .queues rfl) j
  have hown : ∀ f : Queue → Queue, (v.updQueue g f).queue? g = some (f q) := fun f => by
    rw [State.queue_updQueue, if_pos rfl, hvq, Option.map_some]
  have hupd : ∀ f : Queue → Queue, Frame [.gls, .flt, .ports, .queues] s (v.updQueue g f) := fun f =>
    (hmet.grow (by decide)).trans ((v.updQueue_frame g f).grow (by decide))
  refine ⟨fun hv hl hm => ?_, fun h => ?_, fun hv hl hm => ?_⟩
  · rw [← hnode] at hm
    have htaken := State.pollData_taken hvq hd hva hv hl (.inl hm)
    dsimp only at htaken
    rw [if_pos hm, hm] at htaken
    rw [htaken] at hpoll
    refine ⟨_, _, _, hpoll, hown _, q.polled_entries .., rfl, rfl, q.polled_lap .., rfl, rfl, rfl, rfl, rfl, hgenq, rfl, rfl,
      rfl, (hupd _).get .insts rfl, (hupd _).get .frags rfl, (hupd _).get .hold rfl, hothers _⟩
  · rw [State.pollData_empty hvq hd h] at hpoll
    exact ⟨_, hpoll, hown _, (hupd _).get .insts rfl, (hupd _).get .frags rfl, (hupd _).get .hold rfl, hothers _⟩
  · rw [← hnode] at hm ⊢
    cases hs : q.strict
    case true =>
      rw [State.pollData_halts hvq hd hva hv hl hm hs] at hpoll
      obtain ⟨hqueue, hfound⟩ := State.strictHalt_malformed hvq (malformed (g == 0) v.node b.data) b.data none
      have hhold := ((v.strictHalt_frame g 0 (malformed (g == 0) v.node b.data) b.data none).get .hold rfl).trans (hmet.get .hold rfl)
      exact ⟨_, _, hpoll, hqueue, rfl, hhold, fun _ => ⟨rfl, rfl, rfl, rfl, rfl, rfl, rfl, rfl, hfound⟩, (absurd · Bool.true_eq_false.mp)⟩
    case false =>
      have htaken := State.pollData_taken hvq hd hva hv hl (.inr hs)
      dsimp only at htaken
      rw [if_neg hm] at htaken
      rw [htaken] at hpoll
      refine ⟨_, _, hpoll, hown _, rfl, (hupd _).get .hold rfl, (absurd · Bool.false_ne_true), fun _ => ⟨rfl, ?_, ?_, ?_⟩⟩
      · simp [Queue.polled_entries]
      · simp [Queue.polled_entries]
      · exact ⟨_, List.mem_append_right _ List.mem_cons_self, rfl, rfl⟩

end Sys2Proof.Machine
end

section
/-! PROOFS. The event ring's registers and the LOST record (R239, R240, R241, R244). -/

namespace Sys2Proof.Machine

open Sys2Proof

theorem State.updInst_congr {s : State} {i : Nat} {f g : Inst → Inst} (h : f (s.inst i) = g (s.inst i)) :
    s.updInst i f = s.updInst i g := by
  have htab : tabUpd {} s.insts i f = tabUpd {} s.insts i g := congrArg (tabSet s.insts i) h
  simp only [State.updInst, htab]

/-- An answered write that changed instances and raised conditions. -/
theorem State.answered_eq {s t : State} (h : Frame [.flt, .insts] s t) : t.answered =
    { s with insts := t.answered.insts, flt := t.answered.flt, glb := t.answered.glb } :=
  State.eq_of_parts fun p => by
    have hp := h p
    cases p <;> first | rfl | exact hp (by decide)

/-- ENABLE 1 on a ring that is not enabled (R239). -/
theorem State.writeEvtCtl_enable {s : State} {i : Nat} {v : Word} (he : (s.inst i).evtEn = false) (hv : bit v 0 = true) :
    s.writeEvtCtl i v = s.updInst i (fun x =>
      if 7 ≤ fld v 8 4 ∧ fld v 8 4 ≤ 16 ∧ nodeOf x.evtBase.toNat = s.node ∧ x.evtBase.toNat % (32 * 2 ^ fld v 8 4) = 0 then
        { x with sizeM := fld v 8 4, evtEn := true, head := 0, tail := 0 }
      else { x with sizeM := fld v 8 4 }) := by
  simp only [State.writeEvtCtl, he, hv, Bool.false_eq_true, if_false, if_true]
  split
  · rename_i h
    refine State.updInst_congr (Eq.symm (if_pos ?_))
    simpa [and_assoc] using h
  · rename_i h
    refine State.updInst_congr (Eq.symm (if_neg ?_))
    simpa [and_assoc] using h

/-- ENABLE 0 (R239). -/
theorem State.writeEvtCtl_disable {s : State} {i : Nat} {v : Word} (hv : bit v 0 = false) : s.writeEvtCtl i v =
    s.updInst i (fun x => { x with sizeM := if x.evtEn then x.sizeM else fld v 8 4, evtEn := false }) := by
  simp only [State.writeEvtCtl, hv, Bool.false_eq_true, if_false]
  exact State.updInst_congr rfl

/-- A trigger changes the instance's trigger alone (R326). -/
theorem State.inst_msiTrigger (s : State) (i port : Nat) (q : Option Nat) (j : Nat) : ∃ m,
    (s.msiTrigger i port q).inst j = { s.inst j with msiTrig := m } ∧ (j ≠ i → m = (s.inst j).msiTrig) := by
  unfold State.msiTrigger
  split
  · by_cases hj : j = i
    · exact ⟨some (port, q), by rw [State.inst_updInst, if_pos hj, hj], fun h => absurd hj h⟩
    · exact ⟨(s.inst j).msiTrig, (State.inst_updInst ..).trans (if_neg hj), fun _ => rfl⟩
  · exact ⟨(s.inst j).msiTrig, rfl, fun _ => rfl⟩

/-- A HEAD within the records written takes effect, with the write of an interrupt that stays pending (R241, R326). -/
theorem State.writeHead_unread {s : State} {i v : Nat}
    (h : v < 2 ^ ((s.inst i).sizeM + 1) ∧ (s.inst i).advance v ≤ (s.inst i).unread) : ∃ m,
      (s.writeHead i v).inst i = { s.inst i with head := v, msiTrig := m } ∧ (∀ j, j ≠ i → (s.writeHead i v).inst j = s.inst j) ∧
        (s.writeHead i v).flt = s.flt := by
  have hinst := s.inst_updInst i (fun x => { x with head := v })
  have hset := (hinst i).trans (if_pos rfl)
  have hwrite : s.writeHead i v = if ((s.updInst i (fun x => { x with head := v })).inst i).irq then
      (s.updInst i (fun x => { x with head := v })).msiTrigger i (i % 8) none
      else s.updInst i (fun x => { x with head := v }) := if_pos h
  rw [hwrite]
  split
  · have htrig := (s.updInst i (fun x => { x with head := v })).inst_msiTrigger i (i % 8) none
    obtain ⟨m, hown, -⟩ := htrig i
    refine ⟨m, by rw [hown, hset], fun j hj => ?_, ?_⟩
    · obtain ⟨m', hother, hm⟩ := htrig j
      rw [hother, hm hj]
      exact (hinst j).trans (if_neg hj)
    · exact (State.msiTrigger_frame _ _ _ _).get .flt rfl
  · exact ⟨_, hset, fun j hj => (hinst j).trans (if_neg hj), rfl⟩

/-- A HEAD outside the records written takes none (R241). -/
theorem State.writeHead_bad {s : State} {i v : Nat}
    (h : ¬(v < 2 ^ ((s.inst i).sizeM + 1) ∧ (s.inst i).advance v ≤ (s.inst i).unread)) :
    s.writeHead i v = s.raise 28 0 0 (some i) := if_neg h

/-- The record of the events that instance i has lost (R244). -/
def State.lostRec (s : State) (i : Nat) : EvRec := s.record 1 0 (leBytes 4 (s.inst i).lost) (i % 8)

theorem State.inst_addLost (s : State) (i j : Nat) : (s.addLost i).inst j =
    if j = i then { s.inst i with evWait := (s.inst i).evWait ++ [s.lostRec i], lost := 0 } else s.inst j :=
  State.inst_updInst ..

/-- Settles O37: ENABLE is `State.writeEvtCtl_enable` and `State.writeEvtCtl_disable`, EVT_HEAD `State.writeHead_unread` and
`State.writeHead_bad`, the LOST record `State.inst_addLost`. -/
theorem eventRingRegisters : Obligations.EventRingRegisters := by
  unfold Obligations.EventRingRegisters
  refine fun s i => ⟨fun v ht hx he hv => ?_, fun v ht hx hv => ?_, fun v ht hx => ?_, fun h => ?_⟩
  · rw [← State.writeEvtCtl_enable he hv]
    exact congrArg Host.Outcome.next (State.pageWrite_taking ht hx (by
      rw [(State.writeEvtCtl_frame _ _ _).get .pwr rfl]; exact State.awake_of_taking ht))
  · rw [← State.writeEvtCtl_disable hv]
    exact congrArg Host.Outcome.next (State.pageWrite_taking ht hx (by
      rw [(State.writeEvtCtl_frame _ _ _).get .pwr rfl]; exact State.awake_of_taking ht))
  · have hgo : exec (.evtHeadWrite i v) s = .next (s.writeHead i.val (fld v 16 0)).answered :=
      congrArg Host.Outcome.next (State.pageWrite_taking (f := fun s => s.writeHead i.val (fld v 16 0)) ht hx (by
        rw [(State.writeHead_frame _ _ _).get .pwr rfl]; exact State.awake_of_taking ht))
    refine ⟨_, hgo, ?_, ?_⟩
    · exact State.answered_eq (s.writeHead_frame i.val (fld v 16 0))
    · by_cases h : fld v 16 0 < 2 ^ ((s.inst i.val).sizeM + 1) ∧ (s.inst i.val).advance (fld v 16 0) ≤ (s.inst i.val).unread
      · obtain ⟨m, hown, hother, hflt⟩ := State.writeHead_unread h
        generalize s.writeHead i.val (fld v 16 0) = t at hown hother hflt
        exact ⟨(congrArg Inst.tail hown).trans rfl, hother, (if_pos h).mpr ⟨(congrArg Inst.head hown).trans rfl, hflt⟩⟩
      · rw [State.writeHead_bad h]
        exact ⟨rfl, fun _ _ => rfl, (if_neg h).mpr ⟨rfl, _, List.mem_append_right _ List.mem_cons_self, rfl, rfl⟩⟩
  · have hgo : exec (.lostRecord i) s = .next (s.addLost i.val) := congrArg Host.Outcome.next (if_pos h)
    have hinst := s.inst_addLost i.val
    have hown := (hinst i.val).trans (if_pos rfl)
    refine ⟨_, s.lostRec i.val, hgo, (congrArg Inst.evWait hown).trans rfl, rfl, ?_, rfl, (congrArg Inst.lost hown).trans rfl,
      rfl, fun j hj => (hinst j).trans (if_neg hj)⟩
    simp [State.lostRec, State.record, leBytes]

end Sys2Proof.Machine
end

section
/-! PROOFS. The bell (R65, R69, R72, R73, R74, R78, R102). -/

namespace Sys2Proof.Machine

open Sys2Proof

/-! ### What a bell leaves of the generator -/

/-- Of the generator only what a plan sets has changed, and the lowest step on show is the one before (R102, R445). -/
def PlanSets (s t : State) : Prop :=
  (∃ ctl period locked, t.bell = { s.bell with ctl, period, locked }) ∧ t.gls.stepMin = s.gls.stepMin

theorem PlanSets.of_same {s t : State} (hb : t.bell = s.bell) (hg : t.gls.stepMin = s.gls.stepMin) : PlanSets s t :=
  ⟨⟨_, _, _, hb⟩, hg⟩

theorem PlanSets.trans {s t u : State} (h : PlanSets s t) (g : PlanSets t u) : PlanSets s u := by
  obtain ⟨⟨_, _, _, hb⟩, hg⟩ := h
  obtain ⟨⟨_, _, _, hb'⟩, hg'⟩ := g
  exact ⟨⟨_, _, _, by rw [hb', hb]⟩, hg'.trans hg⟩

theorem Frame.planSets {ps : List Part} {s t : State} (h : Frame ps s t) (hb : ps.contains .bell = false)
    (hg : ps.contains .gls = false) : PlanSets s t :=
  PlanSets.of_same (h.get .bell hb) (congrArg Glass.stepMin (h.get .gls hg))

theorem State.planTakes_planSets (s : State) (p : Plan) : PlanSets s (s.planTakes p) := by
  refine PlanSets.trans ?_ (Frame.planSets (ps := [.flt])
    (Frame.foldl (fun s _ => State.raise_frame s _ _ _ _ _ _) Frame.refl) rfl rfl)
  exact ⟨⟨_, _, _, rfl⟩, rfl⟩

theorem State.planBell_planSets (s : State) (g : Nat) : PlanSets s (s.planBell g) := by
  unfold State.planBell
  split
  · split
    · exact State.planTakes_planSets ..
    · exact PlanSets.of_same rfl rfl
  · exact PlanSets.of_same rfl rfl

theorem State.loadGlass_planSets (s : State) : PlanSets s s.loadGlass := PlanSets.of_same rfl rfl

theorem State.glassEnds_planSets (s : State) (aligned : Bool) : PlanSets s (s.glassEnds aligned) := by
  have hcarried := (s.carries_frame.planSets rfl rfl).trans (s.carries.planBell_planSets ((s.bell.glass + 1) % 2 ^ 64))
  have htold : ∀ (o : Over) (l : List (Nat × Inst)), PlanSets s
      { s.carries.planBell ((s.bell.glass + 1) % 2 ^ 64) with
        gls := { (s.carries.planBell ((s.bell.glass + 1) % 2 ^ 64)).gls with overNew := some o }, insts := l } := fun _ _ =>
    hcarried.trans (PlanSets.of_same rfl rfl)
  exact (((htold _ _).trans ((State.swapBell_frame _).planSets rfl rfl)).trans (State.loadGlass_planSets _)).trans
    ((State.scrubBell_frame _).planSets rfl rfl)

/-- A bell: POS returns to 0, the glass number rises, the lowest step waits to be published, the step is sampled (R65, R72, R102). -/
def Rang (s t : State) : Prop :=
  ∃ n, t.bell.pos = 0 ∧ t.bell.glass = (s.bell.glass + 1) % 2 ^ 64 ∧ t.bell.out = true ∧ t.gls.snap = some n ∧
    n.min = s.gls.stepNow ∧ t.gls.stepMin = s.gls.stepMin ∧ t.gls.stepBell = s.droop.step ∧ t.gls.stepNow = s.droop.step

theorem Rang.frame {ps : List Part} {s t u : State} (h : Rang s t) (hf : Frame ps t u) (hb : ps.contains .bell = false)
    (hg : ps.contains .gls = false) : Rang s u := by
  have hbell : u.bell = t.bell := hf.get .bell hb
  have hgls : u.gls = t.gls := hf.get .gls hg
  rwa [Rang, hbell, hgls]

theorem State.ring_rang (s : State) (aligned : Bool) : Rang s (s.ring aligned) ∧
    (s.ring aligned).bell.misses = s.bell.misses ∧ (s.ring aligned).bell.miss = s.bell.miss := by
  unfold State.ring
  extract_lets n u
  have hu : PlanSets s u := by
    unfold u
    split
    · exact State.glassEnds_planSets ..
    · exact (State.planBell_planSets ..).trans ((State.scrubBell_frame _).planSets rfl rfl)
  have hdroop : u.droop = s.droop := by
    unfold u
    split
    · exact (State.glassEnds_frame _ _).get .droop rfl
    · exact ((State.scrubBell_frame _).get .droop rfl).trans ((State.planBell_frame _ _).get .droop rfl)
  obtain ⟨⟨ctl, period, locked, hb⟩, hg⟩ := hu
  have hglass : u.bell.glass = s.bell.glass := by rw [hb]
  have hmisses : u.bell.misses = s.bell.misses := by rw [hb]
  have hmiss : u.bell.miss = s.bell.miss := by rw [hb]
  exact ⟨⟨n, rfl, congrArg (fun k => (k + 1) % 2 ^ 64) hglass, rfl, rfl, rfl, hg, congrArg Droop.step hdroop,
    congrArg Droop.step hdroop⟩, hmisses, hmiss⟩

/-! ### The bus clock after a bell -/

theorem State.snap_cutClock (s : State) : s.cutClock.gls.snap = s.gls.snap := by
  unfold State.cutClock
  split <;> rfl

/-- The lowest step of the glass that ended is published on the next bus clock (R102). -/
theorem State.stepMin_nextClock {s : State} {n : Snap} (h : s.gls.snap = some n) : s.nextClock.gls.stepMin = n.min := by
  have hcut : s.clocks.pulsesEnd.bellClock.gls.snap = some n := (State.snap_cutClock _).trans h
  have hpub : s.clocks.pulsesEnd.bellClock.publish.gls.stepMin = n.min := by simp only [State.publish, hcut]
  generalize hv : s.clocks.pulsesEnd.bellClock.publish = v at hpub
  have hrest : v.wakeClock.workClock.alarmClock.droopClock.gls = v.gls := by
    rw [(State.droopClock_frame _).get .gls rfl, (State.alarmClock_frame _).get .gls rfl, (State.workClock_frame _).get .gls rfl,
      (State.wakeClock_frame _).get .gls rfl]
  rw [← hpub, ← hrest, ← hv]
  rfl

/-! ### Its forms -/

theorem State.bell_tellMiss (s : State) (lost : Bool) : (s.tellMiss lost).bell = s.bell :=
  (s.tellMiss_frame lost).get .bell rfl

/-- A bell of the generator with another lock, after which the bus clock may wait for an edge. -/
theorem rang_with {s : State} {b : Bell} (hg : b.glass = s.bell.glass) (aligned : Bool) :
    Rang s ({ s with bell := b }.ring aligned) ∧ ({ s with bell := b }.ring aligned).bell.misses = b.misses ∧
      ({ s with bell := b }.ring aligned).bell.miss = b.miss := by
  obtain ⟨⟨n, hpos, hglass, hrest⟩, hmiss⟩ := State.ring_rang { s with bell := b } aligned
  exact ⟨⟨n, hpos, hglass.trans (by rw [hg]), hrest⟩, hmiss⟩

/-- What each row of the bell does that rings it (R65, R73, R74). -/
theorem bell_rings {s : State} {c : Instr} (hr : s.bellRuns = true)
    (hc : (c = .bell ∧ (s.bell.locked = false ∧ s.bell.period ≤ s.bell.pos ∨
         s.bell.slaved = true ∧ s.bell.locked = true ∧ s.bell.period + s.bell.tol ≤ s.bell.pos)) ∨
      (c = .bellInEdge ∧ s.bell.slaved = true ∧ s.bell.locked = true ∧ s.bell.period ≤ s.bell.pos + s.bell.tol ∧
        s.bell.pos ≤ s.bell.period + s.bell.tol ∧ s.clk.awaits = false) ∨
      (c = .bellMiss ∧ s.bell.slaved = true ∧ s.bell.locked = true ∧ s.bell.period + s.bell.tol ≤ s.bell.pos) ∨
      (c = .bellAcquire ∧ s.bell.slaved = true ∧ s.bell.locked = false ∧ s.bell.period / 2 ≤ s.bell.pos)) :
    ∃ t, exec c s = .next t ∧ Rang s t ∧
      (c = .bellMiss → t.bell.misses = satAdd 16 s.bell.misses 1 ∧ t.bell.miss = true) ∧
      (c ≠ .bellMiss → t.bell.misses = s.bell.misses) ∧ (c = .bell → s.bell.locked = true → t.clk.awaits = true) := by
  rcases hc with ⟨rfl, ⟨hl, ht⟩ | ⟨hs, hl, ht⟩⟩ | ⟨rfl, hs, hl, hlow, hhigh, hw⟩ | ⟨rfl, hs, hl, ht⟩ | ⟨rfl, hs, hl, ht⟩
  · obtain ⟨hrang, hmisses, -⟩ := s.ring_rang false
    have hgo : doBell s = s.ring false := by simp [doBell, hr, Bell.atEdge, Bell.t, hl, ht]
    exact ⟨_, congrArg Host.Outcome.next hgo, hrang, nofun, fun _ => hmisses, fun _ h => absurd (hl.symm.trans h) (by decide)⟩
  · obtain ⟨hrang, hmisses, -⟩ := s.ring_rang false
    have hgo : doBell s = { s.ring false with clk := { s.clk with awaits := true } } := by
      simp [doBell, hr, Bell.atEdge, Bell.t, hs, hl, ht]
    exact ⟨_, congrArg Host.Outcome.next hgo, hrang, nofun, fun _ => hmisses, fun _ _ => rfl⟩
  · obtain ⟨hrang, hmisses, -⟩ := rang_with (b := { s.bell with missRun := 0 }) (s := s) rfl false
    have hgo : doEdge s = { s with bell := { s.bell with missRun := 0 } }.ring false := by
      simp [doEdge, hr, Bell.t, hs, hl, hw, Nat.not_lt.2 hlow, Nat.not_lt.2 hhigh]
    exact ⟨_, congrArg Host.Outcome.next hgo, hrang, nofun, fun _ => hmisses, nofun⟩
  · obtain ⟨hrang, hmisses, hmiss⟩ := rang_with (b := s.bell.missed) (s := s) rfl false
    have hgo : doMiss s = ({ s with bell := s.bell.missed }.ring false).tellMiss (!s.bell.missed.locked) := by
      simp [doMiss, hr, Bell.atEdge, Bell.t, hs, hl, ht]
    have htell := State.tellMiss_frame ({ s with bell := s.bell.missed }.ring false) (!s.bell.missed.locked)
    have hbell := State.bell_tellMiss ({ s with bell := s.bell.missed }.ring false) (!s.bell.missed.locked)
    exact ⟨_, congrArg Host.Outcome.next hgo, hrang.frame htell rfl rfl,
      fun _ => ⟨(congrArg Bell.misses hbell).trans hmisses, (congrArg Bell.miss hbell).trans hmiss⟩, fun h => absurd rfl h, nofun⟩
  · obtain ⟨hrang, hmisses, -⟩ := rang_with (b := { s.bell with locked := true, missRun := 0 }) (s := s) rfl
      (s.bell.t < s.bell.period)
    have hgo : doAcquire s = { s with bell := { s.bell with locked := true, missRun := 0 } }.ring (s.bell.t < s.bell.period) := by
      simp [doAcquire, hr, Bell.t, hs, hl, ht]
    exact ⟨_, congrArg Host.Outcome.next hgo, hrang, nofun, fun _ => hmisses, nofun⟩

theorem State.awaits_tellMiss (s : State) (lost : Bool) : (s.tellMiss lost).clk.awaits = s.clk.awaits := by
  unfold State.tellMiss
  split <;> rfl

/-- A missed edge that is told changes the generator, the bus clock and the collector alone. -/
theorem State.tellMiss_eq {s t : State} (h : Frame [.bell, .clk] s t) (lost : Bool) : t.tellMiss lost =
    { s with bell := (t.tellMiss lost).bell, clk := (t.tellMiss lost).clk, flt := (t.tellMiss lost).flt } := by
  have htold := (h.grow (qs := [.bell, .clk, .flt]) (by decide)).trans ((t.tellMiss_frame lost).grow (by decide))
  generalize t.tellMiss lost = u at htold ⊢
  refine State.eq_of_parts fun p => ?_
  have hp := htold p
  cases p <;> first | rfl | exact hp (by decide)

/-- Settles O16: a row that rings does what `State.ring_rang` says (`bell_rings`), and the next bus clock publishes the lowest step
(`State.stepMin_nextClock`). -/
theorem theBellRings : Obligations.TheBellRings := by
  unfold Obligations.TheBellRings
  refine ⟨fun s c hr hc => ?_, fun s hr hw he => ⟨?_, fun hs hl ht => ?_⟩, fun s hr hs => ⟨fun hl ht hw => ?_, fun hl ht => ?_⟩⟩
  · obtain ⟨t, hgo, ⟨n, hpos, hglass, hout, hsnap, hmin, hstep⟩, hmiss, hno, hawait⟩ := bell_rings hr hc
    obtain ⟨hstepMin, hstepBell, hstepNow⟩ := hstep
    exact ⟨t, n, hgo, hpos, hglass, hout, hsnap, hmin, hstepMin, State.stepMin_nextClock hsnap, hstepBell, hstepNow, hmiss, hno,
      hawait⟩
  · have hgo : doMiss s = ({ s with bell := s.bell.missed, clk := { s.clk with awaits := false } }).tellMiss
        (!s.bell.missed.locked) := by simp [doMiss, hr, hw, he]
    have hset : Frame [.bell, .clk] s { s with bell := s.bell.missed, clk := { s.clk with awaits := false } } := fun p hp => by
      cases p <;> first | rfl | exact absurd hp (by decide)
    have hbell := State.bell_tellMiss { s with bell := s.bell.missed, clk := { s.clk with awaits := false } } (!s.bell.missed.locked)
    exact ⟨_, congrArg Host.Outcome.next hgo, congrArg Bell.misses hbell, congrArg Bell.miss hbell,
      (congrArg Bell.pos hbell).trans rfl, (congrArg Bell.glass hbell).trans rfl, State.awaits_tellMiss .., State.tellMiss_eq hset _⟩
  · have hgo : doEdge s = { s with bell := { s.bell with missRun := 0 }, clk := { s.clk with awaits := false } } := by
      simp [doEdge, hr, Bell.t, hs, hl, hw, Nat.not_lt.2 ht]
    exact congrArg Host.Outcome.next hgo
  · have hin : ¬ s.bell.period + s.bell.tol < s.bell.t := by
      unfold Bell.t
      omega
    have hgo : doEdge s = ({ s with bell := { s.bell with early := true, earlies := satAdd 16 s.bell.earlies 1 } }.noteSet 0x1010
        1).raise 0 0 0 none := by
      simp only [doEdge, hr, hs, hl, hin, hw]
      exact if_pos ht
    exact ⟨_, congrArg Host.Outcome.next hgo, rfl, rfl, by simp [State.noteSet]⟩
  · have hgo : doAcquire s = { s with bell := { s.bell with locked := true, missRun := 0, pos := 0 } } := by
      simp [doAcquire, hr, Bell.t, hs, hl, Nat.not_le.2 ht]
    exact congrArg Host.Outcome.next hgo

end Sys2Proof.Machine
end

section
/-! PROOFS. The steps of start-up from MEMINIT on, and their failures (R489 to R494). -/

namespace Sys2Proof.Machine

open Sys2Proof

theorem State.atStep_of {s : State} {n : Nat} (hu : s.up = true) (h : s.pwr.step = n) : s.atStep n = true := by
  simp [State.atStep, hu, h]

/-! ### START_CTL.LOAD (R490, R491) -/

/-- The Purser's access of the image as it begins: the read that holds the header (R491). -/
def State.imageAcc (s : State) : PurAcc :=
  { image := true, addr := s.pur.img.toNat, data := zeros 256, reqs := imageReads s.pur.img.toNat 0 256, at_ := s.now }

/-- The state in which step LOAD has begun (R489). -/
def State.loading (s : State) : State :=
  { s with
    pwr := { s.pwr with step := 4 }
    pur := { s.pur with state := if s.pur.state = 5 then 5 else 1, acc := some s.imageAcc } }

/-- The control read that holds the header (R491). -/
def State.headerRead (s : State) : CtlReq :=
  { owner := .pur, write := false, inst := 0, gen := 0, addr := s.pur.img.toNat, va := s.pur.img.toNat, bytes := 256, width := 6
    cls := .soft 7, data := [] }

/-- The image's first read joins the control path unless a read of the Purser waits there (R491). -/
theorem State.startLoad_begins {s : State} (hu : s.up = true) (h : s.pwr.step = 3) :
    s.startLoad = if s.purWaits then s.loading else s.loading.putCtl 0 s.headerRead := by
  have hissues : s.loading.pur.issues = true := by simp [State.loading, Purser.issues, Purser.forCommand, State.imageAcc]
  have hgo : s.startLoad = s.loading.purGo := by
    rw [State.startLoad, if_pos (by simp [hu, h])]
    rfl
  have hacc : s.loading.pur.acc = some s.imageAcc := rfl
  have hreqs : s.imageAcc.reqs = [{ va := s.pur.img.toNat, pa := s.pur.img.toNat, width := 6, bytes := 256, fixed := false, off := 0 }] :=
    rfl
  have hwaits : s.loading.purWaits = s.purWaits := rfl
  rw [hgo, State.purGo, hacc]
  simp only [hreqs, hissues, hwaits]
  cases s.purWaits <;> rfl

/-! ### Failures (R489, R494) -/

/-- Start-up has failed with a code: FAILED shows in START_STAT, and in the Purser's STATE unless it is HALTED (R285, R489). -/
def StartFailed (code : Nat) (s t : State) : Prop :=
  t.pwr.step = 8 ∧ t.pur.fail = code ∧ t.pur.state = (if s.pur.state = 5 then 5 else 4) ∧ t.insts = s.insts ∧ t.queues = s.queues ∧
    t.hold = s.hold

theorem State.startFails_failed (s : State) (code : Nat) : StartFailed code s (s.startFails code) := ⟨rfl, rfl, rfl, rfl, rfl, rfl⟩

theorem State.pur_loadEnds (s : State) : s.loadEnds.pur = { s.pur with acc := none } := rfl

theorem State.loadEnds_failed (s : State) (code : Nat) : StartFailed code s (s.loadEnds.startFails code) := by
  have hends := s.loadEnds_frame
  have hpur := s.pur_loadEnds
  generalize s.loadEnds = u at hends hpur
  have hstate : u.pur.state = s.pur.state := by rw [hpur]
  exact ⟨rfl, rfl, by rw [← hstate]; rfl, hends.get .insts rfl, hends.get .queues rfl, hends.get .hold rfl⟩

theorem doMeminit_fails {s : State} {n : Fin 8} (hn : n ≠ 0) (hat : s.atStep 2 = true) (hc : s.pwr.clocked = true)
    (ht : s.pwr.selfTest = true) : doMeminit n s =
      { s.startFails 1 with pwr := { (s.startFails 1).pwr with unit := n.val } } := by
  simp [doMeminit, hat, hc, ht, hn]

theorem doLoad_unread {s : State} {a : PurAcc} (hat : s.atStep 4 = true) (ha : s.pur.acc = some a)
    (h : a.fail.isSome = true ∨ a.isOver = false ∧ a.at_ + 5000000 ≤ s.now) : doLoad s = s.loadEnds.startFails 2 := by
  rcases h with h | ⟨hover, hlate⟩
  · simp [doLoad, hat, ha, State.loadOver, h]
  · simp [doLoad, hat, ha, State.loadOver, hover, hlate]

theorem doLoad_bad {s : State} {a : PurAcc} {code : Nat} (hat : s.atStep 4 = true) (ha : s.pur.acc = some a)
    (hover : a.isOver = true) (hf : a.fail = none) (hbad : imageBad a.data = some code) :
    doLoad s = s.loadEnds.startFails code := by
  simp [doLoad, hat, ha, State.loadOver, hover, hf, hbad]

/-- A sound image is kept with its signature block (R491). -/
theorem doLoad_sound {s : State} {a : PurAcc} (hat : s.atStep 4 = true) (ha : s.pur.acc = some a) (hover : a.isOver = true)
    (hf : a.fail = none) (hbad : imageBad a.data = none) : doLoad s =
      { (s.loadEnds.toStep 5).purState 2 with
        pur := { ((s.loadEnds.toStep 5).purState 2).pur with
          image := a.data.take (64 + codeLen a.data), sig := (a.data.drop (64 + codeLen a.data)).take 256 } } := by
  simp [doLoad, hat, ha, State.loadOver, hover, hf, hbad]

/-- Settles O12: `State.startLoad_begins`, `doLoad_sound` and the other steps as they are defined; what fails ends in FAILED
(`State.startFails_failed`, `State.loadEnds_failed`). -/
theorem startupReachesReadyOrFails : Obligations.StartupReachesReadyOrFails := by
  unfold Obligations.StartupReachesReadyOrFails
  refine ⟨fun s hu => ⟨fun h hc => ?_, fun h ha hp => ?_, fun a h hacc hover hfail hbad => ?_, fun h hc hv => ?_,
    fun h hc hf => ?_⟩, fun s hu c code h => ?_⟩
  · have hat := State.atStep_of hu h
    exact congrArg Host.Outcome.next (by simp [doMeminit, hat, hc, State.newGlass, State.toStep])
  · have hsteer : s.steer .load State.startLoad = s.startLoad := if_pos (by simp [Power.clocked, hp])
    have hgo : exec .startCtlLoad s = .next (s.startLoad).answered := by
      refine congrArg Host.Outcome.next ?_
      rw [← hsteer]
      refine State.portWrite_taking (by simp [State.taking, hu, ha, hp]) _ ?_
      rw [hsteer]
      exact State.startLoad_awake (by simp [Power.awake, hp])
    rw [State.startLoad_begins hu h] at hgo
    cases hw : s.purWaits
    case true =>
      rw [hw] at hgo
      exact ⟨_, hgo, rfl, rfl, rfl, fun h => absurd h (by decide), fun _ _ => rfl, rfl⟩
    case false =>
      rw [hw] at hgo
      have hport : ∀ k, (s.loading.putCtl 0 s.headerRead).port k = _ := fun k => State.port_updPort ..
      refine ⟨_, hgo, rfl, rfl, rfl, fun _ => ⟨s.headerRead, ?_, rfl, rfl, rfl, rfl, rfl, rfl⟩, fun c hc => ?_, rfl⟩
      · exact congrArg MPort.ctl ((hport 0).trans (if_pos rfl))
      · exact (hport c).trans (if_neg hc)
  · have hgo := doLoad_sound (State.atStep_of hu h) hacc hover hfail hbad
    have hends := s.loadEnds_frame
    have hpur := s.pur_loadEnds
    generalize s.loadEnds = u at hgo hends hpur
    have hpwr : u.pwr = s.pwr := hends.get .pwr rfl
    have hstate : u.pur.state = s.pur.state := by rw [hpur]
    refine ⟨_, congrArg Host.Outcome.next hgo, ?_, ?_, ?_, rfl, rfl, hends.get .insts rfl, hends.get .hold rfl⟩
    · rw [← hpwr]
      rfl
    · rw [← hstate]
      rfl
    · exact congrArg Purser.acc hpur
  · have hat := State.atStep_of hu h
    exact congrArg Host.Outcome.next (by simp [doVerify, hat, hc, hv, State.toStep])
  · have hat := State.atStep_of hu h
    have hgo : doFwinit true s = s.ready := by simp [doFwinit, hat, hc, hf]
    refine ⟨_, congrArg Host.Outcome.next hgo, rfl, rfl, rfl, rfl, fun i hi => ?_, ?_, rfl⟩
    · simp [State.exists_, State.inst, State.ready, tabGet, Ne.symm hi]
    · show (if (if s.pur.state = 5 then 5 else 3) = 3 then verOf s.pur.image else s.pur.ver) = _
      split <;> simp_all
  · rcases h with ⟨n, rfl, hn, h, hc, ht, rfl⟩ | ⟨a, rfl, h, ha, hf, rfl⟩ | ⟨a, rfl, h, ha, hover, hf, hbad⟩ | ⟨rfl, h, hc, hv⟩ |
      ⟨rfl, h, hc, hf, rfl⟩
    · have hgo := doMeminit_fails hn (State.atStep_of hu h) hc ht
      obtain ⟨-, hfail, hstate, hrest⟩ := s.startFails_failed 1
      refine ⟨_, congrArg Host.Outcome.next hgo, rfl, hfail, hstate, fun m hm => ?_, hrest⟩
      cases hm
      rfl
    · have hgo := doLoad_unread (State.atStep_of hu h) ha hf
      obtain ⟨hstep, hfail, hstate, hrest⟩ := s.loadEnds_failed 2
      exact ⟨_, congrArg Host.Outcome.next hgo, hstep, hfail, hstate, nofun, hrest⟩
    · have hgo := doLoad_bad (State.atStep_of hu h) ha hover hf hbad
      obtain ⟨hstep, hfail, hstate, hrest⟩ := s.loadEnds_failed code
      exact ⟨_, congrArg Host.Outcome.next hgo, hstep, hfail, hstate, nofun, hrest⟩
    · have hat := State.atStep_of hu h
      have hgo : doVerify s = s.startFails code := by simp [doVerify, hat, hc, hv]
      obtain ⟨hstep, hfail, hstate, hrest⟩ := s.startFails_failed code
      exact ⟨_, congrArg Host.Outcome.next hgo, hstep, hfail, hstate, nofun, hrest⟩
    · have hat := State.atStep_of hu h
      have hgo : doFwinit false s = s.startFails 9 := by simp [doFwinit, hat, hc, hf]
      obtain ⟨hstep, hfail, hstate, hrest⟩ := s.startFails_failed 9
      exact ⟨_, congrArg Host.Outcome.next hgo, hstep, hfail, hstate, nofun, hrest⟩

end Sys2Proof.Machine
end

section
/-! PROOFS. Mailboxes and the start of commands (R288, R289, R292, R293, R393). -/

namespace Sys2Proof.Machine

open Sys2Proof

theorem tabSet_tabSet {α : Type} (t : List (Nat × α)) (k : Nat) (v w : α) : tabSet (tabSet t k v) k w = tabSet t k w := by
  induction t with
  | nil => simp [tabSet]
  | cons p rest ih =>
    obtain ⟨j, u⟩ := p
    by_cases hj : j = k
    · simp [tabSet, hj]
    · by_cases hk : k < j <;> simp [tabSet, hj, hk, ih]

theorem State.updMb_updMb (s : State) (m : Nat) (f g : Mbox → Mbox) : (s.updMb m f).updMb m g = s.updMb m (fun b => g (f b)) := by
  have hget : tabGet {} (tabUpd {} s.mbs m f) m = f (tabGet {} s.mbs m) := by simp [tabUpd, tabGet_tabSet]
  have htab : tabUpd {} (tabUpd {} s.mbs m f) m g = tabUpd {} s.mbs m (fun b => g (f b)) := by
    rw [tabUpd, hget]
    exact tabSet_tabSet ..
  simp only [State.updMb, htab]

/-- GO submits the request of a mailbox that is not BUSY while the Purser is READY (R288). -/
theorem State.mbCtl_submits {s : State} {m : Nat} (hp : s.pur.state = 3) (hb : (s.mb m).busy = false) (en : Bool) :
    s.mbCtl m en true = s.updMb m (fun b => { b with
      irqEn := en, busy := true, done := false
      sub := some ((List.range 8).flatMap (fun w => leBytes 8 (tabGet 0 b.req w).toNat)) }) := by
  have hbusy : ((s.updMb m (fun b => { b with irqEn := en })).mb m).busy = false := by simp [hb]
  rw [State.mbCtl]
  rw [if_pos (by simp [hp, hb])]
  exact State.updMb_updMb ..

theorem State.mbCtl_irqOnly {s : State} {m : Nat} (h : s.pur.state ≠ 3 ∨ (s.mb m).busy = true) (en : Bool) :
    s.mbCtl m en true = s.updMb m (fun b => { b with irqEn := en }) := by
  rw [State.mbCtl]
  rw [if_neg (by rcases h with h | h <;> simp [h])]

/-- The lowest mailbox with a request not yet started (R292). -/
theorem State.nextMb_lowest {s : State} {m : Nat} {raw : List Byte} (h : s.nextMb = some (m, raw)) :
    (s.mb m).sub = some raw ∧ ∀ k, k < m → (s.mb k).sub = none := by
  obtain ⟨n, hn, hraw⟩ := Option.bind_eq_some_iff.1 h
  obtain ⟨r, hr, heq⟩ := Option.map_eq_some_iff.1 hraw
  cases heq
  refine ⟨hr, fun k hk => ?_⟩
  have hlow := (List.find?_range_eq_some.1 hn).2.2 k hk
  simpa using hlow

/-- The Purser may start a command (R289, R292, R293, R475). -/
theorem doCommandStart_free {s : State} (hr : s.purRuns = true) (hc : s.pur.cur = none) (ha : s.pur.accAt ≠ some s.now)
    (hp : s.pwr.phase = .run) :
    (!s.purRuns || s.pur.cur.isSome || s.pur.accAt == some s.now || s.pwr.phase != .run) = false := by
  simp [hr, hc, ha, hp]

theorem doCommandStart_mailbox {s : State} {m : Nat} {raw : List Byte} (hr : s.purRuns = true) (hc : s.pur.cur = none)
    (ha : s.pur.accAt ≠ some s.now) (hp : s.pwr.phase = .run) (hm : s.nextMb = some (m, raw)) : doCommandStart s =
      if opcode raw ∈ cmdOpcodes then
        { s.updMb m (fun b => { b with sub := none }) with pur := { s.pur with cur := some { src := .mailbox m, raw, start := s.age } } }
      else (s.updMb m (fun b => { b with sub := none })).answer (.mailbox m) (s.cmdHeader (.mailbox m) raw 0x40 ++ zeros 56) := by
  simp only [doCommandStart, doCommandStart_free hr hc ha hp, hm]
  rfl

theorem State.nextAdmin_of {s : State} {q : Queue} {e : Entry} (hq : s.queue? 0 = some q)
    (he : q.entries.find? (fun e => !e.started) = some e) :
    s.nextAdmin = if e.bad = 0 ∧ e.ended = 0 ∧ q.fenceMet e = true then some e else none := by
  simp only [State.nextAdmin, hq, he, Option.filter]
  simp [and_assoc]

theorem doCommandStart_admin {s : State} {e : Entry} (hr : s.purRuns = true) (hc : s.pur.cur = none)
    (ha : s.pur.accAt ≠ some s.now) (hp : s.pwr.phase = .run) (hm : s.nextMb = none) (he : s.nextAdmin = some e) :
    doCommandStart s = { s.updEntry 0 e.seq (fun e => { e with started := true }) with
      pur := { s.pur with cur := some { src := .queue e.seq, raw := e.raw, start := s.age } } } := by
  have hu := s.updEntry_frame 0 e.seq (fun e => { e with started := true })
  have hpur : (s.updEntry 0 e.seq (fun e => { e with started := true })).pur = s.pur := hu.get .pur rfl
  have hage : (s.updEntry 0 e.seq (fun e => { e with started := true })).age = s.age := hu.get .age rfl
  simp only [doCommandStart, doCommandStart_free hr hc ha hp, hm, he]
  rw [hpur, hage]
  rfl

/-- A state whose mailbox has given up its request and been answered. -/
theorem State.mb_answered (s : State) (m : Nat) (bytes : List Byte) (k : Nat) :
    ((s.updMb m (fun b => { b with sub := none })).answer (.mailbox m) bytes).mb k =
      if k = m then { s.mb m with sub := none, rsp := bytes, busy := false, done := true } else s.mb k := by
  show ((s.updMb m (fun b => { b with sub := none })).updMb m (fun b => { b with rsp := bytes, busy := false, done := true })).mb k = _
  rw [State.updMb_updMb, State.mb_updMb]

/-- Settles O42: a write of MB_CTL is `State.mbCtl_submits` and `State.mbCtl_irqOnly`; the Purser's choice is the lowest mailbox
(`State.nextMb_lowest`), then the admin entry of `State.nextAdmin_of`. -/
theorem commandsStart : Obligations.CommandsStart := by
  unfold Obligations.CommandsStart
  refine fun s => ⟨fun m en ht hp hb => ?_, fun m en ht h => ?_, fun m raw hr hc ha hph hm => ?_,
    fun e q hr hc ha hph hm hq he hbad hend hf => ?_, fun e q hm hq he hf => ?_, fun h => ?_⟩
  · rw [← State.mbCtl_submits hp hb]
    refine congrArg Host.Outcome.next (State.portWrite_taking_of_pwr ht _ ?_)
    rw [State.mbCtl_submits hp hb]
    rfl
  · rw [← State.mbCtl_irqOnly h]
    refine congrArg Host.Outcome.next (State.portWrite_taking_of_pwr ht _ ?_)
    rw [State.mbCtl_irqOnly h]
    rfl
  · have hgo := doCommandStart_mailbox hr hc ha hph hm
    refine ⟨(State.nextMb_lowest hm).2, _, congrArg Host.Outcome.next hgo, ?_⟩
    by_cases hop : opcode raw ∈ cmdOpcodes
    · have hmb := fun k => s.mb_updMb m (fun b => { b with sub := none }) k
      rw [if_pos hop]
      exact ⟨congrArg Mbox.sub ((hmb m).trans (if_pos rfl)), fun k hk => (hmb k).trans (if_neg hk), rfl,
        fun _ => ⟨rfl, (congrArg Mbox.busy ((hmb m).trans (if_pos rfl))).trans rfl⟩, fun h => absurd hop h⟩
    · have hmb := s.mb_answered m (s.cmdHeader (.mailbox m) raw 0x40 ++ zeros 56)
      have hown := (hmb m).trans (if_pos rfl)
      rw [if_neg hop]
      exact ⟨congrArg Mbox.sub hown, fun k hk => (hmb k).trans (if_neg hk), rfl, fun h => absurd h hop,
        fun _ => ⟨rfl, congrArg Mbox.busy hown, congrArg Mbox.done hown, congrArg Mbox.rsp hown⟩⟩
  · have hnext := (State.nextAdmin_of hq he).trans (if_pos ⟨hbad, hend, hf⟩)
    exact congrArg Host.Outcome.next (doCommandStart_admin hr hc ha hph hm hnext)
  · have hnext := (State.nextAdmin_of hq he).trans (if_neg fun h => absurd (hf.symm.trans h.2.2) (by decide))
    refine congrArg Host.Outcome.next ?_
    simp only [doCommandStart, hm, hnext]
    split <;> rfl
  · refine congrArg Host.Outcome.next (if_pos ?_)
    rcases h with h | h | h | h
    · simp [h]
    · simp [Option.isSome_iff_ne_none.2 h]
    · simp [h]
    · simp [h]

end Sys2Proof.Machine
end

section
/-! PROOFS. Bytes of words and of completions (R3, R298). -/

namespace Sys2Proof.Machine

open Sys2Proof

@[simp] theorem length_leBytes (n v : Nat) : (leBytes n v).length = n := by
  induction n generalizing v with
  | zero => rfl
  | succ n ih => simp [leBytes, ih]

@[simp] theorem length_zeros (n : Nat) : (zeros n).length = n := by simp [zeros]

theorem leNat_leBytes (n v : Nat) : leNat (leBytes n v) = v % 256 ^ n := by
  induction n generalizing v with
  | zero => simp [leBytes, leNat, Nat.mod_one]
  | succ n ih => rw [leBytes, leNat, ih, BitVec.toNat_ofNat, pow_succ' 256 n, Nat.mod_mul]

theorem drop_leBytes (k n v : Nat) : (leBytes (k + n) v).drop k = leBytes n (v / 256 ^ k) := by
  induction k generalizing v with
  | zero => simp
  | succ k ih =>
    rw [Nat.add_right_comm, leBytes, List.drop_succ_cons, ih, Nat.div_div_eq_div_mul, Nat.pow_succ, Nat.mul_comm 256]

theorem take_leBytes (k n v : Nat) : (leBytes (k + n) v).take k = leBytes k v := by
  induction k generalizing v with
  | zero => simp [leBytes]
  | succ k ih => rw [Nat.add_right_comm, leBytes, List.take_succ_cons, ih, leBytes]

/-- Bytes of a number that stands first. -/
theorem at_leBytes_append (off k n v : Nat) (rest : List Byte) :
    at_ (leBytes (off + (k + n)) v ++ rest) off k = v / 256 ^ off % 256 ^ k := by
  have htake : ((leBytes (off + (k + n)) v ++ rest).drop off).take k = leBytes k (v / 256 ^ off) := by
    rw [List.drop_append_of_le_length (by simp), drop_leBytes, List.take_append_of_le_length (by simp), take_leBytes]
  rw [at_, htake, leNat_leBytes]

/-- What stands after the first bytes. -/
theorem at_append {l : List Byte} {off m : Nat} (h : l.length + off = m) (rest : List Byte) (k : Nat) :
    at_ (l ++ rest) m k = at_ rest off k := by
  rw [at_, at_, ← h, List.drop_length_add_append]

/-- A bit of packed fields is the bit of a field that covers it. -/
theorem testBit_pack (l : List (Nat × Nat × Nat)) {i : Nat} (h : i < 64) : (pack l).toNat.testBit i =
    l.any (fun f => decide (f.2.1 ≤ i) && decide (i - f.2.1 < f.1 + 1 - f.2.1) && f.2.2.testBit (i - f.2.1)) := by
  induction l with
  | nil => simp [pack]
  | cons f rest ih =>
    obtain ⟨hi, lo, v⟩ := f
    rw [pack, BitVec.toNat_or, Nat.testBit_or, ih, List.any_cons]
    congr 1
    rw [BitVec.toNat_ofNat, Nat.testBit_mod_two_pow, Nat.testBit_shiftLeft, Nat.testBit_mod_two_pow]
    simp [h, Bool.and_assoc]

/-! ### Completions (R298) -/

/-- The field of a packed word that begins at a bit, where no other field covers it. -/
theorem pack_byte {l : List (Nat × Nat × Nat)} {k v : Nat} (hk : 8 * k + 8 ≤ 64) (hv : v < 256)
    (h : ∀ j < 8, l.any (fun f => decide (f.2.1 ≤ 8 * k + j) && decide (8 * k + j - f.2.1 < f.1 + 1 - f.2.1) &&
      f.2.2.testBit (8 * k + j - f.2.1)) = v.testBit j) : (pack l).toNat / 256 ^ k % 256 ^ 1 = v := by
  have h256 : ∀ n : Nat, 256 ^ n = 2 ^ (8 * n) := fun n => by rw [Nat.pow_mul]
  refine Nat.eq_of_testBit_eq fun j => ?_
  rw [h256, h256, Nat.testBit_mod_two_pow, Nat.testBit_div_two_pow]
  by_cases hj : j < 8
  · rw [Nat.add_comm j, testBit_pack l (by omega), h j hj]
    simp [hj]
  · have hbig : v < 2 ^ j := Nat.lt_of_lt_of_le hv (Nat.pow_le_pow_right (n := 2) (by decide) (Nat.le_of_not_lt hj))
    simp [hj, Nat.testBit_lt_two_pow hbig]

/-- Bits 8 to 15 of a completion's header are its opcode, bits 16 to 23 its status (R298). -/
theorem pack_header (gen x status op lap : Nat) (hop : op < 256) (hst : status < 256) :
    (pack [(63, 48, gen), (47, 32, x), (23, 16, status), (15, 8, op), (1, 1, lap)]).toNat / 256 ^ 1 % 256 ^ 1 = op ∧
    (pack [(63, 48, gen), (47, 32, x), (23, 16, status), (15, 8, op), (1, 1, lap)]).toNat / 256 ^ 2 % 256 ^ 1 = status := by
  constructor
  · refine pack_byte (k := 1) (by decide) hop fun j hj => ?_
    have h1 : ¬ 48 ≤ 8 + j := by omega
    have h2 : ¬ 32 ≤ 8 + j := by omega
    have h3 : ¬ 16 ≤ 8 + j := by omega
    simp [h1, h2, h3, hj]
  · refine pack_byte (k := 2) (by decide) hst fun j hj => ?_
    have h1 : ¬ 48 ≤ 16 + j := by omega
    have h2 : ¬ 32 ≤ 16 + j := by omega
    have h3 : ¬ 16 + j - 8 < 8 := by omega
    simp [h1, h2, h3, hj]

theorem opcode_lt (raw : List Byte) : opcode raw < 256 := Nat.mod_lt _ (by decide)

/-- A completion's header is 8 B (R298). -/
theorem State.cmdHeader_eq (s : State) (src : CmdSrc) (raw : List Byte) (status : Nat) : ∃ gen lap, s.cmdHeader src raw status =
    leBytes 8 (pack [(63, 48, gen), (47, 32, hfld raw 47 32), (23, 16, status), (15, 8, opcode raw), (1, 1, lap)]).toNat := by
  unfold State.cmdHeader
  split
  exact ⟨_, _, rfl⟩

/-- The bytes of a completion with DONE (R298). -/
theorem State.doneBytes_fields (s : State) (src : CmdSrc) (raw : List Byte) (effect : Nat) {ret : List Byte} (h : ret.length ≤ 32) :
    (s.doneBytes src raw 0 0 0 effect ret).length = 64 ∧ at_ (s.doneBytes src raw 0 0 0 effect ret) 2 1 = 0 ∧
      at_ (s.doneBytes src raw 0 0 0 effect ret) 1 1 = opcode raw ∧ at_ (s.doneBytes src raw 0 0 0 effect ret) 8 2 = 0 ∧
      at_ (s.doneBytes src raw 0 0 0 effect ret) 16 8 = effect % 2 ^ 64 ∧
      at_ (s.doneBytes src raw 0 0 0 effect ret) 24 8 = s.bell.glass % 2 ^ 64 ∧
      ((s.doneBytes src raw 0 0 0 effect ret).drop 32).take ret.length = ret := by
  obtain ⟨gen, lap, hheader⟩ := s.cmdHeader_eq src raw 0
  obtain ⟨hop, hst⟩ := pack_header gen (hfld raw 47 32) 0 (opcode raw) lap (opcode_lt raw) (by decide)
  have hbytes : s.doneBytes src raw 0 0 0 effect ret = leBytes 8 (pack [(63, 48, gen), (47, 32, hfld raw 47 32), (23, 16, 0),
      (15, 8, opcode raw), (1, 1, lap)]).toNat ++ (leBytes 2 0 ++ (leBytes 2 0 ++ (leBytes 4 0 ++ (leBytes 8 effect ++
        (leBytes 8 s.bell.glass ++ (ret ++ zeros (32 - ret.length))))))) := by
    simp only [State.doneBytes, hheader, List.append_assoc]
  rw [hbytes]
  refine ⟨?_, ?_, ?_, ?_, ?_, ?_, ?_⟩
  · simp
    omega
  · exact (at_leBytes_append 2 1 5 _ _).trans hst
  · exact (at_leBytes_append 1 1 6 _ _).trans hop
  · rw [at_append (off := 0) (by simp)]
    exact at_leBytes_append 0 2 0 0 _
  · rw [at_append (off := 8) (by simp), at_append (off := 6) (by simp), at_append (off := 4) (by simp),
      at_append (off := 0) (by simp), at_leBytes_append 0 8 0 effect]
    simp
  · rw [at_append (off := 16) (by simp), at_append (off := 14) (by simp), at_append (off := 12) (by simp),
      at_append (off := 8) (by simp), at_append (off := 0) (by simp), at_leBytes_append 0 8 0 s.bell.glass]
    simp
  · have hall : ∀ a b c d e f rest : List Byte, a ++ (b ++ (c ++ (d ++ (e ++ (f ++ rest))))) = (a ++ b ++ c ++ d ++ e ++ f) ++ rest := by
      simp
    rw [hall, List.drop_left' (by simp), List.take_left]

theorem State.queues_updEntry_congr {s t : State} (h : t.queues = s.queues) (g seq : Nat) (f : Entry → Entry) :
    (t.updEntry g seq f).queues = (s.updEntry g seq f).queues := by
  simp only [State.updEntry, State.updQueue, State.queue_congr h g]
  split
  · simp only [h]
  · exact h

/-- Settles O43: the bytes are those of `State.doneBytes_fields`, and `State.answer` takes them to the command's source. -/
theorem completionsReachTheirSource : Obligations.CompletionsReachTheirSource := by
  unfold Obligations.CompletionsReachTheirSource
  rintro s c effect ret t rfl hret
  have hans := s.stepEnds.answer_frame c.src (s.doneBytes c.src c.raw 0 0 0 effect ret)
  have hstep : Frame [.clk, .mbs, .queues, .pur] s (s.done c effect ret) :=
    ((s.stepEnds_frame).grow (by decide)).trans (hans.grow (by decide))
  refine ⟨hans.get .pur rfl, State.eq_of_parts fun p => ?_, fun bytes hb => ?_⟩
  · have hp := hstep p
    generalize s.done c effect ret = t at hp ⊢
    cases p <;> first | rfl | exact hp (by decide)
  · subst hb
    obtain ⟨hlen, hst, hop, hres, heff, hglass, hr⟩ := s.doneBytes_fields c.src c.raw effect hret
    refine ⟨hlen, hst, hop, hres, heff, hglass, hr, fun m hm => ?_, fun seq hseq => ?_⟩
    · have hmb := s.stepEnds.mb_updMb m (fun b => { b with
        rsp := s.doneBytes c.src c.raw 0 0 0 effect ret, busy := false, done := true })
      rw [State.done, hm] at *
      exact ⟨(hmb m).trans (if_pos rfl), rfl, fun k hk => (hmb k).trans (if_neg hk)⟩
    · rw [State.done, hseq]
      exact ⟨(State.updEntry_frame _ _ _ _).get .mbs rfl, State.queues_updEntry_congr (s := s) (t := s.stepEnds) rfl ..⟩

end Sys2Proof.Machine
end

section
/-! PROOFS. Accesses of the Purser as they begin (R296). -/

namespace Sys2Proof.Machine

open Sys2Proof

theorem State.onCmd_of_kind {s : State} {c : Cmd} {op : Nat} {kind : Nat → Bool} (hr : s.purRuns = true)
    (hc : s.pur.cur = some c) (ho : opcode c.raw = op) (hk : kind (cOp c.raw) = true) (f : Cmd → State → State) :
    s.onCmd op kind f = f c s := by
  simp [State.onCmd, State.running, hr, hc, Option.filter, ho, hk]

/-- A command with one failed check is refused with it. -/
theorem State.checked_one {s : State} {c : Cmd} {rs : List Refuse} {r : Refuse} (h : rs = [r]) (go : State) :
    s.checked c rs go = s.refuse c r := by
  rw [h]
  rfl

theorem State.state_of_purRuns {s : State} (h : s.purRuns = true) : s.pur.state = 3 := by
  simp only [State.purRuns, Bool.and_eq_true, beq_iff_eq] at h
  exact h.1.1.2

/-- The next request of an access changes nothing else of the Purser but what the access may have failed with. -/
theorem State.pur_purGo {s : State} {a : PurAcc} (h : s.pur.acc = some a) :
    ∃ f, s.purGo.pur = { s.pur with acc := some { a with fail := f } } := by
  have hsame : s.pur = { s.pur with acc := some { a with fail := a.fail } } := by
    show s.pur = { s.pur with acc := some a }
    rw [← h]
  unfold State.purGo
  simp only [h]
  split
  · exact ⟨_, hsame⟩
  · split
    · exact ⟨_, hsame⟩
    · split
      · exact ⟨_, hsame⟩
      · split
        · exact ⟨_, hsame⟩
        · exact ⟨some none, by simp [State.updAcs, State.dropWalked, h]⟩
        · exact ⟨_, hsame⟩

/-- The first request of an access of n bytes begins at its address (R296). -/
theorem shape_first {n : Nat} (hn : 0 < n) (addr : Nat) : ∃ k rest, shape false false 6 addr n = k :: rest ∧ k.addr = addr := by
  have hfirst : shape false false 6 addr n = _ := (chunks64.eq_2 addr n 0 (n / 64 + 15)).trans (if_neg (by omega))
  exact ⟨_, _, hfirst, rfl⟩

/-- The access of the Purser that reads or writes n bytes at an address, as it begins (R296). -/
def State.newAcc (s : State) (write : Bool) (addr n : Nat) (data : List Byte) : PurAcc :=
  { write, addr, data := if write then data else zeros n, at_ := s.now
    reqs := (shape false false 6 addr n).map (fun k =>
      { va := k.addr, pa := k.addr, width := k.width, bytes := k.bytes, fixed := false, off := k.off : Req }) }

/-- An access's first request joins the control path of port 0 in the class of instance 0's soft budgets (R296). -/
def PurJoins (s t : State) (addr : Nat) (write : Bool) : Prop :=
  ∀ pa, s.purWaits = false → s.xlate .pur 0 addr write = .ok pa →
    ∃ r, (t.port 0).ctl = (s.port 0).ctl ++ [r] ∧ r.owner = .pur ∧ r.write = write ∧ r.inst = 0 ∧ r.addr = pa ∧ r.cls = .soft 7

theorem State.purBegin_joins {s : State} {n : Nat} (hn : 0 < n) (hp : s.pur.state ≠ 5) (write : Bool) (addr : Nat)
    (data : List Byte) : PurJoins s (s.purBegin write addr n data) addr write := by
  intro pa hw hx
  obtain ⟨k, rest, hshape, haddr⟩ := shape_first hn addr
  have hreqs : (s.newAcc write addr n data).reqs =
      ({ va := k.addr, pa := k.addr, width := k.width, bytes := k.bytes, fixed := false, off := k.off } : Req) ::
        rest.map (fun k => { va := k.addr, pa := k.addr, width := k.width, bytes := k.bytes, fixed := false, off := k.off }) := by
    rw [State.newAcc, hshape]
    rfl
  have hissues : ∀ a, ({ s.pur with acc := some a } : Purser).issues = true := fun a => by simp [Purser.issues, hp]
  have hacc : s.purBegin write addr n data =
      { s with pur := { s.pur with acc := some (s.newAcc write addr n data) } }.purGo := rfl
  have hx' : { s with pur := { s.pur with acc := some (s.newAcc write addr n data) } }.xlate .pur 0 k.addr write = .ok pa := by
    rw [haddr]
    exact hx
  have hwaits : { s with pur := { s.pur with acc := some (s.newAcc write addr n data) } }.purWaits = false := hw
  have himage : (s.newAcc write addr n data).image = false := rfl
  have hwrite : (s.newAcc write addr n data).write = write := rfl
  have hfree : ((s.newAcc write addr n data).fail.isSome || decide (64 ≤ (s.newAcc write addr n data).out)) = false := rfl
  rw [hacc, State.purGo]
  simp only [hreqs, hissues, hwaits, himage, hwrite, hfree, hx', Bool.false_or, Bool.not_true, Bool.false_eq_true, if_false]
  refine ⟨_, congrArg MPort.ctl ((State.port_updPort ..).trans (if_pos rfl)), rfl, rfl, rfl, rfl, rfl⟩

/-- The access that a command begins (R296). -/
theorem State.purBegin_access (s : State) (write : Bool) (addr n : Nat) (data : List Byte) : ∃ a,
    (s.purBegin write addr n data).pur = { s.pur with acc := some a } ∧ a.write = write ∧ a.image = false ∧ a.addr = addr ∧
      a.data = if write then data else zeros n := by
  obtain ⟨f, hf⟩ := State.pur_purGo (s := { s with pur := { s.pur with acc := some (s.newAcc write addr n data) } }) rfl
  exact ⟨_, hf, rfl, rfl, rfl, rfl⟩

theorem State.purBegin_eq (s : State) (write : Bool) (addr n : Nat) (data : List Byte) : s.purBegin write addr n data =
    { s with
      pur := (s.purBegin write addr n data).pur, ports := (s.purBegin write addr n data).ports
      cc := (s.purBegin write addr n data).cc, walked := (s.purBegin write addr n data).walked } := by
  have hframe := s.purBegin_frame write addr n data
  generalize s.purBegin write addr n data = t at hframe ⊢
  refine State.eq_of_parts fun p => ?_
  have hp := hframe p
  cases p <;> first | rfl | exact hp (by decide)

end Sys2Proof.Machine
end

section
/-! PROOFS. QUERY, and the commands that read a share record (R296, R302, R306, R314). -/

namespace Sys2Proof.Machine

open Sys2Proof

/-! ### Commands that access memory (R296) -/

section
variable {s : State} {c : Cmd} {addr n : Nat} {early : List Refuse} {go : List Byte → State → State} {bytes : List Byte} {a : PurAcc}

theorem State.purRead_begins (ha : s.pur.acc = none) (he : early = []) :
    s.purRead c addr n early go = s.purBegin false addr n [] := by
  simp only [State.purRead, ha]
  exact State.checked_nil he _

theorem State.purWrite_begins (ha : s.pur.acc = none) (he : early = []) :
    s.purWrite c addr early bytes = s.accepts.purBegin true addr bytes.length bytes := by
  simp only [State.purWrite, ha]
  exact State.checked_nil he _

theorem State.purRead_waits (ha : s.pur.acc = some a) (ho : a.isOver = false) : s.purRead c addr n early go = s := by
  simp [State.purRead, ha, ho]

theorem State.purWrite_waits (ha : s.pur.acc = some a) (ho : a.isOver = false) : s.purWrite c addr early bytes = s := by
  simp [State.purWrite, ha, ho]

theorem State.purRead_over (ha : s.pur.acc = some a) (ho : a.isOver = true) (hf : a.fail = none) (he : early = []) :
    s.purRead c addr n early go = go a.data s.accEnds := by
  simp only [State.purRead, ha, ho, hf]
  exact State.checked_nil he _

theorem State.purWrite_over (ha : s.pur.acc = some a) (ho : a.isOver = true) (hf : a.fail = none) :
    s.purWrite c addr early bytes = s.accEnds.curEnds.answer c.src (s.doneBytes c.src c.raw 0 0 0 0 []) := by
  simp [State.purWrite, ha, ho, hf]

/-- A write that failed ends its command with MEM_ERR under PUR_MEM_ERR (R296, R298). -/
theorem State.purWrite_fails {st : Option Nat} (ha : s.pur.acc = some a) (ho : a.isOver = true) (hf : a.fail = some st)
    (hh : s.memErrHalts = false) : ∃ answer, s.purWrite c addr early bytes = (s.accEnds.purMemErr c).curEnds.answer c.src answer :=
  ⟨_, by simp only [State.purWrite, ha, ho, hf, hh]; rfl⟩

end

/-! ### QUERY (R314) -/

theorem doQueryVersions_versions {s : State} {c : Cmd} (h : cOp c.raw = 0) :
    doQueryVersions c s = s.done c 0 (leBytes 8 s.pur.ver.toNat ++ leBytes 8 tltId.toNat) :=
  State.checked_nil (by simp [h]) _

theorem doQueryVersions_bad {s : State} {c : Cmd} (h : 2 < cOp c.raw) :
    doQueryVersions c s = s.refuse c { code := 1, place := .at_ 6 12 } := by
  have hop : (cOp c.raw == 0) = false := beq_false_of_ne (by omega)
  exact State.checked_one (by simp [need, hop]) _

/-- The write of a record is one of QUERY OP 1 and OP 2, whose checks pass. -/
theorem exec_query {s : State} {c : Cmd} (hr : s.purRuns = true) (hc : s.pur.cur = some c) (ho : opcode c.raw = 0x80) {x : Instr}
    {bytes : List Byte}
    (h : x = Instr.queryInstance ∧ cOp c.raw = 1 ∧ cInst c.raw < 1024 ∧ s.exists_ (cInst c.raw) = true ∧
          bytes = s.instRecord (cInst c.raw) ∨ x = Instr.queryPool ∧ cOp c.raw = 2 ∧ bytes = s.poolRecord)
    (hn : nodeOf (cAddr c.raw) = s.node) (ha : localOf (cAddr c.raw) % 64 = 0) :
    ∃ early, early = [] ∧ exec x s = .next (s.purWrite c (cAddr c.raw) early bytes) ∧ 0 < bytes.length := by
  have haddr : s.addrOk (cAddr c.raw) 64 16 = [] := by simp [State.addrOk, hn, ha]
  rcases h with ⟨rfl, hop, hi, he, rfl⟩ | ⟨rfl, hop, rfl⟩
  · have hinst : s.instOk c.raw false false = [] := by simp [State.instOk, hi, he]
    exact ⟨s.instOk c.raw false false ++ s.addrOk (cAddr c.raw) 64 16, by simp [haddr, hinst],
      congrArg Host.Outcome.next (State.onCmd_of_kind hr hc ho (by simp [hop]) _), by simp [State.instRecord]⟩
  · exact ⟨s.addrOk (cAddr c.raw) 64 16, haddr, congrArg Host.Outcome.next (State.onCmd_of_kind hr hc ho (by simp [hop]) _),
      by simp [State.poolRecord]⟩

/-- Settles O44: OP 0 and an OP above 2 are answered at once; a record is written as `State.purBegin_access` says, and the answer
follows the write. -/
theorem queriesAnswer : Obligations.QueriesAnswer := by
  unfold Obligations.QueriesAnswer
  refine fun s c hr hc ho => ⟨fun h => ?_, fun h => ?_, fun x bytes hx hn hal => ?_⟩
  · refine congrArg Host.Outcome.next ?_
    rw [State.onCmd_of_kind hr hc ho (by simp [h]), doQueryVersions_versions h]
  · refine congrArg Host.Outcome.next ?_
    rw [State.onCmd_of_kind hr hc ho (by simp [h]), doQueryVersions_bad h]
  · obtain ⟨early, he, hgo, hlen⟩ := exec_query hr hc ho hx hn hal
    have hstate : s.accepts.pur.state ≠ 5 := by
      rw [show s.accepts.pur.state = 3 from State.state_of_purRuns hr]
      decide
    refine ⟨fun ha => ?_, fun a ha hover hf => ?_, fun a st ha hover hf hh => ?_, fun a ha hover => ?_⟩
    · rw [State.purWrite_begins ha he] at hgo
      obtain ⟨a, hpur, hw, hi, haddr, hdata⟩ := s.accepts.purBegin_access true (cAddr c.raw) bytes.length bytes
      refine ⟨_, a, hgo, hpur, hw, hi, haddr, hdata, State.purBegin_joins (s := s.accepts) hlen hstate true (cAddr c.raw) bytes, ?_⟩
      exact State.purBegin_eq ..
    · rw [State.purWrite_over ha hover hf] at hgo
      exact hgo
    · obtain ⟨ans, hans⟩ := State.purWrite_fails (c := c) (addr := cAddr c.raw) (early := early) (bytes := bytes) ha hover hf hh
      rw [hans] at hgo
      have hframe := (s.accEnds.purMemErr c).curEnds.answer_frame c.src ans
      refine ⟨_, hgo, hframe.get .pur rfl, ?_⟩
      rw [show ((s.accEnds.purMemErr c).curEnds.answer c.src ans).flt = _ from hframe.get .flt rfl]
      exact ⟨_, List.mem_append_right _ List.mem_cons_self, rfl⟩
    · rw [State.purWrite_waits ha hover] at hgo
      exact hgo

end Sys2Proof.Machine
end

section
/-! PROOFS. INST_CREATE and SHARE_SET (R302, R306, R313, R339). -/

namespace Sys2Proof.Machine

open Sys2Proof

theorem State.books_congr {s t : State} (hb : t.bell = s.bell) (hi : t.insts = s.insts) (hg : t.gls = s.gls)
    (hq : t.queues = s.queues) (hc : t.chans = s.chans) (hl : t.led = s.led) : t.books = s.books := by
  have hbound : t.bound = s.bound := funext fun i => by simp only [State.bound, hc]
  simp only [State.books, State.booksNow, hl, hb, hi, hg, hq, hbound]

/-- A share with no plan pending that fits the ledger (R302, R313). -/
theorem State.shareChecks {s : State} {r : List Byte} {i : Nat} (hok : shareOk r i = []) (hp : s.led.plan = none)
    (hfit : (s.books.setShare i (shareOf r i)).checks i 0x11 = []) (money : Bool) :
    need (!(money && s.led.plan.isSome)) 0x0E .open_ ++ shareOk r i ++
      (s.books.setShare i (s.afterPlan i (shareOf r i))).checks i 0x11 = [] := by
  have hafter : s.afterPlan i (shareOf r i) = shareOf r i := by simp [State.afterPlan, hp]
  simp [hafter, hok, hfit, hp]

/-- The state of an instance that INST_CREATE makes (R306, R340). -/
def State.created (s : State) (raw r : List Byte) : Inst :=
  { state := .active, gen := (tabGet 0 s.led.lastGen (cInst raw) + 1) % 65536, root := localOf (cAddr2 raw)
    led := shareOf r (cInst raw), eff := (shareOf r (cInst raw)).early }

theorem State.instCreate_fits {s : State} {c : Cmd} {r : List Byte} (hok : shareOk r (cInst c.raw) = []) (hp : s.led.plan = none)
    (hfit : (s.books.setShare (cInst c.raw) (shareOf r (cInst c.raw))).checks (cInst c.raw) 0x11 = []) : s.instCreate c r =
      (s.updInst (cInst c.raw) (fun _ => s.created c.raw r)).done c (s.bell.glass + 1)
        (leBytes 2 ((tabGet 0 s.led.lastGen (cInst c.raw) + 1) % 65536)) :=
  State.checked_nil (State.shareChecks hok hp hfit _) _

/-- The share that SHARE_SET gives an instance; the figures of R340 apply from the next glass. -/
def Inst.shared (x : Share) (y : Inst) : Inst :=
  { y with led := x, eff := { y.eff with qmax := x.qmax, cmax := x.cmax, prate := x.prate } }

theorem State.shareSet_fits {s : State} {c : Cmd} {r : List Byte} (hok : shareOk r (cInst c.raw) = []) (hp : s.led.plan = none)
    (hfit : (s.books.setShare (cInst c.raw) (shareOf r (cInst c.raw))).checks (cInst c.raw) 0x11 = []) : s.shareSet c r =
      (s.updInst (cInst c.raw) (Inst.shared (shareOf r (cInst c.raw)))).done c (s.bell.glass + 1) [] :=
  State.checked_nil (State.shareChecks hok hp hfit _) _

/-- The two commands read their record at ADDR once their first checks pass. -/
theorem exec_shareCmd {s : State} {c : Cmd} {x : Instr} (hr : s.purRuns = true) (hc : s.pur.cur = some c)
    (hi : cInst c.raw < 1024) (hn : nodeOf (cAddr c.raw) = s.node) (ha : localOf (cAddr c.raw) % 8 = 0)
    (h : x = .instCreate ∧ opcode c.raw = 0x81 ∧ 1 ≤ cInst c.raw ∧ s.exists_ (cInst c.raw) = false ∧
        nodeOf (cAddr2 c.raw) = s.node ∧ localOf (cAddr2 c.raw) % 4096 = 0 ∨
      x = .shareSet ∧ opcode c.raw = 0x85 ∧ s.exists_ (cInst c.raw) = true ∧
        s.pur.defer.all (fun d => d.inst != cInst c.raw) = true) :
    ∃ early, early = [] ∧ exec x s = .next (s.purRead c (cAddr c.raw) 128 early
      (fun r s => if x = .instCreate then s.instCreate c r else s.shareSet c r)) := by
  have haddr : s.addrOk (cAddr c.raw) 8 16 = [] := by simp [State.addrOk, hn, ha]
  rcases h with ⟨rfl, ho, h1, he, hn2, ha2⟩ | ⟨rfl, ho, he, hd⟩
  · have haddr2 : s.addrOk (cAddr2 c.raw) 4096 24 = [] := by simp [State.addrOk, hn2, ha2]
    exact ⟨_, by simp [h1, hi, he, haddr, haddr2], congrArg Host.Outcome.next (State.onCmd_of_cur hr hc ho _)⟩
  · have hquiet : s.pur.defer.any (fun d => d.inst == cInst c.raw) = false := by simpa using hd
    have hinst : s.instOk c.raw false true = [] := by simp [State.instOk, hi, he, hquiet]
    exact ⟨_, by simp [hinst, haddr], congrArg Host.Outcome.next (State.onCmd_of_cur hr hc ho _)⟩

/-- Settles O45: the read begins as `State.purBegin_access` says; a record that fits creates the instance
(`State.instCreate_fits`) or sets its share (`State.shareSet_fits`). -/
theorem sharesAreSet : Obligations.SharesAreSet := by
  unfold Obligations.SharesAreSet
  rintro s c i x hr hc rfl hi hn hal hx
  obtain ⟨early, he, hgo⟩ := exec_shareCmd hr hc hi hn hal hx
  have hstate : s.pur.state ≠ 5 := by
    rw [State.state_of_purRuns hr]
    decide
  refine ⟨fun ha => ?_, fun a r ha hover hf hdata hok hp hfit => ?_, fun a ha hover => ?_⟩
  · rw [State.purRead_begins ha he] at hgo
    obtain ⟨a, hpur, hw, him, haddr, hdata⟩ := s.purBegin_access false (cAddr c.raw) 128 []
    exact ⟨_, a, hgo, hpur, hw, him, haddr, by rw [hdata]; rfl,
      State.purBegin_joins (by decide) hstate false (cAddr c.raw) [], State.purBegin_eq ..⟩
  · subst hdata
    rw [State.purRead_over ha hover hf he] at hgo
    have hends := s.accEnds_frame
    have hbell : s.accEnds.bell = s.bell := hends.get .bell rfl
    have hled : s.accEnds.led = s.led := hends.get .led rfl
    have hinsts : s.accEnds.insts = s.insts := hends.get .insts rfl
    have hbooks : s.accEnds.books = s.books :=
      State.books_congr hbell hinsts (hends.get .gls rfl) (hends.get .queues rfl) (hends.get .chans rfl) hled
    rw [← hbooks] at hfit
    rw [← hled] at hp
    rw [← hled, ← hbell]
    generalize s.accEnds = v at hgo hinsts hfit hp ⊢
    have hown : ∀ f : Inst → Inst, (v.updInst (cInst c.raw) f).inst (cInst c.raw) = f (s.inst (cInst c.raw)) := fun f => by
      rw [State.inst_updInst, if_pos rfl, State.inst_congr hinsts]
    have hother : ∀ (f : Inst → Inst) j, j ≠ cInst c.raw → (v.updInst (cInst c.raw) f).inst j = s.inst j := fun f j hj => by
      rw [State.inst_updInst, if_neg hj, State.inst_congr hinsts]
    rcases hx with ⟨rfl, -⟩ | ⟨rfl, -⟩
    · rw [if_pos rfl, State.instCreate_fits hok hp hfit] at hgo
      have hmade := hown (fun _ => v.created c.raw a.data)
      exact ⟨_, v.updInst (cInst c.raw) (fun _ => v.created c.raw a.data), hgo, rfl, congrArg Inst.led hmade,
        hother _, fun _ => ⟨congrArg Inst.state hmade, congrArg Inst.gen hmade, congrArg Inst.root hmade, rfl⟩, nofun⟩
    · rw [if_neg (by decide), State.shareSet_fits hok hp hfit] at hgo
      have hmade := hown (Inst.shared (shareOf a.data (cInst c.raw)))
      exact ⟨_, v.updInst (cInst c.raw) (Inst.shared (shareOf a.data (cInst c.raw))), hgo, rfl, congrArg Inst.led hmade,
        hother _, nofun, fun _ => ⟨(congrArg Inst.state hmade).trans rfl, (congrArg Inst.gen hmade).trans rfl, rfl⟩⟩
  · rw [State.purRead_waits ha hover] at hgo
    exact hgo

end Sys2Proof.Machine
end

section
/-! PROOFS. LOG_CTL and PLAN_LOAD (R310, R311, R312, R313). -/

namespace Sys2Proof.Machine

open Sys2Proof

/-- INST names an existing instance with no deferred command (R295, R299). -/
theorem State.instOk_of {s : State} {raw : List Byte} (hi : cInst raw < 1024) (he : s.exists_ (cInst raw) = true)
    (hd : s.pur.defer.all (fun d => d.inst != cInst raw) = true) : s.instOk raw false true = [] := by
  have hquiet : s.pur.defer.any (fun d => d.inst == cInst raw) = false := by simpa using hd
  simp [State.instOk, hi, he, hquiet]

theorem State.instOk_of_other {s : State} {raw : List Byte} (h1 : 1 ≤ cInst raw) (hi : cInst raw < 1024)
    (he : s.exists_ (cInst raw) = true) (hd : s.pur.defer.all (fun d => d.inst != cInst raw) = true) :
    s.instOk raw true true = [] := by
  have hne : (cInst raw == 0) = false := beq_false_of_ne (Nat.ne_of_gt h1)
  have hquiet : s.pur.defer.any (fun d => d.inst == cInst raw) = false := by simpa using hd
  simp [State.instOk, hi, he, hquiet, hne]

theorem State.addrOk_of {s : State} {a align index : Nat} (hn : nodeOf a = s.node) (ha : localOf a % align = 0) :
    s.addrOk a align index = [] := by
  simp [State.addrOk, hn, ha]

section
variable {s : State} {c : Cmd} (hi : cInst c.raw < 1024) (he : s.exists_ (cInst c.raw) = true)
  (hd : s.pur.defer.all (fun d => d.inst != cInst c.raw) = true) (hw : s.swapping (cInst c.raw) = false)
include hi he hd hw

theorem doLogOn_accepted (hlog : (s.inst (cInst c.raw)).log = false) (hlen : cLen c.raw % 4096 = 0) (hlow : 4096 ≤ cLen c.raw)
    (hhigh : cLen c.raw ≤ 16777216) (hn : nodeOf (cAddr c.raw) = s.node) (ha : localOf (cAddr c.raw) % 4096 = 0) :
    doLogOn c s = (s.deferCmd c (cInst c.raw)).updInst (cInst c.raw) (fun x => { x with
      logNext := some (.on (localOf (cAddr c.raw)) (cLen c.raw)) }) :=
  State.checked_nil (by
    simp [State.instOk_of hi he hd, State.addrOk_of hn ha, State.logStateOk, hlog, hw, hlen, hlow, hhigh]) _

theorem doLogOff_accepted (hop : cOp c.raw = 0) (hlog : (s.inst (cInst c.raw)).log = true) : doLogOff c s =
    (s.deferCmd c (cInst c.raw)).updInst (cInst c.raw) (fun x => { x with logNext := some .off }) :=
  State.checked_nil (by simp [State.instOk_of hi he hd, State.logStateOk, hlog, hw, hop]) _

theorem doLogFlushCmd_accepted (hlog : (s.inst (cInst c.raw)).log = true) : doLogFlushCmd c s =
    (s.deferCmd c (cInst c.raw) (s.flushesDue (cInst c.raw))).queueLines (fun l => l.inst == cInst c.raw) :=
  State.checked_nil (by simp [State.instOk_of hi he hd, State.logStateOk, hlog, hw]) _

end

theorem State.booksNow_congr {s t : State} (hb : t.bell = s.bell) (hi : t.insts = s.insts) (hg : t.gls = s.gls)
    (hq : t.queues = s.queues) (hc : t.chans = s.chans) : t.booksNow = s.booksNow := by
  have hbound : t.bound = s.bound := funext fun i => by simp only [State.bound, hc]
  simp only [State.booksNow, hb, hi, hg, hq, hbound]

theorem State.planOk_congr {s t : State} (hb : t.bell = s.bell) (hi : t.insts = s.insts) (r : List Byte) (len : Nat) :
    t.planOk r len = s.planOk r len := by
  simp only [State.planOk, State.exists_, State.inst, hb, hi]

/-- A sound plan that fits the pools waits for its glass (R311, R312). -/
theorem State.planLoad_fits {s : State} {c : Cmd} {r : List Byte} (hok : s.planOk r (cLen c.raw) = [])
    (hfit : (s.booksNow.after (planOf r s.bell.glass)).pools = []) : s.planLoad c r =
      { s with led := { s.led with plan := some (planOf r s.bell.glass) } }.done c (planOf r s.bell.glass).glass [] :=
  State.checked_nil (by rw [hok, hfit]; rfl) _

/-- Settles O49: each LOG_CTL is accepted (`doLogOn_accepted`, `doLogOff_accepted`, `doLogFlushCmd_accepted`); the plan's read begins
as `State.purBegin_access` says, and what it brought waits for its glass (`State.planLoad_fits`). -/
theorem logsAndPlans : Obligations.LogsAndPlans := by
  unfold Obligations.LogsAndPlans
  rintro s c i hr hc rfl
  refine ⟨fun ho hi he hd hw => ⟨fun hop hlog hlen hlow hhigh hn ha => ?_, fun hop hlog => ?_, fun hop hlog => ?_⟩,
    fun ho => ⟨fun hop hlen hn ha hp => ?_, fun hop hp hfit => ?_⟩⟩
  · refine congrArg Host.Outcome.next ((State.onCmd_of_kind hr hc ho (by simp [hop]) _).trans ?_)
    exact doLogOn_accepted hi he hd hw hlog hlen hlow hhigh hn ha
  · refine congrArg Host.Outcome.next ((State.onCmd_of_kind hr hc ho (by simp [hop]) _).trans ?_)
    exact doLogOff_accepted hi he hd hw hop hlog
  · refine congrArg Host.Outcome.next ((State.onCmd_of_kind hr hc ho (by simp [hop]) _).trans ?_)
    exact doLogFlushCmd_accepted hi he hd hw hlog
  · have hgo : exec .planLoad s = .next (doPlanLoad c s) :=
      congrArg Host.Outcome.next (State.onCmd_of_kind hr hc ho (by simp [hop]) _)
    have hearly : need (cLen c.raw ≤ 49216) 1 (.at_ 6 36) ++ s.addrOk (cAddr c.raw) 64 16 ++ need s.led.plan.isNone 0x0E .open_ = [] := by
      simp [State.addrOk_of hn ha, hlen, hp]
    refine ⟨fun hacc => ?_, fun a r hacc hover hf hdata hok hfit => ?_⟩
    · rw [doPlanLoad, State.purRead_begins hacc hearly] at hgo
      obtain ⟨a, hpur, hw, him, haddr, hdata⟩ := s.purBegin_access false (cAddr c.raw) (cLen c.raw) []
      exact ⟨_, a, hgo, hpur, hw, him, haddr, by simp [hdata], State.purBegin_eq ..⟩
    · subst hdata
      rw [doPlanLoad, State.purRead_over hacc hover hf hearly] at hgo
      have hends := s.accEnds_frame
      have hbell : s.accEnds.bell = s.bell := hends.get .bell rfl
      have hled : s.accEnds.led = s.led := hends.get .led rfl
      have hbooks : s.accEnds.booksNow = s.booksNow := State.booksNow_congr hbell (hends.get .insts rfl) (hends.get .gls rfl)
        (hends.get .queues rfl) (hends.get .chans rfl)
      rw [← State.planOk_congr hbell (hends.get .insts rfl)] at hok
      rw [← hbooks, ← hbell] at hfit
      rw [State.planLoad_fits hok hfit, hbell, hled] at hgo
      exact hgo
  · refine congrArg Host.Outcome.next ((State.onCmd_of_kind hr hc ho (by simp [hop]) _).trans ?_)
    exact State.checked_nil (by simp [Option.isSome_iff_ne_none.2 hp, hfit]) _

end Sys2Proof.Machine
end

section
/-! PROOFS. Deferred commands complete, and the Purser's supervisions (R294, R306, R308, R310, R413). -/

namespace Sys2Proof.Machine

open Sys2Proof

/-- No removal goes on where none is deferred. -/
theorem State.removals_none {s : State} (h : ∀ x ∈ s.pur.defer, opcode x.raw ≠ 0x82) : s.removals = s := by
  have hnone : s.pur.defer.filter (fun d => opcode d.raw == 0x82 && (s.inst d.inst).renewed) = [] :=
    List.filter_eq_nil_iff.2 fun x hx => by simp [h x hx]
  rw [State.removals, hnone]
  rfl

/-- The command with a deferred command taken off the list. -/
def State.undefer (s : State) (rest : List Deferred) : State := { s with pur := { s.pur with defer := rest } }

/-- The first deferred command completes once its condition holds (R294). -/
theorem doCompletion_first {s : State} {d : Deferred} {rest : List Deferred} {ret : List Byte} (hr : s.purRuns = true)
    (hd : s.pur.defer = d :: rest) (hrem : ∀ x ∈ s.pur.defer, opcode x.raw ≠ 0x82) (ho : s.outcome d = some (0, 0, ret)) :
    ∃ bytes, doCompletion s = ((s.undefer rest).finish d).answer d.src bytes := by
  refine ⟨((s.undefer rest).finish d).doneBytes d.src d.raw 0 0 0 d.effect ret, ?_⟩
  have hfind : s.pur.defer.find? (fun d => (s.outcome d).isSome) = some d := by simp [hd, ho]
  have hdrop : dropFirst (fun x => x == d) s.pur.defer = rest := by simp [hd, dropFirst]
  simp only [doCompletion, hr, State.removals_none hrem, hfind, ho, hdrop]
  rfl

/-- The answer shows DONE in the mailbox of the command (R288). -/
theorem State.mb_answer (s : State) (m : Nat) (bytes : List Byte) :
    ((s.answer (.mailbox m) bytes).mb m).done = true ∧ ((s.answer (.mailbox m) bytes).mb m).busy = false := by
  have hmb := (s.mb_updMb m (fun b => { b with rsp := bytes, busy := false, done := true }) m).trans (if_pos rfl)
  exact ⟨congrArg Mbox.done hmb, congrArg Mbox.busy hmb⟩

theorem State.mb_answer_src {s : State} {src : CmdSrc} {bytes : List Byte} (m : Nat) (h : src = .mailbox m) :
    ((s.answer src bytes).mb m).done = true ∧ ((s.answer src bytes).mb m).busy = false := by
  subst h
  exact s.mb_answer m bytes

/-- An answer leaves every queue but the admin queue. -/
theorem State.queue_answer (s : State) (src : CmdSrc) (bytes : List Byte) {g : Nat} (hg : g ≠ 0) :
    (s.answer src bytes).queue? g = s.queue? g := by
  cases src with
  | mailbox m => rfl
  | queue seq => exact (State.queue_updEntry ..).trans (if_neg hg)

theorem State.outcome_suspend {s : State} {d : Deferred} (ho : opcode d.raw = 0x84)
    (h : (s.inst d.inst).state = .suspending ∧ s.quiet d.inst = true ∨ (s.inst d.inst).state = .suspended) :
    s.outcome d = some (0, 0, []) := by
  rcases h with ⟨hs, hq⟩ | hs
  · simp [State.outcome, ho, hs, hq]
  · simp [State.outcome, ho, hs]

theorem State.outcome_logOn {s : State} {d : Deferred} (ho : opcode d.raw = 0x98) (hop : cOp d.raw = 1)
    (hl : (s.inst d.inst).log = true) (hn : (s.inst d.inst).logNext = none) : s.outcome d = some (0, 0, []) := by
  simp [State.outcome, ho, hop, hl, hn]

theorem State.outcome_destroy {s : State} {d : Deferred} {g : Nat} {q : Queue} (ho : opcode d.raw = 0x8A)
    (hl : s.localQueue d.inst (cObj d.raw) = some (g, q)) (hi : s.qIdle g q = true) :
    s.outcome d = some (0, 0, leBytes 8 q.cnt.toNat) := by
  simp [State.outcome, ho, hl, hi]

/-- What the end of a suspension makes of its instance (R306). -/
def Inst.atRest (x : Inst) : Inst := { x with state := if x.state == .suspending then .suspended else x.state }

theorem State.finish_suspend {s : State} {d : Deferred} (ho : opcode d.raw = 0x84) :
    s.finish d = s.updInst d.inst Inst.atRest := by
  simp only [State.finish, ho]
  rfl

theorem State.finish_logOn {s : State} {d : Deferred} (ho : opcode d.raw = 0x98) (hop : cOp d.raw = 1) : s.finish d = s := by
  simp [State.finish, ho, hop]

theorem State.finish_destroy {s : State} {d : Deferred} {g : Nat} {q : Queue} (ho : opcode d.raw = 0x8A)
    (hl : s.localQueue d.inst (cObj d.raw) = some (g, q)) : s.finish d = { s with queues := tabErase s.queues g } := by
  simp [State.finish, ho, hl]

theorem queue_tabErase (s : State) (g j : Nat) : ({ s with queues := tabErase s.queues g } : State).queue? j =
    if j = g then none else s.queue? j := by
  simp only [State.queue?, tabErase, List.find?_filter]
  split
  · rename_i h
    have hnone : s.queues.find? (fun p => p.1 != g && p.1 == j) = none := List.find?_eq_none.2 fun p _ => by simp [h]
    simpa using hnone
  · rename_i h
    refine congrArg (Option.map _) (List.find?_congr fun p _ => ?_)
    by_cases hp : p.1 = j
    · simp [hp, h]
    · simp [hp]

theorem doCmdTmo_late {s : State} {c : Cmd} (hc : s.pur.cur = some c) (hu : s.up = true) (hp : s.pur.state = 3)
    (hl : c.late = false) (ht : c.start + 500 * execBound c.raw < s.age) : doCmdTmo s =
      { s with pur := { s.pur with cur := some { c with late := true } } }.raise 46 4 0 none (s.purDetail (opcode c.raw)) := by
  simp [doCmdTmo, hc, hu, hp, hl, ht]

/-- Settles O50: the first deferred command completes (`doCompletion_first`) as its outcome says, with what `State.finish` does. -/
theorem deferredCommandsComplete : Obligations.DeferredCommandsComplete := by
  unfold Obligations.DeferredCommandsComplete
  refine fun s => ⟨fun d rest hr hd hrem => ⟨fun ho h => ?_, fun ho hop hl hn => ?_, fun g q ho hl hi hg => ?_⟩,
    fun c hc hu hp hl ht => ?_, fun hr => ?_⟩
  · obtain ⟨bytes, hgo⟩ := doCompletion_first hr hd hrem (State.outcome_suspend ho h)
    rw [State.finish_suspend ho] at hgo
    have hans := ((s.undefer rest).updInst d.inst Inst.atRest).answer_frame d.src bytes
    have hinst : ∀ j, (((s.undefer rest).updInst d.inst Inst.atRest).answer d.src bytes).inst j =
        if j = d.inst then (s.inst d.inst).atRest else s.inst j := fun j => by
      rw [State.inst_congr (hans.get .insts rfl)]
      exact State.inst_updInst ..
    refine ⟨_, congrArg Host.Outcome.next hgo, ?_, congrArg Purser.defer (hans.get .pur rfl), fun m hm => State.mb_answer_src m hm,
      fun j hj => (hinst j).trans (if_neg hj), hans.get .chans rfl, hans.get .hold rfl⟩
    rw [hinst, if_pos rfl]
    rcases h with ⟨h, -⟩ | h <;> simp [Inst.atRest, h]
  · obtain ⟨bytes, hgo⟩ := doCompletion_first hr hd hrem (State.outcome_logOn ho hop hl hn)
    rw [State.finish_logOn ho hop] at hgo
    have hans := (s.undefer rest).answer_frame d.src bytes
    exact ⟨_, congrArg Host.Outcome.next hgo, hans.get .insts rfl, congrArg Purser.defer (hans.get .pur rfl),
      fun m hm => State.mb_answer_src m hm⟩
  · obtain ⟨bytes, hgo⟩ := doCompletion_first hr hd hrem (State.outcome_destroy ho hl hi)
    rw [State.finish_destroy (s := s.undefer rest) ho hl] at hgo
    have hans := ({ s.undefer rest with queues := tabErase s.queues g }).answer_frame d.src bytes
    refine ⟨_, congrArg Host.Outcome.next hgo, ?_, congrArg Purser.defer (hans.get .pur rfl), fun j hj h0 => ?_, hans.get .insts rfl⟩
    · rw [State.queue_answer _ _ _ hg]
      exact (queue_tabErase (s.undefer rest) g g).trans (if_pos rfl)
    · rw [State.queue_answer _ _ _ h0]
      exact (queue_tabErase (s.undefer rest) g j).trans (if_neg hj)
  · exact ⟨_, congrArg Host.Outcome.next (doCmdTmo_late hc hu hp hl ht), rfl, _, List.mem_append_right _ List.mem_cons_self, rfl, rfl⟩
  · exact ⟨_, congrArg Host.Outcome.next (if_pos hr), rfl, _, List.mem_append_right _ List.mem_cons_self, rfl, rfl⟩

end Sys2Proof.Machine
end

section
/-! PROOFS. ADMIN_INIT and the queue commands (R207, R307, R308). -/

namespace Sys2Proof.Machine

open Sys2Proof

theorem le_leastFrom (used : List Nat) (n first : Nat) : first ≤ leastFrom used n first := by
  induction n generalizing first with
  | zero => exact Nat.le_refl _
  | succ n ih =>
    unfold leastFrom
    split
    · exact Nat.le_of_succ_le (ih _)
    · exact Nat.le_refl _

theorem State.freeQueue_pos (s : State) : s.freeQueue ≠ 0 := Nat.ne_of_gt (le_leastFrom _ _ 1)

/-- A queue joins those of the block (R308). -/
def State.withQueue (s : State) (g : Nat) (q : Queue) : State := { s with queues := tabSet s.queues g q }

theorem State.queue_withQueue (s : State) (g : Nat) (q : Queue) (j : Nat) : (s.withQueue g q).queue? j =
    if j = g then some q else s.queue? j := find_tabSet ..

/-- Every queue but queue 0 stands after a completion with DONE. -/
theorem State.queue_done (s : State) (c : Cmd) (effect : Nat) (ret : List Byte) {g : Nat} (hg : g ≠ 0) :
    (s.done c effect ret).queue? g = s.queue? g := State.queue_answer s.stepEnds _ _ hg

/-- A command that came by a mailbox leaves every queue as it completes. -/
theorem State.queues_done_mailbox {s : State} {c : Cmd} (h : c.byQueue = false) (effect : Nat) (ret : List Byte) :
    (s.done c effect ret).queues = s.queues := by
  unfold Cmd.byQueue at h
  unfold State.done State.answer
  cases hc : c.src with
  | mailbox m => rfl
  | queue seq => simp [hc] at h

/-- The Purser after a completion with DONE depends only on the Purser and the bus clock. -/
theorem State.pur_done {s t : State} (hp : t.pur = s.pur) (hn : t.now = s.now) (c : Cmd) (effect effect' : Nat) (ret ret' : List Byte) :
    (t.done c effect ret).pur = (s.done c effect' ret').pur := by
  have h := fun (u : State) (e : Nat) (r : List Byte) =>
    (u.stepEnds.answer_frame c.src (u.doneBytes c.src c.raw 0 0 0 e r)).get .pur rfl
  refine (h t effect ret).trans (Eq.trans ?_ (h s effect' ret').symm)
  simp only [State.stepEnds, State.accepts, State.curEnds, hp, hn]

theorem doAdminInit_accepted {s : State} {c : Cmd} (hb : c.byQueue = false) (hring : ringOk c.raw false = [])
    (hnew : newQueueOk c.raw = []) (hbase : s.ringBaseOk c.raw = []) (hn : nodeOf (cAddr2 c.raw) = s.node)
    (ha : localOf (cAddr2 c.raw) % 4096 = 0) (hfree : s.queue? 0 = none)
    (hfit : ({ s.books with queues := s.books.queues ++ [(0, newQueue c.raw 0 0 true false 7 0 true)] } : Books).checks 0 0x13 = []) :
    doAdminInit c s =
      ((s.withQueue 0 (newQueue c.raw 0 0 true false 7 0 true)).updInst 0 (fun x => { x with root := localOf (cAddr2 c.raw) })).done c 0
          (zeros 8 ++ leBytes 8 (newQueue c.raw 0 0 true false 7 0 true).ctlWord.toNat) :=
  State.checked_nil (by simp [hb, hring, hnew, hbase, State.addrOk_of hn ha, hfree, hfit]) _

/-! ### Commands that name a queue of INST -/

/-- The queue that Q_CREATE makes (R307, R308). -/
def State.createdQueue (s : State) (raw : List Byte) : Queue :=
  { newQueue raw (cInst raw) (cObj raw) ((cQf raw).testBit 4) ((cQf raw).testBit 0) (cQf raw / 2 % 8)
      (if (cQf raw).testBit 5 then cRhead raw else 0) (if (cQf raw).testBit 5 then (cQf raw).testBit 6 else true) with
    susp := s.suspends (cInst raw) }

theorem State.target_of {s : State} {raw : List Byte} {g : Nat} {q : Queue}
    (hq : s.localQueue (cInst raw) (cObj raw) = some (g, q)) : s.target raw = (g, q) := by simp [State.target, hq]

theorem State.queueOk_of {s : State} {raw : List Byte} {g : Nat} {q : Queue} (hl : cObj raw < 1024)
    (hq : s.localQueue (cInst raw) (cObj raw) = some (g, q)) : s.queueOk raw = [] := by simp [State.queueOk, hl, hq]

theorem State.queueNeed_of {s : State} {raw : List Byte} {g : Nat} {q : Queue}
    (hq : s.localQueue (cInst raw) (cObj raw) = some (g, q)) {ok : Nat → Queue → Bool} (h : ok g q = true) :
    s.queueNeed raw ok = [] := by simp [State.queueNeed, hq, h]

section
variable {s : State} {c : Cmd} (hi : cInst c.raw < 1024) (hl : cObj c.raw < 1024) (h00 : ¬(cInst c.raw = 0 ∧ cObj c.raw = 0))
  (he : s.exists_ (cInst c.raw) = true) (hd : s.pur.defer.all (fun d => d.inst != cInst c.raw) = true)
include hi hl h00 he hd

theorem doQCreate_accepted (hfree : s.localQueue (cInst c.raw) (cObj c.raw) = none) (hc : s.isContained (cInst c.raw) = false)
    (hr : s.inReset (cInst c.raw) = false) (hring : ringOk c.raw ((cQf c.raw).testBit 5) = []) (hnew : newQueueOk c.raw = [])
    (hbase : s.ringBaseOk c.raw = []) (hg : s.freeQueue < 16384)
    (hfit : ({ s.books with queues := s.books.queues ++ [(s.freeQueue, s.createdQueue c.raw)] } : Books).checks (cInst c.raw) 0x13 = []) :
    doQCreate c s = (s.withQueue s.freeQueue (s.createdQueue c.raw)).done c 0
      (leBytes 2 s.freeQueue ++ zeros 6 ++ leBytes 8 (s.createdQueue c.raw).ctlWord.toNat) := by
  have hnot : (cInst c.raw == 0 && cObj c.raw == 0) = false := by simpa using h00
  have hself : need (!(cInst c.raw == 0 && cObj c.raw == 0)) 4 (.at_ 6 10) = [] := by simp [hnot]
  have hobj : need (cObj c.raw < 1024) 1 (.at_ 6 10) = [] := by simp [hl]
  have hsound : s.instSound (cInst c.raw) = [] := by simp [State.instSound, hc, hr]
  have hnone : need (s.localQueue (cInst c.raw) (cObj c.raw)).isNone 0x0A (.at_ 6 10) = [] := by simp [hfree]
  have hnum : need (s.freeQueue < 16384) 0x12 (.at_ 5 0) 1 = [] := by simp [hg]
  refine State.checked_nil ?_ _
  rw [hself, State.instOk_of hi he hd, hobj, hring, hnew, hbase, hsound, hnone, hnum]
  exact hfit

section
variable {g : Nat} {q : Queue} (hq : s.localQueue (cInst c.raw) (cObj c.raw) = some (g, q))
include hq

theorem doQResize_accepted {x : Queue}
    (hx : (cOp c.raw).testBit 0 = true ∧ cN c.raw ≤ 24 ∧ q.state ≠ .fenced ∧ x = { q with n := cN c.raw } ∨
      (cOp c.raw).testBit 0 = false ∧ ringOk c.raw true = [] ∧ s.ringBaseOk c.raw = [] ∧ q.state = .off ∧
        s.qIdle g q = true ∧ x = { q with
          base := BitVec.ofNat 64 (cAddr c.raw), k := cK c.raw, n := cN c.raw, head := cRhead c.raw
          lap := (cQf c.raw).testBit 6 })
    (hfit : ({ s.books with queues := tabSet s.books.queues g x } : Books).checks q.inst 0x13 = []) :
    doQResize c s = (s.updQueue g (fun _ => x)).done c 0 (zeros 8 ++ leBytes 8 x.ctlWord.toNat) := by
  have hself : need (!(onQueue0 c.raw && c.byQueue)) 3 .open_ = [] := by
    have hnot : onQueue0 c.raw = false := by simpa [onQueue0] using h00
    simp [hnot]
  have hsome : (s.localQueue (cInst c.raw) (cObj c.raw)).isSome = true := by simp [hq]
  unfold doQResize
  dsimp only
  rw [State.target_of hq]
  dsimp only
  rcases hx with ⟨hop, hn, hs, rfl⟩ | ⟨hop, hring, hbase, hs, hidle, rfl⟩
  · simp only [hop, if_true, hsome]
    refine State.checked_nil ?_ _
    rw [hself, State.instOk_of hi he hd, State.queueOk_of hl hq, State.queueNeed_of hq (by simp [hs]), hfit]
    simp [hn]
  · simp only [hop, if_true, hsome, Bool.false_eq_true, if_false]
    refine State.checked_nil ?_ _
    rw [hself, State.instOk_of hi he hd, State.queueOk_of hl hq, State.queueNeed_of hq (by simp [hs, hidle]), hfit, hring, hbase]
    rfl

omit h00 in
theorem doQReadCtx_accepted : doQReadCtx c s = s.done c 0 (s.queueContext g q) := by
  unfold doQReadCtx
  rw [State.target_of hq]
  exact State.checked_nil (by rw [State.instOk_of hi he hd, State.queueOk_of hl hq]; rfl) _

theorem doQStrict_accepted (grant : Bool) (hs : q.state = .off) (hg : q.strict = !grant)
    (hn : grant = true → (s.queues.filter (fun q => q.2.strict)).length < 256) :
    doQStrict grant c s = (s.updQueue g (fun q => { q with strict := grant })).done c 0 [] := by
  have hnot : onQueue0 c.raw = false := by simpa [onQueue0] using h00
  unfold doQStrict
  dsimp only
  rw [State.target_of hq]
  refine State.checked_nil ?_ _
  rw [State.instOk_of hi he hd, State.queueOk_of hl hq, State.queueNeed_of hq (by simp [hs, hg]), hnot]
  cases grant
  · rfl
  · simp [limit, Nat.succ_le_of_lt (hn rfl)]

theorem doQDestroy_accepted (hs : q.state = .off) :
    doQDestroy c s = (s.deferCmd c (cInst c.raw)).updQueue g (fun q => { q with dying := true }) := by
  have hnot : onQueue0 c.raw = false := by simpa [onQueue0] using h00
  unfold doQDestroy
  dsimp only
  rw [State.target_of hq]
  refine State.checked_nil ?_ _
  rw [State.instOk_of hi he hd, State.queueOk_of hl hq, State.queueNeed_of hq (by simp [hs]), hnot]
  rfl

end
end

/-- Settles O47: each command whose checks pass is accepted (`doAdminInit_accepted` to `doQDestroy_accepted`). -/
theorem queuesAreManaged : Obligations.QueuesAreManaged := by
  unfold Obligations.QueuesAreManaged
  refine fun s c hr hc => ⟨fun ho hb hring hnew hbase hn ha hfree q hq hfit => ?_, ?_⟩
  · subst hq
    have hgo := (State.onCmd_of_cur hr hc ho doAdminInit).trans (doAdminInit_accepted hb hring hnew hbase hn ha hfree hfit)
    have hqueue := s.queue_withQueue 0 (newQueue c.raw 0 0 true false 7 0 true)
    have hinst := (s.withQueue 0 (newQueue c.raw 0 0 true false 7 0 true)).inst_updInst 0
      (fun x => { x with root := localOf (cAddr2 c.raw) })
    have hv : Frame [.queues, .insts] s ((s.withQueue 0 (newQueue c.raw 0 0 true false 7 0 true)).updInst 0
        (fun x => { x with root := localOf (cAddr2 c.raw) })) := fun p hp => by
      cases p <;> first | rfl | exact absurd hp (by decide)
    replace hqueue : ∀ j, ((s.withQueue 0 (newQueue c.raw 0 0 true false 7 0 true)).updInst 0
      (fun x => { x with root := localOf (cAddr2 c.raw) })).queue? j = _ := hqueue
    generalize (s.withQueue 0 (newQueue c.raw 0 0 true false 7 0 true)).updInst 0 _ = v at hgo hqueue hinst hv
    have hdone := v.done_frame c 0 (zeros 8 ++ leBytes 8 (newQueue c.raw 0 0 true false 7 0 true).ctlWord.toNat)
    have hkeep := v.queues_done_mailbox hb 0 (zeros 8 ++ leBytes 8 (newQueue c.raw 0 0 true false 7 0 true).ctlWord.toNat)
    refine ⟨_, congrArg Host.Outcome.next hgo, ?_, ?_, State.pur_done (hv.get .pur rfl) (hv.get .now rfl) .., fun g hg => ?_,
      fun j hj => ?_⟩
    · rw [State.queue_congr hkeep, hqueue, if_pos rfl]
    · rw [State.inst_congr (hdone.get .insts rfl), hinst, if_pos rfl]
    · rw [State.queue_congr hkeep, hqueue, if_neg hg]
    · rw [State.inst_congr (hdone.get .insts rfl), hinst, if_neg hj]
      rfl
  · rintro i l rfl rfl hi hl h00 he hd
    refine ⟨fun ho hfree hcon hres hring hnew hbase hg q hq hfit => ?_, fun g q hl' hq hg => ⟨fun x ho hx hfit => ?_, fun ho => ?_,
      fun ho hop hs hstrict hn => ?_, fun ho hop hs hstrict => ?_, fun ho hs => ?_⟩⟩
    · subst hq
      have hgo := (State.onCmd_of_cur hr hc ho doQCreate).trans
        (doQCreate_accepted hi hl h00 he hd hfree hcon hres hring hnew hbase hg hfit)
      have hqueue := s.queue_withQueue s.freeQueue (s.createdQueue c.raw)
      have hv : Frame [.queues] s (s.withQueue s.freeQueue (s.createdQueue c.raw)) := fun p hp => by
        cases p <;> first | rfl | exact absurd hp (by decide)
      generalize s.withQueue s.freeQueue (s.createdQueue c.raw) = v at hgo hqueue hv
      have hdone := v.done_frame c 0 (leBytes 2 s.freeQueue ++ zeros 6 ++ leBytes 8 (s.createdQueue c.raw).ctlWord.toNat)
      refine ⟨_, congrArg Host.Outcome.next hgo, ?_, State.pur_done (hv.get .pur rfl) (hv.get .now rfl) .., fun g hg h0 => ?_,
        (hdone.get .insts rfl).trans (hv.get .insts rfl), (hdone.get .chans rfl).trans (hv.get .chans rfl)⟩
      · rw [State.queue_done _ _ _ _ s.freeQueue_pos, hqueue, if_pos rfl]
        rfl
      · rw [State.queue_done _ _ _ _ h0, hqueue, if_neg hg]
    · have hgo := (State.onCmd_of_cur hr hc ho doQResize).trans (doQResize_accepted hi hl h00 he hd hl' hx hfit)
      have hupd := s.updQueue_frame g (fun _ => x)
      have hset := s.queue_updQueue g (fun _ => x)
      generalize s.updQueue g (fun _ => x) = v at hgo hupd hset
      have hqueue := fun j (h0 : j ≠ 0) => (v.queue_done c 0 (zeros 8 ++ leBytes 8 x.ctlWord.toNat) h0).trans (hset j)
      refine ⟨_, congrArg Host.Outcome.next hgo, ?_, State.pur_done (hupd.get .pur rfl) (hupd.get .now rfl) .., fun j hj h0 => ?_, ?_⟩
      · rw [hqueue g hg, if_pos rfl, hq]
        rfl
      · rw [hqueue j h0, if_neg hj]
      · exact ((v.done_frame c 0 (zeros 8 ++ leBytes 8 x.ctlWord.toNat)).get .insts rfl).trans (hupd.get .insts rfl)
    · refine congrArg Host.Outcome.next ((State.onCmd_of_cur hr hc ho _).trans ?_)
      exact doQReadCtx_accepted hi hl he hd hl'
    · refine congrArg Host.Outcome.next ((State.onCmd_of_kind hr hc ho (by simp [hop]) _).trans ?_)
      exact doQStrict_accepted hi hl h00 he hd hl' true hs hstrict fun _ => hn
    · refine congrArg Host.Outcome.next ((State.onCmd_of_kind hr hc ho (by simp [hop]) _).trans ?_)
      exact doQStrict_accepted hi hl h00 he hd hl' false hs hstrict nofun
    · refine congrArg Host.Outcome.next ((State.onCmd_of_cur hr hc ho _).trans ?_)
      exact doQDestroy_accepted hi hl h00 he hd hl' hs

end Sys2Proof.Machine
end

section
/-! PROOFS. Inbound requests and their responses (R368 to R371). -/

namespace Sys2Proof.Machine

open Sys2Proof

/-! ### Header fields of a message sent (R364) -/

section
variable (ty st size : Nat) (fixed : Bool) (len addr tag poison : Nat)

theorem header_type : at_ (header ty st size fixed len addr tag poison) 0 1 = ty % 256 := by
  simp only [header, List.append_assoc]
  simpa using at_leBytes_append 0 1 0 ty _

theorem header_status : at_ (header ty st size fixed len addr tag poison) 1 1 = st % 256 := by
  simp only [header, List.append_assoc]
  rw [at_append (off := 0) (by simp)]
  simpa using at_leBytes_append 0 1 0 st _

theorem header_tag : at_ (header ty st size fixed len addr tag poison) 16 8 = tag % 256 ^ 8 := by
  simp only [header]
  rw [List.append_assoc, List.append_assoc, at_append (off := 0) (by simp)]
  simpa using at_leBytes_append 0 8 0 tag _
end

theorem leNat_lt (l : List Byte) : leNat l < 256 ^ l.length := by
  induction l with
  | nil => simp [leNat]
  | cons b l ih =>
    have hb := b.isLt
    rw [leNat, List.length_cons, Nat.pow_succ]
    omega

theorem at_lt (l : List Byte) (off n : Nat) : at_ l off n < 256 ^ n :=
  Nat.lt_of_lt_of_le (leNat_lt _) (Nat.pow_le_pow_right (by decide) (List.length_take_le ..))

/-- Type, status and tag of a response without data. -/
theorem respond_fields (h : List Byte) (src : Nat) {st : Nat} (ht : hType h < 128) (hst : st < 256) :
    at_ (respond h src st).hdr 0 1 = hType h + 0x80 ∧ at_ (respond h src st).hdr 1 1 = st ∧
      at_ (respond h src st).hdr 16 8 = hTag h := by
  refine ⟨(header_type ..).trans ?_, (header_status ..).trans (Nat.mod_eq_of_lt hst), (header_tag ..).trans ?_⟩
  · omega
  · exact Nat.mod_eq_of_lt (at_lt ..)

theorem length_flitsOf (n : Nat) (d : List Byte) : (flitsOf n d).length = n := by
  induction n generalizing d with
  | zero => rfl
  | succ n ih => simp [flitsOf, ih]

theorem nth_setNth (l : List Nat) (k v : Nat) : nth (setNth l k v) k = v := by
  fun_induction setNth l k v <;> simp_all [nth]

/-! ### A request arrives -/

theorem State.up_of_receives {s : State} (h : s.receives = true) : s.up = true := by
  simp only [State.receives, Bool.and_eq_true] at h
  exact h.1

theorem State.inRequest_of_type {s : State} {m : InMsg} {write : Bool} (hr : s.receives = true)
    (ht : hType m.hdr = if write then 2 else 1) : s.inRequest m write =
    if m.hdrOk then
      if s.inCheck m write = 0 then s.serve m write
      else ((if s.inCheck m write = 7 then s else s.raise 51 5 m.port.val none (fportDetail m.src.val m.hdr)).received m
        false).putTx m.port.val { cls := .soft 7, resp := true, cluster := 0, firm := false, msg := respond m.hdr m.src.val (s.inCheck m write) }
    else s.received m false := by
  unfold State.inRequest
  cases hk : m.hdrOk <;> simp [hr, ht]

theorem State.received_hdrBad (s : State) {m : InMsg} (h : m.hdrOk = false) (firm : Bool) : s.received m firm =
    (s.countFab m.port.val false firm (64 * (1 + m.flits.length))).raise 52 5 m.port.val none
      (fportDetail m.src.val m.hdr) := by
  simp [State.received, h]

/-- A message received leaves the budgets of INB, and every fault that waits waits on. -/
theorem State.received_leaves (s : State) (m : InMsg) (firm : Bool) :
    (s.received m firm).gls.inbLeft = s.gls.inbLeft ∧ ∀ d ∈ s.flt.waiting, d ∈ (s.received m firm).flt.waiting := by
  unfold State.received
  dsimp only
  split
  · exact ⟨rfl, fun d hd => hd⟩
  · exact ⟨rfl, fun d hd => by simpa using .inl hd⟩

/-- The status of a request is one of four (R368). -/
theorem State.inCheck_lt (s : State) (m : InMsg) (write : Bool) : s.inCheck m write < 256 := by
  unfold State.inCheck
  refine iteInduction (motive := (· < 256)) (fun _ => by decide) fun _ => ?_
  refine iteInduction (motive := (· < 256)) (fun _ => by decide) fun _ => ?_
  exact iteInduction (motive := (· < 256)) (fun _ => by decide) fun _ => by decide

/-- Where an inbound request waits and what INB pays for it (R81, R370). -/
theorem State.serve_spec (s : State) (m : InMsg) (write : Bool) : ∃ b : Inb,
    (s.serve m write).inbs = s.inbs ++ [b] ∧ b.id = s.nextInb ∧ b.write = write ∧ b.hdr = m.hdr ∧
      b.src = m.src.val ∧ b.port = m.port.val ∧ b.cluster = localOf (hAddr m.hdr) / 4096 % 8 ∧
      b.firm = decide (hLen m.hdr ≤ nth s.gls.inbLeft b.cluster) ∧
      nth (s.serve m write).gls.inbLeft b.cluster = nth s.gls.inbLeft b.cluster - (if b.firm then hLen m.hdr else 0) ∧
      (write = true → b.data = (payload m).take (hLen m.hdr)) := by
  unfold State.serve
  dsimp only
  refine ⟨_, Frame.get (State.received_frame _ _ _) .inbs rfl, rfl, rfl, rfl, rfl, rfl, rfl, rfl, ?_, fun hw => ?_⟩
  · rw [(State.received_leaves ..).1]
    dsimp only
    by_cases hf : hLen m.hdr ≤ nth s.gls.inbLeft (localOf (hAddr m.hdr) / 4096 % 8) <;> simp [hf, nth_setNth]
  · simp [hw]

@[simp] theorem State.fab_putTx (s : State) (f : Nat) (x : TxMsg) (k : Nat) : (s.putTx f x).fab k =
    if k = f then { s.fab f with tx := (s.fab f).tx ++ [x] } else s.fab k := by
  simp [State.putTx]

/-- What answers a request that fails a check (R368). -/
theorem State.denied_spec {s u : State} {m : InMsg} (hu : Frame [.flt] s u)
    (x : TxMsg) : (((u.received m false).putTx m.port.val x).fab m.port.val).tx = (s.fab m.port.val).tx ++ [x] ∧
      ((u.received m false).putTx m.port.val x).inbs = s.inbs ∧ ((u.received m false).putTx m.port.val x).ports = s.ports ∧
      ((u.received m false).putTx m.port.val x).hold = s.hold ∧
      ∀ d ∈ u.flt.waiting, d ∈ ((u.received m false).putTx m.port.val x).flt.waiting := by
  have hrec := (hu.grow (qs := [.gls, .flt]) (by decide)).trans (u.received_frame m false)
  have hput := (u.received m false).putTx_frame m.port.val x
  refine ⟨?_, (hput.get .inbs rfl).trans (hrec.get .inbs rfl), (hput.get .ports rfl).trans (hrec.get .ports rfl),
    (hput.get .hold rfl).trans (hrec.get .hold rfl), fun d hd => ?_⟩
  · rw [State.fab_putTx, if_pos rfl, State.fab, hrec.get .fabs rfl]
    rfl
  · exact (congrArg (fun l => d ∈ l.waiting) (hput.get .flt rfl)).mpr ((State.received_leaves ..).2 d hd)

/-! ### The response to a served request -/

theorem doInbResponse_over {s : State} {id : Nat} {b : Inb} (hup : s.up = true)
    (hb : s.inbs.find? (fun b => b.id == id) = some b) (hr : b.reqs = []) (ho : b.out = 0) : doInbResponse id s =
      ({ s with inbs := s.inbs.filter (fun x => x.id != id) }).putTx b.port
        { cls := if b.firm then .top else .soft 7, resp := true, cluster := 0, firm := b.firm, msg := b.response } := by
  simp [doInbResponse, hb, hup, hr, ho]

theorem doInbResponse_waits {s : State} {id : Nat} {b : Inb} (hb : s.inbs.find? (fun b => b.id == id) = some b)
    (hw : b.reqs ≠ [] ∨ b.out ≠ 0) : doInbResponse id s = s := by
  rcases hw with h | h <;> simp [doInbResponse, hb, h]

/-- The response of a request that failed nowhere, and of one that failed (R370). -/
theorem Inb.response_spec (b : Inb) : b.response.node = b.src ∧ (b.bad = none → at_ b.response.hdr 1 1 = 0) ∧
    (b.bad = none → b.write = false → at_ b.response.hdr 0 1 = 0x81 ∧ b.response.flits.length = ceilDiv (hLen b.hdr) 64) ∧
    (b.bad ≠ none → b.response.flits = []) := by
  unfold Inb.response
  cases hb : b.bad with
  | some p => exact ⟨rfl, nofun, nofun, fun _ => rfl⟩
  | none =>
    cases hw : b.write with
    | true => exact ⟨rfl, fun _ => header_status .., nofun, nofun⟩
    | false => exact ⟨rfl, fun _ => header_status .., fun _ _ => ⟨header_type .., length_flitsOf ..⟩, nofun⟩

/-- Settles O54: an arriving request is served (`State.serve_spec`) or answered at once (`State.denied_spec`), and a served one
leaves with its response (`Inb.response_spec`). -/
theorem inboundRequestsAreServed : Obligations.InboundRequestsAreServed := by
  unfold Obligations.InboundRequestsAreServed
  refine ⟨fun s m write c hr hc ht => ?_, fun s id b hup hb => ⟨fun hq ho => ?_, fun hw => ?_⟩⟩
  · have hexec : exec c s = .next (s.inRequest m write) := by cases write <;> (subst hc; rfl)
    rw [hexec, State.inRequest_of_type hr ht]
    refine ⟨fun hk => ?_, fun hk h0 => ?_, fun st hk hst h0 => ?_⟩
    · rw [if_neg (by simp [hk]), State.received_hdrBad s hk]
    · obtain ⟨b, hinbs, hid, hwr, hhdr, hsrc, hport, hcl, hfirm, hleft, hdata⟩ := s.serve_spec m write
      have hserve := s.serve_frame m write
      rw [if_pos hk, if_pos h0]
      exact ⟨_, b, rfl, hinbs, hid, hwr, hhdr, hsrc, hport, hcl, hfirm, hleft, hdata, hserve.get .ports rfl,
        hserve.get .fabs rfl, hserve.get .hold rfl⟩
    · have hlt := hst ▸ s.inCheck_lt m write
      have hfields := respond_fields m.hdr m.src.val (st := st) (by rw [ht]; cases write <;> decide) hlt
      obtain ⟨htype, hstatus, htag⟩ := hfields
      rw [if_pos hk, hst, if_neg h0]
      have hu : Frame [.flt] s (if st = 7 then s else s.raise 51 5 m.port.val none (fportDetail m.src.val m.hdr)) := by
        split
        · exact .refl
        · exact State.raise_frame _ _ _ _ _ _ _
      obtain ⟨htx, hinbs, hports, hhold, hwait⟩ := State.denied_spec (m := m) hu
        { cls := .soft 7, resp := true, cluster := 0, firm := false, msg := respond m.hdr m.src.val st }
      refine ⟨_, _, rfl, htx, rfl, rfl, htype.trans ?_, hstatus, htag, rfl, hinbs, hports, hhold, fun h7 => ?_⟩
      · rw [ht]; cases write <;> rfl
      · exact ⟨_, hwait _ (by rw [if_neg h7, State.waiting_raise]; exact List.mem_append_right _ (List.mem_singleton.mpr rfl)),
          rfl, rfl⟩
  · have hgo := doInbResponse_over hup hb hq ho
    obtain ⟨hnode, hok, hdata, hbad⟩ := b.response_spec
    refine ⟨_, { cls := if b.firm then .top else .soft 7, resp := true, cluster := 0, firm := b.firm, msg := b.response },
      congrArg Host.Outcome.next hgo, rfl, ?_, rfl, rfl, hnode, hok, hdata, hbad, fun k hk => ?_, rfl⟩
    · rw [State.fab_putTx, if_pos rfl]; rfl
    · rw [State.fab_putTx, if_neg hk]; rfl
  · exact congrArg Host.Outcome.next (doInbResponse_waits hb hw)

end Sys2Proof.Machine
end

section
/-! PROOFS. Responses to the remote requests of a fragment (R372, R375, R376). -/

namespace Sys2Proof.Machine

open Sys2Proof

/-! ### A response finds its slot (R372) -/

section
variable {s : State} {m : InMsg} {write : Bool} (hr : s.receives = true) (hk : m.hdrOk = true)
  (ht : hType m.hdr = rspType write)
include hr hk ht

theorem State.inResponse_stray
    (h : s.matchSlot m = none ∨ m.flits.length ≠ rspFlits write (hStatus m.hdr) (hLen m.hdr)) : s.inResponse m write =
      (s.received m false).raise 50 5 m.port.val none (fportDetail m.src.val m.hdr) := by
  unfold State.inResponse
  cases hm : s.matchSlot m with
  | none => simp [hr, hk, ht]
  | some l => simp [hr, hk, ht, h.resolve_left (by simp [hm])]

variable {l : FSlot} (hm : s.matchSlot m = some l) (hl : m.flits.length = rspFlits write (hStatus m.hdr) (hLen m.hdr))
include hm hl

theorem State.inResponse_old (h : hTag m.hdr / 2 ^ 14 % 65536 ≠ (s.inst l.inst).gen) : s.inResponse m write =
    (s.received m (l.cls == .top && !l.owner.isMsi)).freeSpan m.port.val l.idx := by
  have hinst := State.inst_congr ((s.received_frame m (l.cls == .top && !l.owner.isMsi)).get .insts rfl) l.inst
  unfold State.inResponse
  simp only [hr, hk, ht, hm, hl, hinst, Bool.or_eq_true, decide_eq_true h, true_or, if_true]
  simp

theorem State.inResponse_live (h : hTag m.hdr / 2 ^ 14 % 65536 = (s.inst l.inst).gen) (ho : l.owner.isLate = false) :
    s.inResponse m write = ((s.received m (l.cls == .top && !l.owner.isMsi)).spanLate l).spanEnds m l := by
  have hinst := State.inst_congr ((s.received_frame m (l.cls == .top && !l.owner.isMsi)).get .insts rfl) l.inst
  unfold State.inResponse
  simp only [hr, hk, ht, hm, hl, hinst, ho, h, ne_eq, not_true]
  simp
end

/-- A response that is taken has been counted, and one that was slow reported, before it acts (R104, R413). -/
theorem State.responded_frame (s : State) (m : InMsg) (firm : Bool) (l : FSlot) :
    Frame [.gls, .flt] s ((s.received m firm).spanLate l) := by
  refine (s.received_frame m firm).trans ?_
  unfold State.spanLate
  split
  · exact (State.raiseAt_frame _ _ _ _ _).grow (by decide)
  · exact .refl

/-! ### The slot and its counts (R361, R378) -/

theorem State.fab_freeSpan (s : State) (f idx k : Nat) :
    ((s.freeSpan f idx).fab f).slots = (s.fab f).slots.filter (fun l => l.idx != idx) ∧
      ((s.freeSpan f idx).fab f).absent = (s.fab f).absent ∧ ((s.freeSpan f idx).fab f).err = (s.fab f).err ∧
      ((s.freeSpan f idx).fab f).tmo = (s.fab f).tmo ∧ (k ≠ f → (s.freeSpan f idx).fab k = s.fab k) := by
  refine ⟨?_, ?_, ?_, ?_, fun hk => ?_⟩ <;> simp [State.freeSpan, *]

/-- The counts of a port that software does not write in this bus clock change. -/
theorem State.fabCount_eq {s : State} {p : Nat} (h : s.written (spanStatOff p) = none) (g : FPort → FPort) :
    s.fabCount p g = s.updFab p g := by
  simp [State.fabCount, State.unlessWritten, h]

/-- What is left where a request ends: its slot is free, `g` counts it, and no other port changes. -/
structure State.Freed (s t : State) (p idx : Nat) (g : FPort → FPort) : Prop where
  slots : ∀ x ∈ (t.fab p).slots, x.idx ≠ idx
  counts : ∃ q : FPort, t.fab p = g q ∧ q.absent = (s.fab p).absent ∧ q.err = (s.fab p).err ∧ q.tmo = (s.fab p).tmo
  others : ∀ k, k ≠ p → t.fab k = s.fab k

theorem State.freed_of_fab {s t : State} {p idx : Nat} {g : FPort → FPort} (hg : ∀ q, (g q).slots = q.slots)
    (hp : t.fab p = g ((s.freeSpan p idx).fab p)) (ho : ∀ k, k ≠ p → t.fab k = (s.freeSpan p idx).fab k) :
    s.Freed t p idx g := by
  obtain ⟨hslots, habsent, herr, htmo, -⟩ := s.fab_freeSpan p idx p
  refine ⟨fun x hx => ?_, ⟨_, hp, habsent, herr, htmo⟩, fun k hk => (ho k hk).trans ((s.fab_freeSpan p idx k).2.2.2.2 hk)⟩
  rw [hp, hg, hslots] at hx
  simpa using (List.mem_filter.1 hx).2

theorem State.fab_congr {s t : State} (h : t.fabs = s.fabs) (k : Nat) : t.fab k = s.fab k := by
  rw [State.fab, State.fab, h]

/-- One more answer is counted. -/
def FPort.countAbsent (q : FPort) : FPort := { q with absent := satAdd 16 q.absent 1 }
def FPort.countErr (q : FPort) : FPort := { q with err := satAdd 8 q.err 1 }

theorem State.freed_counted (s : State) (p idx : Nat) {g : FPort → FPort} (hg : ∀ q, (g q).slots = q.slots) :
    s.Freed ((s.freeSpan p idx).updFab p g) p idx g :=
  State.freed_of_fab hg (by simp) fun k hk => by simp [hk]

theorem State.Freed.fabs {s t u : State} {p idx : Nat} {g : FPort → FPort} (h : s.Freed t p idx g) (hu : u.fabs = t.fabs) :
    s.Freed u p idx g := by
  have hfab := State.fab_congr hu
  exact ⟨(hfab p).symm ▸ h.slots, (hfab p).symm ▸ h.counts, fun k hk => (hfab k).trans (h.others k hk)⟩

/-! ### What it brings to the fragment (R375, R376) -/

section
variable {s : State} {m : InMsg} {l : FSlot}

/-- BUSY keeps the slot, for a request sent again 500 bus clocks on (R375). -/
theorem State.spanEnds_busy (h : hStatus m.hdr = 7) (hw : s.written (spanStatOff m.port.val) = none) :
    ((s.spanEnds m l).fab m.port.val).busy = satAdd 8 (s.fab m.port.val).busy 1 ∧
      (∀ x ∈ ((s.spanEnds m l).fab m.port.val).slots, x.idx = l.idx → x.busyAt = some (s.age + 500)) ∧
      (∃ d ∈ (s.spanEnds m l).flt.waiting, d.source = 56) ∧ (∀ k, k ≠ m.port.val → (s.spanEnds m l).fab k = s.fab k) ∧
      (s.spanEnds m l).hold = s.hold := by
  simp only [State.spanEnds, h, if_true, State.fabCount_eq hw]
  refine ⟨by simp, fun x hx hidx => ?_, ?_, fun k hk => by simp [hk], rfl⟩
  · simp only [State.raiseAt_at_fab, State.fab_updFab, if_true, List.mem_map] at hx
    obtain ⟨y, -, rfl⟩ := hx
    by_cases hy : y.idx = l.idx
    · rw [if_pos hy]
    · rw [if_neg hy] at hidx
      exact absurd hidx hy
  · obtain ⟨d, hd, hk, -⟩ := State.mem_raiseAt _ _ _ _ _
    exact ⟨d, hd, hk⟩

theorem State.spanEnds_ok (h : hStatus m.hdr = 0) : s.spanEnds m l = (s.freeSpan m.port.val l.idx).spanOk l (payload m)
    ((List.range (ceilDiv l.bytes 64)).filter (fun k => (hPoison m.hdr).testBit k)) (payloadBad m) := by
  simp [State.spanEnds, h]

theorem State.spanEnds_absent (h : hStatus m.hdr = 5) (hw : s.written (spanStatOff m.port.val) = none) : s.spanEnds m l =
    ((s.freeSpan m.port.val l.idx).updFab m.port.val FPort.countAbsent).spanFails l 0x21 0 54 := by
  simp only [State.spanEnds, h, State.fabCount_eq (s := s.freeSpan ..) hw]
  rfl

theorem State.spanEnds_error (h0 : hStatus m.hdr ≠ 0) (h5 : hStatus m.hdr ≠ 5) (h7 : hStatus m.hdr ≠ 7)
    (hw : s.written (spanStatOff m.port.val) = none) : ∃ stat, s.spanEnds m l =
      ((s.freeSpan m.port.val l.idx).updFab m.port.val FPort.countErr).spanFails l (remoteErr l.write) stat 53 := by
  refine ⟨if hStatus m.hdr = 2 then 2 else if hStatus m.hdr = 4 ∨ hStatus m.hdr = 6 then 0 else 1, ?_⟩
  simp only [State.spanEnds, h0, h5, h7, if_false, State.fabCount_eq (s := s.freeSpan ..) hw]
  rfl

variable {id : Nat} {f : Frag}

/-- A failed request of a fragment is a condition of the fragment. -/
theorem State.spanFails_raises (ho : l.owner = .frag id) (hf : s.frag? id = some f) (code stat source : Nat) :
    ∃ d ∈ (s.spanFails l code stat source).flt.waiting, d.source = source ∧ d.attr = f.attr := by
  simp only [State.spanFails, ho, hf]
  cases l.write with
  | true =>
    obtain ⟨d, hd, hk⟩ := State.mem_raiseAt _ source f.attr _ none
    exact ⟨d, State.writesOver_finds _ _ hd, hk⟩
  | false =>
    obtain ⟨d, hd, hk⟩ := State.fragSrcFails_raises s f code stat source
    exact ⟨d, State.readsOver_finds _ _ hd, hk⟩

theorem State.spanOk_write (ho : l.owner = .frag id) (hw : l.write = true) (data : List Byte) (lines bad : List Nat) :
    (s.spanOk l data lines bad).hold = s.hold := by
  unfold State.spanOk
  rw [ho]
  dsimp only
  split
  · rfl
  · rw [if_pos hw]
    exact (State.fragWriteEnds_frame s id).get .hold rfl

/-- The data of a read stand where the swap places them (R112, R376). -/
theorem State.spanOk_read (ho : l.owner = .frag id) (hf : s.frag? id = some f) (hw : l.write = false) (hd : f.dead = false)
    (he : f.srcErr = none) (data : List Byte) (lines bad : List Nat) : (s.spanOk l data lines bad).hold =
      (List.range (data.take l.bytes).length).foldl (fun m k =>
        Memory.write m (f.at_ + swapOff f.swap (f.pos - f.base) (l.off + k)) (byteAt (data.take l.bytes) k)) s.hold := by
  simp only [State.spanOk, ho, hf, hw, hd, he]
  exact (State.fragReadEnds_frame _ id).get .hold rfl
end

/-- Settles O55: the response is taken (`State.inResponse_live`) and acts by its status (`State.spanEnds_busy`,
`State.spanEnds_ok`, `State.spanEnds_absent`, `State.spanEnds_error`); the end of the request leaves the fabric ports. -/
theorem remoteResponsesEnd : Obligations.RemoteResponsesEnd := by
  unfold Obligations.RemoteResponsesEnd
  rintro s m write c _ hr hk hc ht rfl hw
  have hexec : exec c s = .next (s.inResponse m write) := by cases write <;> (subst hc; rfl)
  rw [hexec]
  refine ⟨fun h => congrArg _ (State.inResponse_stray hr hk ht h), fun l hm hl hg =>
    congrArg _ (State.inResponse_old hr hk ht hm hl hg), fun l id f hm hl hg ho hwr hf => ?_⟩
  rw [State.inResponse_live hr hk ht hm hl hg (by rw [ho]; rfl)]
  have hpre := s.responded_frame m (l.cls == .top && !l.owner.isMsi) l
  generalize (s.received m (l.cls == .top && !l.owner.isMsi)).spanLate l = u at hpre ⊢
  have hfab (k : Nat) : u.fab k = s.fab k := by rw [State.fab, State.fab, hpre.get .fabs rfl]
  have huw : u.written (spanStatOff m.port.val) = none := by
    rw [← hw, State.written, State.written, hpre.get .clk rfl]
  have hold : u.hold = s.hold := hpre.get .hold rfl
  have hage : u.age = s.age := hpre.get .age rfl
  replace hf : u.frag? id = some f := (State.frag_of_frags (hpre.get .frags rfl) id).trans hf
  refine ⟨_, rfl, ?_⟩
  by_cases h7 : hStatus m.hdr = 7
  · have hne {n : Nat} (h : hStatus m.hdr = n) (hn : 7 ≠ n) : False := hn (h7.symm.trans h)
    obtain ⟨hbusy, hat, hraised, hothers, hkept⟩ := State.spanEnds_busy (l := l) h7 huw
    rw [hfab] at hbusy
    rw [hage] at hat
    exact ⟨fun h => absurd h7 h, fun k hk => (hothers k hk).trans (hfab k), fun _ => hkept.trans hold,
      fun h => (hne h (by decide)).elim, fun h => (hne h (by decide)).elim, fun _ => ⟨hbusy, hat, hraised⟩,
      fun h => (hne h (by decide)).elim, fun _ _ h => absurd h7 h⟩
  by_cases h0 : hStatus m.hdr = 0
  · have hok := State.spanOk_frame (u.freeSpan m.port.val l.idx) l (payload m)
      ((List.range (ceilDiv l.bytes 64)).filter (fun k => (hPoison m.hdr).testBit k)) (payloadBad m)
    have hfreed : u.Freed (u.freeSpan m.port.val l.idx) m.port.val l.idx (fun q => q) :=
      State.freed_of_fab (fun _ => rfl) rfl fun _ _ => rfl
    replace hfreed := hfreed.fabs (hok.get .fabs rfl)
    rw [State.spanEnds_ok h0]
    refine ⟨fun _ => hfreed.slots, fun k hk => (hfreed.others k hk).trans (hfab k), fun h => ?_,
      fun _ hw' hd he a ha => ?_, fun _ hw' hd he k hk hinj => ?_, fun h => absurd h h7,
      fun h => absurd (h0.symm.trans h) (by decide), fun h => absurd h0 h⟩
    · exact (State.spanOk_write ho (hwr.trans (h.resolve_left (by simp [h0]))) _ _ _).trans hold
    · rw [State.spanOk_read (s := u.freeSpan ..) ho hf (hwr.trans hw') hd he, ← hold]
      exact Memory.read_scatter_outside _ _ _ _ fun k hk => ha k (List.mem_range.1 hk)
    · rw [State.spanOk_read (s := u.freeSpan ..) ho hf (hwr.trans hw') hd he]
      exact Memory.read_scatter_inside _ _ (fun k => f.at_ + swapOff f.swap (f.pos - f.base) (l.off + k)) _
        (List.mem_range.2 hk) fun j hj h => hinj j (List.mem_range.1 hj) (Nat.add_left_cancel h)
  have hfails (g : FPort → FPort) (hg : ∀ q, (g q).slots = q.slots) (code stat source : Nat) :=
    have hframe := State.spanFails_frame ((u.freeSpan m.port.val l.idx).updFab m.port.val g) l code stat source
    have hraised := State.spanFails_raises (s := (u.freeSpan m.port.val l.idx).updFab m.port.val g) ho hf code stat source
    And.intro ((State.freed_counted u m.port.val l.idx hg).fabs (hframe.get .fabs rfl))
      (And.intro ((hframe.get .hold rfl).trans hold) hraised)
  by_cases h5 : hStatus m.hdr = 5
  · obtain ⟨⟨hslots, ⟨q, hq, habsent, -⟩, hothers⟩, hkept, d, hd, hsource, -⟩ :=
      hfails FPort.countAbsent (fun _ => rfl) 0x21 0 54
    rw [State.spanEnds_absent h5 huw]
    refine ⟨fun _ => hslots, fun k hk => (hothers k hk).trans (hfab k), fun _ => hkept, fun h => absurd h h0,
      fun h => absurd h h0, fun h => absurd h h7, fun _ => ⟨?_, d, hd, hsource⟩, fun _ h => absurd h5 h⟩
    rw [hq, FPort.countAbsent, habsent, hfab]
  · obtain ⟨stat, hends⟩ := State.spanEnds_error (l := l) h0 h5 h7 huw
    obtain ⟨⟨hslots, ⟨q, hq, -, herr, -⟩, hothers⟩, hkept, d, hd, hsource, -⟩ :=
      hfails FPort.countErr (fun _ => rfl) (remoteErr l.write) stat 53
    rw [hends]
    refine ⟨fun _ => hslots, fun k hk => (hothers k hk).trans (hfab k), fun _ => hkept, fun h => absurd h h0,
      fun h => absurd h h0, fun h => absurd h h7, fun h => absurd h h5, fun _ _ _ => ⟨?_, d, hd, hsource⟩⟩
    rw [hq, FPort.countErr, herr, hfab]

end Sys2Proof.Machine
end

section
/-! PROOFS. Requests sent again and timed out, links and strays (R359, R372 to R375, R413). -/

namespace Sys2Proof.Machine

open Sys2Proof

/-! ### A request sent again (R375) -/

theorem doReissue_due {s : State} {f idx : Nat} {l : FSlot} {t : Nat} (hup : s.up = true) (hf : s.frozen = false)
    (hl : (s.fab f).slots.find? (fun l => l.idx == idx) = some l) (ht : l.busyAt = some t) (h : t ≤ s.age) :
    doReissue f idx s = (s.updFab f (fun p => { p with
      slots := p.slots.map (fun x => if x.idx = idx then { x with busyAt := none } else x) })).putTx f
        { cls := l.cls, resp := false, cluster := l.cluster, firm := false, msg := l.msg } := by
  simp [doReissue, hl, ht, hup, hf, h]

theorem doReissue_early {s : State} {f idx : Nat} {l : FSlot} {t : Nat}
    (hl : (s.fab f).slots.find? (fun l => l.idx == idx) = some l) (ht : l.busyAt = some t) (h : s.age < t) :
    doReissue f idx s = s := by
  simp [doReissue, hl, ht, Nat.not_le_of_lt h]

/-! ### A request past its timeout (R373, R374) -/

theorem doRemoteTimeout_one {s : State} {f : Nat} {l : FSlot} (hup : s.up = true) (hf : s.frozen = false)
    (h : (List.range 4).flatMap (fun f => ((s.fab f).slots.filter (fun l => decide (l.sent + 500 * l.tmo ≤ s.age))).map
      (fun l => (f, l))) = [(f, l)]) : doRemoteTimeout s = s.spanTimeout f l := by
  simp [doRemoteTimeout, hup, hf, h]

/-- One more timeout is counted, and responses of the old epoch match no more. -/
def FPort.countTmo (q : FPort) : FPort := { q with tmo := satAdd 16 q.tmo 1 }
def FPort.nextEpoch (l : FSlot) (q : FPort) : FPort := { q with epochs := tabSet q.epochs l.idx ((l.epoch + 1) % 256) }

/-- The request has left its slot. -/
def State.retired (s : State) (f : Nat) (l : FSlot) : State :=
  ((s.freeSpan f l.idx).updFab f FPort.countTmo).updFab f (FPort.nextEpoch l)

/-- A write that a settle waits for is reported as one it gives up (R345). -/
def State.settleMissed (s : State) (f : Nat) (l : FSlot) : State :=
  if l.write && (s.inReset l.inst || (s.inst l.inst).state == .containing) && s.waitsFor l.inst l.owner l.sent then
    s.raise 35 0 0 (some l.inst) (l.tag f)
  else s

theorem State.settleMissed_frame (s : State) (f : Nat) (l : FSlot) : Frame [.flt] s (s.settleMissed f l) := by
  unfold State.settleMissed
  split
  · exact State.raise_frame _ _ _ _ _ _ _
  · exact .refl

theorem State.spanTimeout_eq {s : State} {f : Nat} (l : FSlot) (hw : s.written (spanStatOff f) = none) :
    s.spanTimeout f l = match l.owner with
      | .gone a d => ((s.retired f l).settleMissed f l).raiseAt 55 a d
      | .late a => ((s.retired f l).settleMissed f l).raiseAt 55 a
      | _ => ((s.retired f l).settleMissed f l).spanFails l 0x20 0 55 := by
  simp only [State.spanTimeout, State.fabCount_eq (s := s.freeSpan ..) hw]
  rfl

theorem State.spanTimeout_retired {s : State} {f : Nat} (l : FSlot) (hw : s.written (spanStatOff f) = none) :
    Frame [.flt, .insts, .queues, .chans, .frags, .ports, .walks, .walked] (s.retired f l) (s.spanTimeout f l) := by
  have hmissed : Frame [.flt, .insts, .queues, .chans, .frags, .ports, .walks, .walked] _ _ :=
    ((s.retired f l).settleMissed_frame f l).grow (by decide)
  rw [State.spanTimeout_eq l hw]
  split
  · exact hmissed.trans ((State.raiseAt_frame _ _ _ _ _).grow (by decide))
  · exact hmissed.trans ((State.raiseAt_frame _ _ _ _ _).grow (by decide))
  · exact hmissed.trans (State.spanFails_frame _ _ _ _ _)

theorem State.retired_fab (s : State) (f : Nat) (l : FSlot) :
    ((s.retired f l).fab f).slots = (s.fab f).slots.filter (fun x => x.idx != l.idx) ∧
      ((s.retired f l).fab f).epoch l.idx = (l.epoch + 1) % 256 ∧
      ((s.retired f l).fab f).tmo = satAdd 16 (s.fab f).tmo 1 ∧ ∀ k, k ≠ f → (s.retired f l).fab k = s.fab k := by
  have hfree := s.fab_freeSpan f l.idx
  obtain ⟨hslots, -, -, htmo, -⟩ := hfree f
  have hfab : (s.retired f l).fab f = ((s.freeSpan f l.idx).fab f).countTmo.nextEpoch l := by simp [State.retired]
  rw [hfab]
  refine ⟨hslots, tabGet_tabSet_same .., congrArg (satAdd 16 · 1) htmo, fun k hk => ?_⟩
  rw [← (hfree k).2.2.2.2 hk]
  simp [State.retired, hk]

/-- The timeout of a fragment's request is a condition of the fragment (R413). -/
theorem State.spanTimeout_raises {s : State} {f id : Nat} {l : FSlot} {x : Frag} (hw : s.written (spanStatOff f) = none)
    (ho : l.owner = .frag id) (hx : s.frag? id = some x) :
    ∃ d ∈ (s.spanTimeout f l).flt.waiting, d.source = 55 ∧ d.attr = x.attr := by
  have hfrag := State.frag_of_frags (((s.retired f l).settleMissed_frame f l).get .frags rfl) id
  have heq := State.spanTimeout_eq l hw
  rw [ho] at heq
  exact heq ▸ State.spanFails_raises ho (hfrag.trans hx) 0x20 0 55

/-! ### The link (R359, R413) -/

theorem State.fetchFails_finds (s : State) (n err stat source : Nat) : Finds s (s.fetchFails n err stat source) :=
  have hraised : Finds s ((s.updChan n (fun x => { x with fetch := false, fetchBad := some (err, stat) })).raise source 3 n
      (some (s.chan n).owner) (errInfo 3 stat false 0 32)) := State.raise_finds (s.updChan n _) _ _ _ _ _ _
  ite_finds (hraised.trans (State.afterTransfer_finds _ _)) hraised

theorem State.linkNoLink_finds (s : State) (n : Nat) : Finds s (s.linkNoLink n) :=
  (State.raise_finds s _ _ _ _ _ _).trans (State.fetchFails_finds _ _ _ _ _)

theorem State.msiEnds_finds (s : State) (i addr : Nat) (ok : Bool) (x : Option Nat) : Finds s (s.msiEnds i addr ok x) :=
  have hupd : Finds s (s.updInst i (fun x => { x with msiOut := false, msiQ := none })) := (State.updInst_frame s i _).finds rfl
  ite_finds hupd (ite_finds (hupd.trans ((State.fvCount_frame _ i 1 31 16).finds rfl))
    (hupd.trans (State.raise_finds _ _ _ _ _ _ _)))

theorem State.msiNoLink_finds (s : State) (i : Nat) : Finds s (s.msiNoLink i) :=
  Finds.trans (ite_finds Finds.rfl_ (State.raise_finds _ _ _ _ _ _ _)) (State.msiEnds_finds _ _ _ _ _)

theorem State.ctlNoLink_finds (s : State) (r : CtlReq) : Finds s (s.ctlNoLink r) := by
  unfold State.ctlNoLink
  refine ite_finds Finds.rfl_ ?_
  split
  · exact ((s.dropCtl_frame r).finds rfl).trans (State.linkNoLink_finds _ _)
  · exact ((s.dropCtl_frame r).finds rfl).trans (State.msiNoLink_finds _ _)
  · exact Finds.rfl_

theorem Finds.foldl {α : Type} {f : State → α → State} (hf : ∀ s x, Finds s (f s x)) (l : List α) (s : State) :
    Finds s (l.foldl f s) := by
  induction l generalizing s with
  | nil => exact Finds.rfl_
  | cons x xs ih => exact (hf s x).trans (ih _)

/-- The pin is seen, and reported as the level source of its port once the link has been up. -/
def State.linkSeen (s : State) (f : Nat) (up : Bool) : State :=
  let seen := (s.fab f).seen || up
  let t := s.updFab f (fun p => { p with linkup := up, seen })
  if seen && (s.fab f).linkup != up then t.level (60 + f) 5 f (!up) else t

theorem doLinkup_eq {s : State} (h : s.isPresent = true) (f : Nat) (up : Bool) : doLinkup f up s =
    if up || !(s.linkSeen f up).up then s.linkSeen f up
    else ((s.linkSeen f up).ports.flatMap (fun p => p.2.ctl)).foldl State.ctlNoLink (s.linkSeen f up) := by
  simp only [doLinkup, h]
  rfl

theorem State.linkSeen_parts (s : State) (f : Nat) (up : Bool) :
    s.linkSeen f up = { s with fabs := (s.linkSeen f up).fabs, flt := (s.linkSeen f up).flt } ∧
      (∀ k, (s.linkSeen f up).fab k =
        if k = f then { s.fab f with linkup := up, seen := (s.fab f).seen || up } else s.fab k) ∧
      ((s.fab f).linkup = up → (s.linkSeen f up).flt = s.flt) := by
  unfold State.linkSeen
  dsimp only
  refine ⟨?_, fun k => ?_, fun h => ?_⟩
  · split <;> rfl
  · split <;> simp
  · rw [if_neg (by simp [h])]
    rfl

theorem State.linkSeen_raises {s : State} {f : Nat} {up : Bool} (h : (s.fab f).linkup ≠ up) (hs : (s.fab f).seen = true) :
    ∃ d ∈ (s.linkSeen f up).flt.waiting, d.source = 60 + f ∧ d.present = !up := by
  unfold State.linkSeen
  dsimp only
  rw [if_pos (by simp [h, hs])]
  exact ⟨_, List.mem_append_right _ List.mem_cons_self, rfl, rfl⟩

theorem doLinkup_seen {s : State} (h : s.isPresent = true) (f : Nat) (up : Bool) :
    Frame [.flt, .insts, .chans, .ports] (s.linkSeen f up) (doLinkup f up s) := by
  rw [doLinkup_eq h]
  split
  · exact .refl
  · exact Frame.foldl State.ctlNoLink_frame .refl

theorem doLinkup_seen_finds {s : State} (h : s.isPresent = true) (f : Nat) (up : Bool) :
    Finds (s.linkSeen f up) (doLinkup f up s) := by
  rw [doLinkup_eq h]
  exact ite_finds Finds.rfl_ (Finds.foldl State.ctlNoLink_finds _ _)

/-- No request is asked about where the link is up, or where none waits. -/
theorem doLinkup_plain {s : State} (h : s.isPresent = true) {f : Nat} {up : Bool}
    (hc : up = true ∨ ∀ p ∈ s.ports, p.2.ctl = []) : doLinkup f up s = s.linkSeen f up := by
  rw [doLinkup_eq h]
  rcases hc with rfl | hc
  · rfl
  · have hports : (s.linkSeen f up).ports = s.ports := by rw [(s.linkSeen_parts f up).1]
    rw [hports, List.flatMap_eq_nil_iff.2 hc, List.foldl_nil, ite_self]

/-- Settles O56: one lemma for each timer and link (`doReissue_due`, `State.spanTimeout_eq`, `doLinkup_eq`), and what follows each
changes no fabric port. -/
theorem spanTimersAndLinks : Obligations.SpanTimersAndLinks := by
  unfold Obligations.SpanTimersAndLinks
  refine fun s => ⟨fun f idx l t0 hup hfr hl hb => ⟨fun ht => ?_, fun ht => ?_⟩, fun f l hup hfr hw h => ?_,
    fun f up hp => ?_, fun f up hp => ?_, fun m hr hk => ⟨fun ht => ?_, fun ht => ?_⟩, fun m hr hk => ?_⟩
  · refine ⟨_, { cls := l.cls, resp := false, cluster := l.cluster, firm := false, msg := l.msg },
      congrArg Host.Outcome.next (doReissue_due hup hfr hl hb ht), ?_, rfl, rfl, rfl, ?_, ?_, fun k hk => ?_, rfl⟩
    · simp
    · simp
    · simp
    · simp [hk]
  · exact congrArg Host.Outcome.next (doReissue_early hl hb ht)
  · have hframe := State.spanTimeout_retired l hw
    have hfab := State.fab_congr (hframe.get .fabs rfl)
    obtain ⟨hslots, hepoch, htmo, hothers⟩ := s.retired_fab f l
    refine ⟨_, congrArg Host.Outcome.next (doRemoteTimeout_one hup hfr h), ?_, ?_, ?_, hframe.get .hold rfl,
      fun k hk => (hfab k).trans (hothers k hk), fun id x ho hx => State.spanTimeout_raises hw ho hx⟩
    · rw [hfab, hslots]
    · rw [hfab, hepoch]
    · rw [hfab, htmo]
  · have hfab := State.fab_congr ((doLinkup_seen hp f.val up).get .fabs rfl)
    obtain ⟨hparts, hseen, hflt⟩ := s.linkSeen_parts f.val up
    refine ⟨_, rfl, ?_, ?_, fun k hk => ?_, fun hc => ?_, fun hl hs => ?_⟩
    · rw [hfab, hseen, if_pos rfl]
    · rw [hfab, hseen, if_pos rfl]
    · rw [hfab, hseen, if_neg hk]
    · rw [doLinkup_plain hp hc]
      exact ⟨hparts, (hseen _).trans (if_pos rfl), fun k hk => (hseen k).trans (if_neg hk), hflt⟩
    · obtain ⟨d, hd, hk⟩ := State.linkSeen_raises hl hs
      exact ⟨d, doLinkup_seen_finds hp f.val up hd, hk⟩
  · exact congrArg Host.Outcome.next (by simp [doLinkup, hp])
  · exact congrArg Host.Outcome.next (by simp only [doStray, hr, hk, ht]; rfl)
  · exact congrArg Host.Outcome.next (by simp only [doStray, hr, hk, ht]; rfl)
  · exact congrArg Host.Outcome.next (by simp only [doStray, hr, hk]; exact State.received_hdrBad s hk false)

end Sys2Proof.Machine
end

section
/-! PROOFS. Admission of a fragment (R89, R118, R121, R268, R359). -/

namespace Sys2Proof.Machine

open Sys2Proof

/-! ### What the round robin leaves -/

section
variable (s : State) (p : ArbPort) (o : Offer)

theorem State.setRr_linkup (k : Nat) : ((s.setRr p o).fab k).linkup = (s.fab k).linkup := by
  cases p with
  | mem c => rfl
  | fab f =>
    rw [State.setRr, State.fab_updFab]
    split
    · next h => rw [h]
    · rfl

theorem State.setRr_glb : (s.setRr p o).glb = s.glb := (s.setRr_frame p o).get .glb rfl
theorem State.setRr_bell : (s.setRr p o).bell = s.bell := (s.setRr_frame p o).get .bell rfl
theorem State.setRr_insts : (s.setRr p o).insts = s.insts := (s.setRr_frame p o).get .insts rfl
theorem State.setRr_frags : (s.setRr p o).frags = s.frags := (s.setRr_frame p o).get .frags rfl

theorem State.setRr_route (node : Nat) : (s.setRr p o).route node = s.route node := by
  have hport : (s.setRr p o).spanPort node = s.spanPort node := by
    simp only [State.spanPort, State.setRr_glb]
  simp only [State.route, hport, State.setRr_linkup]

theorem State.setRr_node : (s.setRr p o).node = s.node := State.node_congr (s.setRr_glb p o)

theorem State.setRr_fragSpan : (s.setRr p o).fragSpan = s.fragSpan := by
  funext f
  simp only [State.fragSpan, State.spanNeed, State.setRr_node, State.setRr_route]

theorem State.setRr_canCharge (i c : Nat) (firm : Bool) (prio bytes : Nat) (span : List (Nat × Nat × Nat)) :
    (s.setRr p o).canCharge i c firm prio bytes span = s.canCharge i c firm prio bytes span := by
  simp only [State.canCharge, State.kept, State.spanFits, State.reserving, State.inst, State.setRr_fragSpan,
    State.setRr_insts, State.setRr_frags, State.setRr_bell]
  rfl

theorem State.setRr_xlate (x : XCtx) (i a : Nat) (write : Bool) : (s.setRr p o).xlate x i a write = s.xlate x i a write :=
  have hframe := s.setRr_frame p o
  State.xlate_congr (hframe.get .cc rfl) (hframe.get .walked rfl) (hframe.get .glb rfl) x i a write

theorem State.setRr_xlateAll (x : XCtx) (i : Nat) (write : Bool) (l : List Nat) :
    (s.setRr p o).xlateAll x i write l = s.xlateAll x i write l := by
  induction l with
  | nil => rfl
  | cons a l ih => simp only [State.xlateAll, State.setRr_xlate, ih]

theorem State.setRr_order (f : Frag) : (s.setRr p o).readOrder f = s.readOrder f ∧ (s.setRr p o).writeOrder f = s.writeOrder f := by
  cases p <;> exact ⟨rfl, rfl⟩

theorem State.setRr_admitCheck (f : Frag) : (s.setRr p o).admitCheck f = s.admitCheck f := by
  obtain ⟨hread, hwrite⟩ := s.setRr_order p o f
  have hcharge : (s.setRr p o).fragCharge f = s.fragCharge f := by
    simp only [State.fragCharge, State.setRr_canCharge, State.setRr_fragSpan]
    cases p <;> rfl
  have hadmits : (s.setRr p o).admits f.ctx = s.admits f.ctx := by cases p <;> rfl
  simp only [State.admitCheck, hread, hwrite, hcharge, hadmits, State.sideXlate, State.setRr_xlateAll, State.unlinked,
    State.setRr_node, State.setRr_route, State.setRr_fragSpan, State.spanFits, State.inst, State.setRr_bell,
    State.setRr_insts]
  rfl

theorem State.setRr_sideReqs (f : Frag) (dst : Bool) : (s.setRr p o).sideReqs f dst = s.sideReqs f dst := by
  simp only [State.sideReqs, State.paOf, State.setRr_node, State.setRr_xlate]
end

/-! ### A fragment that ends at its admission -/

theorem State.frag_endFrag (s : State) (id : Nat) : (s.endFrag id).frag? id = none := by
  cases hf : s.frag? id with
  | none => simp [State.endFrag, hf]
  | some f =>
    have hdrop : ((s.dropFrag id).dropWalks (.frag id)).frag? id = none := by
      have hd := s.frag_dropFrag id id
      rwa [if_pos rfl] at hd
    simp only [State.endFrag, hf]
    split
    · exact (State.frag_of_frags ((State.burstEnds_frame _ _ f).get .frags rfl) id).trans hdrop
    · exact (State.frag_of_frags ((State.cancelRecs_frame _ _ _).get .frags rfl) id).trans
        ((State.frag_of_frags ((State.updEntry_frame _ _ _ _).get .frags rfl) id).trans hdrop)

/-- A fragment that ends with a condition: it leaves, and the condition waits for its detection. -/
theorem State.endFrag_raised (s : State) (id k : Nat) (a : Attr) (d : Word) (x : Option Nat) :
    ((s.raiseAt k a d x).endFrag id).frag? id = none ∧
      ∃ c ∈ ((s.raiseAt k a d x).endFrag id).flt.waiting, c.source = k ∧ c.attr = a ∧ c.xcause = x :=
  ⟨State.frag_endFrag _ id, _, State.endFrag_finds (s.raiseAt k a d x) id (List.mem_append_right _ List.mem_cons_self), rfl, rfl,
    rfl⟩

/-! ### Hold space given back (R89, R121) -/

/-- What goes back with a fragment: those of its context that stand behind it and are not admitted. -/
def Frag.goesWith (f x : Frag) : Bool := x.ctx == f.ctx && !x.prior f && x.phase == .assigned

/-- The fragments go back one after the other. -/
def State.takenBack (s : State) (l : List Frag) : State :=
  l.foldl (fun s x => (s.unassign x).dropWalks (.frag x.id)) s

theorem State.takenBack_frame (s : State) (l : List Frag) : Frame [.queues, .chans, .walks, .walked] s (s.takenBack l) :=
  Frame.foldl (fun u x => ((State.unassign_frame u x).grow (by decide)).trans
    ((State.dropWalks_frame (u.unassign x) (.frag x.id)).grow (by decide))) .refl

/-- Those of a queue change no channel. -/
theorem State.takenBack_queue {s : State} {l : List Frag} (h : ∀ x ∈ l, x.ctx.isQueue = true) :
    Frame [.queues, .walks, .walked] s (s.takenBack l) := by
  induction l generalizing s with
  | nil => exact .refl
  | cons x l ih =>
    obtain ⟨hx, hl⟩ := List.forall_mem_cons.1 h
    have hun : Frame [.queues, .walks, .walked] s (s.unassign x) := by
      unfold State.unassign
      split
      · next n hctx => simp [hctx, Context.isQueue] at hx
      · exact (State.updEntry_frame _ _ _ _).grow (by decide)
    exact (hun.trans ((State.dropWalks_frame _ _).grow (by decide))).trans (ih hl)

theorem State.giveBack_eq (s : State) (f : Frag) : s.giveBack f =
    match f.ctx with
    | .chan n => (({ s with frags := s.frags.filter (fun x => !f.goesWith x) }).takenBack
        (s.frags.filter f.goesWith).reverse).ifDrained n
    | .queue _ => ({ s with frags := s.frags.filter (fun x => !f.goesWith x) }).takenBack
        (s.frags.filter f.goesWith).reverse := rfl

theorem State.giveBack_leaves (s : State) (f : Frag) : (s.giveBack f).frags = s.frags.filter (fun x => !f.goesWith x) := by
  have hback := ({ s with frags := s.frags.filter (fun x => !f.goesWith x) } : State).takenBack_frame
    (s.frags.filter f.goesWith).reverse
  rw [State.giveBack_eq]
  split
  · exact ((State.ifDrained_frame _ _).get .frags rfl).trans (hback.get .frags rfl)
  · exact hback.get .frags rfl

theorem State.giveBack_queue {s : State} {f : Frag} (h : f.ctx.isQueue = true) :
    Frame [.queues, .frags, .walks, .walked] s (s.giveBack f) := by
  rw [State.giveBack_eq]
  split
  · next n hctx => simp [hctx, Context.isQueue] at h
  · have hdropped : Frame [.queues, .frags, .walks, .walked] s { s with frags := s.frags.filter (fun x => !f.goesWith x) } :=
      fun p hp => by cases p <;> first | rfl | exact absurd hp (by decide)
    refine hdropped.trans ((State.takenBack_queue fun x hx => ?_).grow (by decide))
    have hx := (List.mem_filter.1 (List.mem_reverse.1 hx)).2
    simp only [Frag.goesWith, Bool.and_eq_true, beq_iff_eq] at hx
    rw [hx.1.1, h]

/-! ### The first read request (R89, R118) -/

/-- Its context notes the read: a channel its position (R175). -/
def State.readNoted (s : State) (f : Frag) (q : Req) : State :=
  match f.ctx with
  | .queue _ => s
  | .chan n => s.updChan n (fun x =>
      let p := max x.rdPos (f.pos + q.off + q.bytes)
      { x with rdPos := p, src := addrAfter x.src0 (cfgSfix x.cfg) p })

/-- The request goes out on the memory port of its cluster, or on a fabric port (R131, R362). -/
def State.readSent (s : State) (id : Nat) (f : Frag) (q : Req) : State :=
  match f.rport with
  | none => s.issueRead f.cluster (.frag id) f.inst f.gen q (f.charge == Charge.firm) f.charge.acct
  | some p => s.issueSpan p (.frag id) false f.inst f.gen q f.charge.cls f.cluster [] 0

/-- A read request is outstanding instead of waiting. -/
def Frag.reads (left : List Req) (f : Frag) : Frag := { f with rdReqs := left, rdOut := f.rdOut + 1 }

theorem State.fragRead_eq {s : State} {id : Nat} {f : Frag} {q : Req} {left : List Req} (hf : s.frag? id = some f)
    (hq : f.rdReqs = q :: left) :
    s.fragRead id = ((s.updFrag id (Frag.reads left)).readNoted f q).readSent id f q := by
  simp only [State.fragRead, hf, hq]
  rfl

theorem State.readNoted_frame (s : State) (f : Frag) (q : Req) : Frame [.chans] s (s.readNoted f q) := by
  unfold State.readNoted
  split
  · exact .refl
  · exact State.updChan_frame _ _ _

theorem State.readSent_frame (s : State) (id : Nat) (f : Frag) (q : Req) :
    Frame [.gls, .ports, .fabs] s (s.readSent id f q) := by
  unfold State.readSent
  split
  · exact (State.issueRead_frame _ _ _ _ _ _ _ _).grow (by decide)
  · exact (State.issueSpan_frame _ _ _ _ _ _ _ _ _ _ _).grow (by decide)

theorem State.fragRead_spec {s : State} {id : Nat} {f : Frag} {q : Req} {left : List Req} (hf : s.frag? id = some f)
    (hq : f.rdReqs = q :: left) : (s.fragRead id).frag? id = some (f.reads left) ∧
      Frame [.gls, .chans, .frags, .ports, .fabs] s (s.fragRead id) := by
  have hafter : Frame [.gls, .chans, .ports, .fabs] (s.updFrag id (Frag.reads left)) (s.fragRead id) := by
    rw [State.fragRead_eq hf hq]
    exact ((State.readNoted_frame _ f q).grow (by decide)).trans ((State.readSent_frame _ id f q).grow (by decide))
  refine ⟨(State.frag_of_frags (hafter.get .frags rfl) id).trans ?_, ((State.updFrag_frame s id _).grow (by decide)).trans
    (hafter.grow (by decide))⟩
  rw [State.frag_updFrag s id (Frag.reads left) fun _ => rfl, if_pos rfl, hf]
  rfl

/-- An instance whose budget has paid (R89). -/
theorem State.inst_charge (s : State) (i c : Nat) (k : Charge) (n : Nat) (span : List (Nat × Nat × Nat)) :
    (k = .firm → nth ((s.charge i c k n span).inst i).leftF c = nth (s.inst i).leftF c - n ∧
      ((s.charge i c k n span).inst i).leftS = (s.inst i).leftS) ∧
    (∀ m, k = .soft m → nth ((s.charge i c k n span).inst i).leftS c = nth (s.inst i).leftS c - n ∧
      ((s.charge i c k n span).inst i).leftF = (s.inst i).leftF) ∧
    (∀ j, j ≠ i → (s.charge i c k n span).inst j = s.inst j) := by
  refine ⟨fun hk => ?_, fun m hk => ?_, fun j hj => ?_⟩
  · subst hk; simp [State.charge, nth_setNth]
  · subst hk; simp [State.charge, nth_setNth]
  · simp [State.charge, hj]

/-- A fragment with its requests fixed and its charge noted, in the state where the budget has paid. -/
def State.admitMark (s : State) (f : Frag) (k : Charge) (rd wr : List Req) (g : Frag) : Frag := { g with
  charge := k, rdReqs := rd, wrReqs := wr, admGlass := s.bell.glass, admAt := s.nextId
  rport := s.sidePort f.src, wport := s.sidePort f.dst
  phase := if f.src.isNone then .staged else .reading }

/-- The pages of a fragment have been looked at, and its budget has paid. -/
def State.paid (s : State) (f : Frag) (k : Charge) (pages : List Nat) : State :=
  let u := (s.touchAll f.inst pages).dropWalked (.frag f.id)
  u.charge f.inst f.cluster k f.len (u.fragSpan f)

theorem State.admitFrag_eq (s : State) (f : Frag) (k : Charge) : ∃ pages, s.admitFrag f k =
    ({ s.paid f k pages with nextId := (s.paid f k pages).nextId + 1 } : State).updFrag f.id
      ((s.paid f k pages).admitMark f k (s.sideReqs f false) (s.sideReqs f true)) := ⟨_, rfl⟩

theorem State.paid_frame (s : State) (f : Frag) (k : Charge) (pages : List Nat) :
    Frame [.insts, .cc, .walked] s (s.paid f k pages) :=
  (((s.touchAll_frame f.inst pages).grow (by decide)).trans ((State.dropWalked_frame _ _).grow (by decide))).trans
    ((State.charge_frame _ _ _ _ _ _).grow (by decide))

theorem State.inst_paid (s : State) (f : Frag) (k : Charge) (pages : List Nat) :
    (k = .firm → nth ((s.paid f k pages).inst f.inst).leftF f.cluster = nth (s.inst f.inst).leftF f.cluster - f.len ∧
      ((s.paid f k pages).inst f.inst).leftS = (s.inst f.inst).leftS) ∧
    (∀ m, k = .soft m → nth ((s.paid f k pages).inst f.inst).leftS f.cluster = nth (s.inst f.inst).leftS f.cluster - f.len ∧
      ((s.paid f k pages).inst f.inst).leftF = (s.inst f.inst).leftF) ∧
    (∀ j, j ≠ f.inst → (s.paid f k pages).inst j = s.inst j) := by
  have hpre : Frame [.cc, .walked] s ((s.touchAll f.inst pages).dropWalked (.frag f.id)) :=
    ((s.touchAll_frame f.inst pages).grow (by decide)).trans ((State.dropWalked_frame _ _).grow (by decide))
  have hcharge := ((s.touchAll f.inst pages).dropWalked (.frag f.id)).inst_charge f.inst f.cluster k f.len
    (((s.touchAll f.inst pages).dropWalked (.frag f.id)).fragSpan f)
  simp only [State.inst_congr (hpre.get .insts rfl)] at hcharge
  exact hcharge

/-- A fragment that reads is admitted with its requests, and its budget pays (R89, R118). -/
theorem State.admitFrag_spec {s : State} {f : Frag} (hf : s.frag? f.id = some f) (k : Charge) (hs : f.src ≠ none) :
    ∃ g pages, (s.admitFrag f k).frag? f.id = some g ∧ g.phase = .reading ∧ g.rdReqs = s.sideReqs f false ∧
      g.rdOut = f.rdOut ∧ g.charge = k ∧ g.admGlass = s.bell.glass ∧ (s.admitFrag f k).insts = (s.paid f k pages).insts := by
  obtain ⟨pages, heq⟩ := s.admitFrag_eq f k
  have hpaid := s.paid_frame f k pages
  have hsrc : f.src.isNone = false := Option.isNone_eq_false_iff.2 (Option.isSome_iff_ne_none.2 hs)
  have hmark := ({ s.paid f k pages with nextId := (s.paid f k pages).nextId + 1 } : State).frag_updFrag f.id
    ((s.paid f k pages).admitMark f k (s.sideReqs f false) (s.sideReqs f true)) (fun _ => rfl) f.id
  have hfrag : ({ s.paid f k pages with nextId := (s.paid f k pages).nextId + 1 } : State).frag? f.id = some f :=
    (State.frag_of_frags (hpaid.get .frags rfl) f.id).trans hf
  rw [if_pos rfl, hfrag] at hmark
  rw [heq]
  refine ⟨_, pages, hmark, ?_, rfl, rfl, rfl, congrArg Bell.glass (hpaid.get .bell rfl), rfl⟩
  simp [State.admitMark, hsrc]

/-- What an assigned fragment that passes its checks asks for first is a read, if it reads. -/
theorem State.ownTurn_assigned {s : State} {f : Frag} {k : Charge} {p : ArbPort} {o : Offer} (hph : f.phase = .assigned)
    (hs : f.src ≠ none) (hk : s.admitCheck f = .go k) (h : s.ownTurn f = some (p, o)) : o.what = .read f.id := by
  have hsrc : f.src.isNone = false := Option.isNone_eq_false_iff.2 (Option.isSome_iff_ne_none.2 hs)
  simp only [State.ownTurn, State.nextReq, hph, hk, hsrc, Bool.false_eq_true, if_false] at h
  split at h
  · split at h <;> cases h
    rename_i hwhat
    simpa using hwhat
  · cases h

/-- On its turn the fragment is admitted, and its first read issued (R89, R118, R122). -/
theorem State.tryGrant_assigned {s : State} {f : Frag} {k : Charge} {p : ArbPort} {o : Offer} (hf : s.frag? f.id = some f)
    (hph : f.phase = .assigned) (hs : f.src ≠ none) (hk : s.admitCheck f = .go k) (ht : s.ownTurn f = some (p, o))
    (par : List (Nat × OutPar)) : s.tryGrant f par = ((s.setRr p o).admitFrag f k).fragRead f.id := by
  have hwhat := State.ownTurn_assigned hph hs hk ht
  have hf' := (State.frag_of_frags (s.setRr_frags p o) f.id).trans hf
  have hk' := (s.setRr_admitCheck p o f).trans hk
  simp only [State.tryGrant, ht, State.grant, hwhat, State.admitFirst, hf', hph, hk']

theorem doAdmission_assigned {s : State} {id : Nat} {f : Frag} (hi : s.issues = true) (hf : s.countAllWaits.frag? id = some f)
    (hph : f.phase = .assigned) : doAdmission id s = s.countAllWaits.admitNow f [] := by
  simp [doAdmission, hi, hf, hph]

/-- Settles O26: the answer of the checks decides (`State.admitNow`); a fragment that ends is `State.endFrag_raised`, one given back
`State.giveBack_leaves`, one granted `State.admitFrag_spec` with `State.fragRead_spec`. -/
theorem admissionDecides : Obligations.AdmissionDecides := by
  unfold Obligations.AdmissionDecides
  intro s u id f hi hu hf hph
  rw [hu] at hf ⊢
  obtain rfl := State.frag_id hf
  have hcount := s.countAllWaits_frame
  have hgo := doAdmission_assigned hi hf hph
  generalize s.countAllWaits = u at hf hcount hgo ⊢
  refine ⟨fun dst c hc => ?_, fun dst hc => ?_, fun hc => ?_, fun hc => ?_, fun k q rest p o hc hs hq ht => ?_⟩ <;>
    simp only [State.admitNow, hc] at hgo
  · have hframe := u.fragXfail_frame f dst c
    obtain ⟨hgone, d, hd, hsource, hattr, hcause⟩ := State.endFrag_raised (u.updFrag f.id (fun g =>
      if dst then { g with dstErr := some (0x14, 0) } else { g with srcErr := some (0x13, 0) })) f.id 14 f.attr
        (BitVec.ofNat 64 (f.sideAddr dst)) (some c)
    exact ⟨_, congrArg Host.Outcome.next hgo, hgone, (hframe.get .hold rfl).trans (hcount.get .hold rfl),
      (hframe.get .gls rfl).trans (hcount.get .gls rfl), d, hd, hsource, hattr, hcause⟩
  · have hframe := u.fragNoLink_frame f dst
    obtain ⟨hgone, d, hd, hsource, hattr, -⟩ := State.endFrag_raised (u.updFrag f.id (fun g =>
      if dst then { g with dstErr := some (0x21, 0) } else { g with srcErr := some (0x21, 0) })) f.id 49 f.attr
        (BitVec.ofNat 64 (f.sideAddr dst)) none
    exact ⟨_, congrArg Host.Outcome.next hgo, hgone, (hframe.get .hold rfl).trans (hcount.get .hold rfl),
      (hframe.get .gls rfl).trans (hcount.get .gls rfl), d, hd, hsource, hattr⟩
  · have hframe := u.giveBack_frame f
    refine ⟨_, congrArg Host.Outcome.next hgo, u.giveBack_leaves f, (hframe.get .hold rfl).trans (hcount.get .hold rfl),
      (hframe.get .gls rfl).trans (hcount.get .gls rfl), hframe.get .ports rfl,
      (hframe.get .fabs rfl).trans (hcount.get .fabs rfl), fun hqueue => ?_⟩
    have hqueue := State.giveBack_queue (s := u) hqueue
    exact ⟨(hqueue.get .insts rfl).trans (hcount.get .insts rfl), hqueue.get .flt rfl,
      (hqueue.get .chans rfl).trans (hcount.get .chans rfl)⟩
  · exact congrArg Host.Outcome.next hgo
  · rw [State.tryGrant_assigned hf hph hs hc ht] at hgo
    have hrr := u.setRr_frame p o
    obtain ⟨g, pages, hg, hphase, hreqs, hout, hcharge, hglass, hinsts⟩ :=
      State.admitFrag_spec ((State.frag_of_frags (u.setRr_frags p o) f.id).trans hf) k hs
    have hadmit := (u.setRr p o).admitFrag_frame f k
    obtain ⟨hread, hframe⟩ := State.fragRead_spec hg (hreqs.trans ((u.setRr_sideReqs p o f false).trans hq))
    obtain ⟨hfirm, hsoft, hother⟩ := (u.setRr p o).inst_paid f k pages
    have hinst (j : Nat) := State.inst_congr ((hframe.get .insts rfl).trans hinsts) j
    have hbefore (j : Nat) : (u.setRr p o).inst j = s.inst j :=
      State.inst_congr ((u.setRr_insts p o).trans (hcount.get .insts rfl)) j
    simp only [← hinst, hbefore] at hfirm hsoft hother
    refine ⟨_, _, congrArg Host.Outcome.next hgo, hread, hphase, rfl, congrArg (· + 1) hout, hcharge, hglass.trans ?_,
      (hframe.get .hold rfl).trans ((hadmit.get .hold rfl).trans ((hrr.get .hold rfl).trans (hcount.get .hold rfl))),
      (hframe.get .flt rfl).trans ((hadmit.get .flt rfl).trans (hrr.get .flt rfl)), hfirm, hsoft, hother⟩
    exact congrArg Bell.glass ((u.setRr_bell p o).trans (hcount.get .bell rfl))

end Sys2Proof.Machine
end

section
/-! PROOFS. What the operations on channels, bursts and fragments leave: the state of every instance and SUSP of every channel
(R162, R352). -/

namespace Sys2Proof.Machine

open Sys2Proof

/-- No instance enters another state, and no channel is suspended or resumed. -/
structure Rests (s t : State) : Prop where
  state : ∀ j, (t.inst j).state = (s.inst j).state
  susp : ∀ n, (t.chan n).susp = (s.chan n).susp

theorem Rests.rfl_ {s : State} : Rests s s := ⟨fun _ => rfl, fun _ => rfl⟩

theorem Rests.trans {s t u : State} (h : Rests s t) (g : Rests t u) : Rests s u :=
  ⟨fun j => (g.state j).trans (h.state j), fun n => (g.susp n).trans (h.susp n)⟩

theorem Frame.rests {ps : List Part} {s t : State} (h : Frame ps s t) (hi : ps.contains .insts = false)
    (hc : ps.contains .chans = false) : Rests s t :=
  ⟨fun j => congrArg Inst.state (State.inst_congr (h.get .insts hi) j), fun n => congrArg Chan.susp (h.chan hc n)⟩

theorem ite_rests {s t u : State} {p : Prop} [Decidable p] (ht : Rests s t) (hu : Rests s u) : Rests s (if p then t else u) := by
  split
  · exact ht
  · exact hu

theorem Rests.foldl {α : Type} {f : State → α → State} (hf : ∀ s x, Rests s (f s x)) (l : List α) (s : State) :
    Rests s (l.foldl f s) := by
  induction l generalizing s with
  | nil => exact Rests.rfl_
  | cons x xs ih => exact (hf s x).trans (ih _)

theorem State.updChan_rests {s : State} {n : Nat} {f : Chan → Chan} (hf : (f (s.chan n)).susp = (s.chan n).susp) :
    Rests s (s.updChan n f) := by
  refine ⟨fun _ => rfl, fun m => ?_⟩
  rw [State.chan_updChan]
  split
  · next h => rw [hf, h]
  · rfl

theorem State.updInst_rests {s : State} {i : Nat} {f : Inst → Inst} (hf : (f (s.inst i)).state = (s.inst i).state) :
    Rests s (s.updInst i f) := by
  refine ⟨fun j => ?_, fun _ => rfl⟩
  rw [State.inst_updInst]
  split
  · next h => rw [hf, h]
  · rfl

theorem State.raise_rests (s : State) (k kind unit : Nat) (inst : Option Nat) (d : Word) (x : Option Nat) :
    Rests s (s.raise k kind unit inst d x) := ⟨fun _ => rfl, fun _ => rfl⟩

/-! ### Events (R243, R244) -/

theorem State.loseEvent_rests (s : State) (i n : Nat) : Rests s (s.loseEvent i n) :=
  ite_rests (Rests.trans (State.updInst_rests rfl) (State.raise_rests _ _ _ _ _ _ _)) (State.updInst_rests rfl)

theorem State.post_rests (s : State) (i : Nat) (r : EvRec) : Rests s (s.post i r) := by
  refine ite_rests Rests.rfl_ ?_
  have hl : Rests s (if s.lostDue i then s.addLost i else s) := ite_rests (State.updInst_rests rfl) Rests.rfl_
  exact hl.trans (ite_rests (State.loseEvent_rests _ _ _)
    (ite_rests (Rests.trans (State.updInst_rests rfl) (State.loseEvent_rests _ _ _)) (State.updInst_rests rfl)))

/-! ### Channels (R182, R188 to R198) -/

theorem State.chEvent_rests (s : State) (n code : Nat) (load : List Byte) : Rests s (s.chEvent n code load) :=
  State.post_rests _ _ _

theorem State.chIdle_rests (s : State) (n endc : Nat) : Rests s (s.chIdle n endc) :=
  Rests.trans (State.updChan_rests rfl) (State.chEvent_rests _ _ _ _)

theorem State.chError_rests (s : State) (n err : Nat) : Rests s (s.chError n err) :=
  Rests.trans (State.updChan_rests rfl) (State.chEvent_rests _ _ _ _)

theorem State.chDone_rests (s : State) (n : Nat) : Rests s (s.chDone n) :=
  Rests.trans (State.updChan_rests rfl) (State.chEvent_rests _ _ _ _)

theorem State.badDesc_rests (s : State) (n : Nat) : Rests s (s.badDesc n) :=
  Rests.trans (Rests.trans (State.updChan_rests rfl) (State.raise_rests _ _ _ _ _ _ _)) (State.chError_rests _ _ _)

theorem State.goOn_rests (s : State) (n : Nat) (next : Chan → ChState) : Rests s (s.goOn n next) := State.updChan_rests rfl

theorem State.promote_rests (s : State) (n : Nat) : Rests s (s.promote n) :=
  ite_rests (State.badDesc_rests _ _) (Rests.trans (State.updChan_rests rfl) (State.goOn_rests _ _ _))

theorem State.afterTransfer_rests (s : State) (n : Nat) : Rests s (s.afterTransfer n) := by
  refine ite_rests (State.promote_rests _ _) ?_
  split
  · exact Rests.trans (State.updChan_rests rfl) (State.chError_rests _ _ _)
  · exact ite_rests (State.chIdle_rests _ _ _) (ite_rests (State.chIdle_rests _ _ _) (State.goOn_rests _ _ _))

theorem State.chCount_rests (s : State) (n : Nat) {f : Chan → Chan} (hf : ∀ x, (f x).susp = x.susp) :
    Rests s (s.chCount n f) := ite_rests Rests.rfl_ (State.updChan_rests (hf _))

theorem State.countTransfer_rests (s : State) (n : Nat) : Rests s (s.countTransfer n) :=
  Rests.trans (ite_rests (State.chDone_rests _ _) Rests.rfl_) (State.chCount_rests _ _ fun _ => rfl)

theorem State.asCalled_rests (s : State) (n : Nat) : Rests s (s.asCalled n) :=
  ite_rests (Rests.trans (State.updChan_rests rfl) (State.afterTransfer_rests _ _))
    (ite_rests (State.badDesc_rests _ _) (State.updChan_rests rfl))

theorem State.drained_rests (s : State) (n : Nat) : Rests s (s.drained n) := by
  have settled (x : Chan → Nat) : Rests s (s.updChan n fun c => c.settle (x c)) := State.updChan_rests rfl
  have noted (u : State) : Rests u (u.updChan n fun x => { x with errinfo := x.failInfo }) := State.updChan_rests rfl
  unfold State.drained
  dsimp only
  split
  · exact ite_rests (State.updChan_rests rfl) (State.asCalled_rests _ _)
  · exact ite_rests ((settled _).trans (State.chError_rests _ _ _)) ((settled _).trans (State.chIdle_rests _ _ _))
  · split
    · exact Rests.rfl_
    · exact ite_rests (((settled _).trans (noted _)).trans (State.chIdle_rests _ _ _))
        (ite_rests ((settled _).trans (State.chError_rests _ _ _)) (((settled _).trans (noted _)).trans (State.chError_rests _ _ _)))
  · exact ite_rests Rests.rfl_ (State.updChan_rests rfl)
  · exact Rests.rfl_

theorem State.ifDrained_rests (s : State) (n : Nat) : Rests s (s.ifDrained n) := ite_rests (State.drained_rests _ _) Rests.rfl_

theorem State.discardBursts_rests (s : State) (n : Nat) : Rests s (s.discardBursts n) := by
  obtain ⟨cut, hchan⟩ := s.chan_discardBursts n
  refine ⟨fun j => congrArg Inst.state (State.inst_congr ((s.discardBursts_frame n).get .insts rfl) j), fun m => ?_⟩
  rw [hchan]
  split
  · next h => rw [h]
  · rfl

theorem State.retireFetch_rests (s : State) (n : Fin 512) : Rests s (s.retireFetch n) := by
  unfold State.retireFetch
  exact Rests.trans (t := (s.disown _ _).dropWalks _) ⟨fun _ => rfl, fun _ => rfl⟩ (State.updChan_rests rfl)

theorem State.chHalt_rests (s : State) (n : Fin 512) (wish : StopWish) : Rests s (s.chHalt n wish) := by
  have still (f : Chan → Chan) (hf : ∀ x, (f x).susp = x.susp) : Rests s (((s.updChan n.val f).retireFetch n).chIdle n.val 3) :=
    ((State.updChan_rests (hf _)).trans (State.retireFetch_rests _ n)).trans (State.chIdle_rests _ _ _)
  have ends (u : State) (f : Chan → Chan) (hf : ∀ x, (f x).susp = x.susp) : Rests u ((u.updChan n.val f).ifDrained n.val) :=
    (State.updChan_rests (hf _)).trans (State.ifDrained_rests _ _)
  have cleared : Rests s (((s.discardBursts n.val).retireFetch n).updChan n.val (fun x => { x with shValid := false })) :=
    ((State.discardBursts_rests _ _).trans (State.retireFetch_rests _ n)).trans (State.updChan_rests rfl)
  unfold State.chHalt
  dsimp only
  split
  · exact Rests.rfl_
  · exact still _ fun _ => rfl
  · exact still _ fun _ => rfl
  · exact ends s _ fun _ => rfl
  · exact cleared.trans (ends _ _ fun _ => rfl)
  · exact cleared.trans (ends _ _ fun _ => rfl)

/-! ### Bursts and fragments (R192, R194) -/

theorem State.burstOk_rests (s : State) (n : Nat) (f : Frag) : Rests s (s.burstOk n f) := by
  have counted (g h : Chan → Chan) (hg : ∀ x, (g x).susp = x.susp) (hh : ∀ x, (h x).susp = x.susp) :
      Rests s ((s.chCount n g).updChan n h) := (State.chCount_rests s n hg).trans (State.updChan_rests (hh _))
  have done := counted (fun x => { x with bursts := satAdd 32 x.bursts 1 })
    (fun x => { x with remain := x.remain - f.len, wrote := max x.wrote (f.pos + 1) }) (fun _ => rfl) fun _ => rfl
  exact ite_rests (done.trans ((State.countTransfer_rests _ _).trans (State.afterTransfer_rests _ _)))
    (ite_rests (done.trans ((State.countTransfer_rests _ _).trans (State.ifDrained_rests _ _)))
      (done.trans (State.ifDrained_rests _ _)))

theorem State.burstFailed_rests (s : State) (n : Nat) (f : Frag) (err side stat : Nat) (out late : Bool) :
    Rests s (s.burstFailed n f err side stat out late) :=
  Rests.trans (State.updChan_rests rfl) (State.ifDrained_rests _ n)

theorem State.burstEnds_rests (s : State) (n : Nat) (f : Frag) : Rests s (s.burstEnds n f) := by
  have failed (err side stat : Nat) (out late : Bool) := State.burstFailed_rests s n f err side stat out late
  exact ite_rests (State.ifDrained_rests _ _) (ite_rests (State.burstOk_rests _ _ _)
    (ite_rests (ite_rests (failed _ _ _ _ _) (failed _ _ _ _ _))
      (ite_rests (failed _ _ _ _ _) (ite_rests (failed _ _ _ _ _) (failed _ _ _ _ _)))))

theorem State.endFrag_rests (s : State) (id : Nat) : Rests s (s.endFrag id) := by
  have dropped : Rests s ((s.dropFrag id).dropWalks (.frag id)) := ⟨fun _ => rfl, fun _ => rfl⟩
  unfold State.endFrag
  split
  · exact Rests.rfl_
  · dsimp only
    split
    · exact dropped.trans (State.burstEnds_rests _ _ _)
    · exact dropped.trans (((State.updEntry_frame _ _ _ _).rests rfl rfl).trans ((State.cancelRecs_frame _ _ _).rests rfl rfl))

theorem State.writesOver_rests (s : State) (id : Nat) : Rests s (s.writesOver id) := by
  have drains : Rests s (s.updFrag id (fun f => { f with phase := .draining, held := false })) := ⟨fun _ => rfl, fun _ => rfl⟩
  unfold State.writesOver
  split
  · exact Rests.rfl_
  · exact ite_rests (ite_rests (drains.trans (State.endFrag_rests _ id)) drains) Rests.rfl_

end Sys2Proof.Machine
end

section
/-! PROOFS. INST_RESET, INST_REMOVE, INST_SUSPEND and INST_RESUME (R306, R342, R345, R346). -/

namespace Sys2Proof.Machine

open Sys2Proof

/-! ### Fragments of an instance that is reset (R345) -/

/-- Every fragment of the instance has begun to write. -/
def State.onlyWrites (s : State) (i : Nat) : Prop := ∀ f ∈ s.frags, f.inst = i → f.writes = true

/-- Every fragment left is one there was, of the same instance; one that had begun to write still has. -/
def FragsLeft (s t : State) : Prop := ∀ f ∈ t.frags, ∃ g ∈ s.frags, f.inst = g.inst ∧ (g.writes = true → f.writes = true)

theorem FragsLeft.rfl_ {s : State} : FragsLeft s s := fun f hf => ⟨f, hf, rfl, id⟩

theorem FragsLeft.trans {s t u : State} (h : FragsLeft s t) (g : FragsLeft t u) : FragsLeft s u := fun f hf => by
  obtain ⟨x, hx, hxi, hxw⟩ := g f hf
  obtain ⟨y, hy, hyi, hyw⟩ := h x hx
  exact ⟨y, hy, hxi.trans hyi, fun hw => hxw (hyw hw)⟩

theorem Frame.fragsLeft {ps : List Part} {s t : State} (h : Frame ps s t) (hp : ps.contains .frags = false) : FragsLeft s t :=
  fun f hf => ⟨f, (show t.frags = s.frags from h.get .frags hp) ▸ hf, rfl, id⟩

theorem FragsLeft.foldl {α : Type} {f : State → α → State} (hf : ∀ s x, FragsLeft s (f s x)) (l : List α) (s : State) :
    FragsLeft s (l.foldl f s) := by
  induction l generalizing s with
  | nil => exact FragsLeft.rfl_
  | cons x xs ih => exact (hf s x).trans (ih _)

theorem FragsLeft.onlyWrites {s t : State} {i : Nat} (h : FragsLeft s t) (hs : s.onlyWrites i) : t.onlyWrites i := fun f hf hi => by
  obtain ⟨g, hg, hgi, hgw⟩ := h f hf
  exact hgw (hs g hg (hgi.symm.trans hi))

theorem State.discardBursts_fragsLeft (s : State) (n : Nat) : FragsLeft s (s.discardBursts n) := by
  intro f hf
  rw [State.frags_discardBursts] at hf
  obtain ⟨g, hg, rfl⟩ := List.mem_map.1 hf
  refine ⟨g, (List.mem_filter.1 hg).1, ?_⟩
  split
  · exact ⟨rfl, id⟩
  · exact ⟨rfl, id⟩

theorem State.chHalt_fragsLeft (s : State) (n : Fin 512) (wish : StopWish) : FragsLeft s (s.chHalt n wish) := by
  have ends (u : State) (f : Chan → Chan) : FragsLeft u ((u.updChan n.val f).ifDrained n.val) :=
    (State.ifDrained_frame (u.updChan n.val f) n.val).fragsLeft rfl
  have cleared : FragsLeft s (((s.discardBursts n.val).retireFetch n).updChan n.val (fun x => { x with shValid := false })) :=
    (s.discardBursts_fragsLeft n.val).trans (((s.discardBursts n.val).retireFetch_frame n).fragsLeft rfl)
  have still (f : Chan → Chan) : FragsLeft s (((s.updChan n.val f).retireFetch n).chIdle n.val 3) :=
    FragsLeft.trans (((s.updChan n.val f).retireFetch_frame n).fragsLeft rfl) ((State.chIdle_frame _ _ _).fragsLeft rfl)
  unfold State.chHalt
  dsimp only
  split
  · exact FragsLeft.rfl_
  · exact still _
  · exact still _
  · exact ends s _
  · exact cleared.trans (ends _ _)
  · exact cleared.trans (ends _ _)

theorem State.dropFrag_fragsLeft (s : State) (id : Nat) : FragsLeft s (s.dropFrag id) :=
  fun f hf => ⟨f, (List.mem_filter.1 hf).1, rfl, fun h => h⟩

theorem State.endFrag_fragsLeft (s : State) (id : Nat) : FragsLeft s (s.endFrag id) := by
  have dropped : FragsLeft s ((s.dropFrag id).dropWalks (.frag id)) :=
    (s.dropFrag_fragsLeft id).trans ((State.dropWalks_frame _ _).fragsLeft rfl)
  unfold State.endFrag
  split
  · exact FragsLeft.rfl_
  · dsimp only
    split
    · exact dropped.trans ((State.burstEnds_frame _ _ _).fragsLeft rfl)
    · exact dropped.trans (((State.updEntry_frame _ _ _ _).fragsLeft rfl).trans ((State.cancelRecs_frame _ _ _).fragsLeft rfl))

theorem State.writesOver_fragsLeft (s : State) (id : Nat) : FragsLeft s (s.writesOver id) := by
  have drains : FragsLeft s (s.updFrag id (fun f => { f with phase := .draining, held := false })) := fun f hf => by
    obtain ⟨g, hg, rfl⟩ := List.mem_map.1 hf
    refine ⟨g, hg, ?_⟩
    split
    · exact ⟨rfl, fun _ => rfl⟩
    · exact ⟨rfl, fun h => h⟩
  unfold State.writesOver
  split
  · exact FragsLeft.rfl_
  · split
    · dsimp only
      split
      · exact drains.trans (State.endFrag_fragsLeft _ id)
      · exact drains
    · exact FragsLeft.rfl_

/-- Steps 1 and 2 of a reset leave no fragment of the instance that has not begun to write. -/
theorem State.discard_onlyWrites (s : State) (i : Nat) : (s.discard i true).onlyWrites i := by
  have hdrop (ids : List Nat) (t : State) : (ids.foldl (fun s id => s.dropWalks (.frag id)) t).frags = t.frags :=
    (Frame.foldl (fun u id => u.dropWalks_frame (.frag id)) Frame.refl).get .frags rfl
  have hcut (l : List Frag) (t : State) : (l.foldl State.burstCut t).frags = t.frags :=
    (Frame.foldl State.burstCut_frame Frame.refl).get .frags rfl
  intro f hf hi
  unfold State.discard at hf
  dsimp only at hf
  rw [hdrop] at hf
  obtain ⟨g, hg, rfl⟩ := List.mem_map.1 hf
  obtain ⟨hmem, hkept⟩ := List.mem_filter.1 hg
  rw [hcut] at hmem
  have hgi : g.inst = i := by
    split at hi <;> exact hi
  have hgw : g.writes = true := by
    by_contra hw
    rw [Bool.not_eq_true', ← Bool.not_eq_true] at hkept
    refine hkept (List.contains_iff_mem.2 (List.mem_map.2 ⟨g, List.mem_filter.2 ⟨hmem, ?_⟩, rfl⟩))
    simp [State.cutFrags, hgi, hw]
  split
  · exact hgw
  · exact hgw

/-! ### Queues of an instance that is reset (R346) -/

/-- Polling has stopped, and every open entry whose overwrite is still to come is aborted. -/
def Queue.aborted (q : Queue) : Prop := q.waiting = false ∧ ∀ e ∈ q.entries, e.issued = false → e.ended = 0x29

def State.queuesAborted (s : State) (i : Nat) : Prop := ∀ g q, s.queue? g = some q → q.inst = i → q.aborted

theorem Frame.queuesAborted {ps : List Part} {s t : State} {i : Nat} (h : Frame ps s t) (hp : ps.contains .queues = false)
    (hs : s.queuesAborted i) : t.queuesAborted i := fun g q hq =>
  hs g q ((State.queue_congr (h.get .queues hp) g).symm.trans hq)

theorem Queue.cut_aborted (q : Queue) (out : Bool) : (q.cut true out).aborted := by
  refine ⟨rfl, fun e he hi => ?_⟩
  obtain ⟨x, -, rfl⟩ := List.mem_map.1 he
  cases hx : x.issued with
  | false => rfl
  | true =>
    have hovr : x.ovr = .accepted := by simpa [Entry.issued] using hx
    simp [Entry.issued, hovr] at hi

/-- A change that brings `P` about and leaves a queue its instance, made of several queues. -/
theorem State.queue_foldl_all {f : State → Nat → Queue → Queue} {P : Queue → Prop} (hf : ∀ s g q, P (f s g q) ∧ (f s g q).inst = q.inst)
    (l : List (Nat × Queue)) {s : State} {g : Nat} {q : Queue}
    (h : (l.foldl (fun s p => s.updQueue p.1 (f s p.1)) s).queue? g = some q) :
    ∃ q₀, s.queue? g = some q₀ ∧ q.inst = q₀.inst ∧ (g ∈ l.map (·.1) ∨ P q₀ → P q) := by
  induction l generalizing s with
  | nil => exact ⟨q, h, rfl, fun hp => hp.resolve_left (by simp)⟩
  | cons p l ih =>
    obtain ⟨q₁, hq₁, hi, hP⟩ := ih h
    rw [State.queue_updQueue] at hq₁
    by_cases hg : g = p.1
    · rw [if_pos hg] at hq₁
      obtain ⟨q₀, hq₀, rfl⟩ := Option.map_eq_some_iff.1 hq₁
      obtain ⟨hp, hinst⟩ := hf s p.1 q₀
      exact ⟨q₀, hg ▸ hq₀, hi.trans hinst, fun _ => hP (.inr hp)⟩
    · rw [if_neg hg] at hq₁
      refine ⟨q₁, hq₁, hi, fun h => hP ?_⟩
      simpa [hg] using h

/-- The queues of instance i are among those of the instance in the store. -/
theorem State.mem_ownQueues {s : State} {i g : Nat} {q : Queue} (h : s.queue? g = some q) (hi : q.inst = i) :
    g ∈ (s.ownQueues i).map (·.1) :=
  List.mem_map.2 ⟨(g, q), List.mem_filter.2 ⟨State.mem_of_queue h, by simp [hi]⟩, rfl⟩

theorem State.updEntry_queuesAborted {s : State} {i : Nat} (hs : s.queuesAborted i) (g seq : Nat) {f : Entry → Entry}
    (hf : ∀ e, (f e).issued = e.issued ∧ (f e).ended = e.ended) : (s.updEntry g seq f).queuesAborted i := by
  intro j q hq hi
  rw [State.queue_updEntry] at hq
  split at hq
  · next hj =>
    obtain ⟨q₀, hq₀, rfl⟩ := Option.map_eq_some_iff.1 hq
    obtain ⟨hw, he⟩ := hs g q₀ hq₀ hi
    refine ⟨hw, fun e hmem hissued => ?_⟩
    obtain ⟨x, hx, rfl⟩ := List.mem_map.1 hmem
    by_cases hseq : x.seq = seq
    · rw [if_pos hseq] at hissued ⊢
      rw [(hf x).2]
      exact he x hx ((hf x).1.symm.trans hissued)
    · rw [if_neg hseq] at hissued ⊢
      exact he x hx hissued
  · exact hs j q hq hi

theorem Entry.afterFrag_ends (e : Entry) (f : Frag) : (e.afterFrag f).issued = e.issued ∧ (e.afterFrag f).ended = e.ended := by
  have stopped (x : Stop) : (e.stopped x).issued = e.issued ∧ (e.stopped x).ended = e.ended := by
    unfold Entry.stopped
    split
    · exact ⟨rfl, rfl⟩
    · split <;> exact ⟨rfl, rfl⟩
  unfold Entry.afterFrag
  dsimp only
  split
  · exact ⟨rfl, rfl⟩
  · split
    · exact ⟨rfl, rfl⟩
    · exact stopped _

theorem State.cancelRecs_queuesAborted {s : State} {i : Nat} (hs : s.queuesAborted i) (g seq : Nat) :
    (s.cancelRecs g seq).queuesAborted i := by
  have dropped {u : State} (p : Prop) [Decidable p] (x : XCtx) (hu : u.queuesAborted i) :
      (if p then u.dropWalks x else u).queuesAborted i := by
    split
    · exact (u.dropWalks_frame x).queuesAborted rfl hu
    · exact hu
  unfold State.cancelRecs
  split
  · exact hs
  · dsimp only
    split
    · exact hs
    · exact State.updEntry_queuesAborted (dropped _ _ (dropped _ _ ((State.updPort_frame _ _ _).queuesAborted rfl hs))) g seq
        fun _ => ⟨rfl, rfl⟩

theorem State.endFrag_queuesAborted {s : State} {i : Nat} (hs : s.queuesAborted i) (id : Nat) :
    (s.endFrag id).queuesAborted i := by
  have hdrop : ((s.dropFrag id).dropWalks (.frag id)).queuesAborted i := hs
  unfold State.endFrag
  split
  · exact hs
  · dsimp only
    split
    · exact (State.burstEnds_frame _ _ _).queuesAborted rfl hdrop
    · refine State.cancelRecs_queuesAborted (State.updEntry_queuesAborted hdrop _ _ fun e => ?_) _ _
      split
      · exact ⟨rfl, rfl⟩
      · exact e.afterFrag_ends _

theorem State.writesOver_queuesAborted {s : State} {i : Nat} (hs : s.queuesAborted i) (id : Nat) :
    (s.writesOver id).queuesAborted i := by
  have hdrains : (s.updFrag id (fun f => { f with phase := .draining, held := false })).queuesAborted i := hs
  unfold State.writesOver
  split
  · exact hs
  · split
    · dsimp only
      split
      · exact State.endFrag_queuesAborted hdrains id
      · exact hdrains
    · exact hs

/-! ### The reset sequence begins (R345) -/

/-- The queues of an instance stop polling, and their open entries end. -/
def State.queuesCut (s : State) (i : Nat) : State :=
  (s.ownQueues i).foldl (fun s p => s.updQueue p.1 (fun q => q.cut true (s.pollOut p.1))) s

theorem State.queuesCut_frame (s : State) (i : Nat) : Frame [.queues] s (s.queuesCut i) :=
  Frame.foldl (fun u p => u.updQueue_frame p.1 _) Frame.refl

theorem State.queuesCut_aborted (s : State) (i : Nat) : (s.queuesCut i).queuesAborted i := by
  intro g q hq hi
  obtain ⟨q₀, hq₀, hinst, hP⟩ := State.queue_foldl_all (f := fun s g q => q.cut true (s.pollOut g)) (P := Queue.aborted)
    (fun s g q => ⟨q.cut_aborted _, rfl⟩) (s.ownQueues i) hq
  exact hP (.inl (State.mem_ownQueues hq₀ (hinst.symm.trans hi)))

/-- Fragments, queues and events of the instance have stopped. -/
def State.workCut (s : State) (i : Nat) : State :=
  (((s.updInst i (fun x => { x with stopAt := s.age, settling := false })).discard i true).queuesCut i).stopEvents i

/-- Its channels stop. -/
def State.chansCut (s : State) (i : Nat) : State :=
  (s.ownChans i).foldl (fun s n => s.chHalt (Fin.ofNat 512 n) .reset) s

theorem State.stopWork_reset (s : State) (i : Nat) :
    s.stopWork i true = (((s.workCut i).chansCut i).cutsOver i).settleBegins i := rfl

theorem State.workCut_spec (s : State) (i : Nat) : (∀ j, ((s.workCut i).inst j).state = (s.inst j).state) ∧
    (s.workCut i).onlyWrites i ∧ (s.workCut i).queuesAborted i := by
  have hmarked : Rests s (s.updInst i (fun x => { x with stopAt := s.age, settling := false })) := State.updInst_rests rfl
  unfold State.workCut
  generalize s.updInst i (fun x => { x with stopAt := s.age, settling := false }) = u at hmarked
  have hcut := (u.discard i true).queuesCut_frame i
  have hevents := ((u.discard i true).queuesCut i).stopEvents_frame i
  have hstopped : Rests ((u.discard i true).queuesCut i) (((u.discard i true).queuesCut i).stopEvents i) :=
    State.updInst_rests rfl
  refine ⟨fun j => ?_, ?_, hevents.queuesAborted rfl (State.queuesCut_aborted _ i)⟩
  · have hinst := State.inst_congr ((hcut.get .insts rfl).trans ((u.discard_frame i true).get .insts rfl)) j
    rw [hstopped.state, hinst, hmarked.state]
  · exact (hevents.fragsLeft rfl).onlyWrites ((hcut.fragsLeft rfl).onlyWrites (u.discard_onlyWrites i))

theorem State.chansCut_frame (s : State) (i : Nat) :
    Frame [.flt, .insts, .chans, .frags, .ports, .fabs, .walks, .walked] s (s.chansCut i) :=
  Frame.foldl (fun u n => u.chHalt_frame (Fin.ofNat 512 n) .reset) Frame.refl

theorem State.cutsOver_queuesAborted {s : State} {i : Nat} (hs : s.queuesAborted i) (j : Nat) : (s.cutsOver j).queuesAborted i := by
  unfold State.cutsOver
  generalize (s.frags.filter _).map _ = ids
  induction ids generalizing s with
  | nil => exact hs
  | cons id ids ih => exact ih (State.writesOver_queuesAborted hs id)

theorem State.stopWork_spec (s : State) (i : Nat) : (∀ j, ((s.stopWork i true).inst j).state = (s.inst j).state) ∧
    (s.stopWork i true).onlyWrites i ∧ (s.stopWork i true).queuesAborted i := by
  rw [State.stopWork_reset]
  obtain ⟨hstate, hfrags, hqueues⟩ := s.workCut_spec i
  generalize s.workCut i = u at hstate hfrags hqueues
  have hchans : Rests u (u.chansCut i) := Rests.foldl (fun v n => v.chHalt_rests (Fin.ofNat 512 n) .reset) _ _
  have hover : Rests (u.chansCut i) ((u.chansCut i).cutsOver i) := Rests.foldl State.writesOver_rests _ _
  have hbegins : Rests ((u.chansCut i).cutsOver i) (((u.chansCut i).cutsOver i).settleBegins i) :=
    ite_rests (State.updInst_rests rfl) Rests.rfl_
  have hleft : FragsLeft u (((u.chansCut i).cutsOver i).settleBegins i) :=
    (FragsLeft.foldl (fun v n => v.chHalt_fragsLeft (Fin.ofNat 512 n) .reset) _ _).trans
      (FragsLeft.trans (FragsLeft.foldl State.writesOver_fragsLeft _ (u.chansCut i)) ((State.settleBegins_frame _ i).fragsLeft rfl))
  exact ⟨fun j => (((hchans.trans hover).trans hbegins).state j).trans (hstate j), hleft.onlyWrites hfrags,
    (State.settleBegins_frame _ i).queuesAborted rfl
      (State.cutsOver_queuesAborted ((u.chansCut_frame i).queuesAborted rfl hqueues) i)⟩

theorem State.beginReset_spec (s : State) (i : Nat) (removing : Bool) :
    ((s.beginReset i removing).inst i).state = (if removing then .removing else .resetting) ∧
      (∀ j, j ≠ i → ((s.beginReset i removing).inst j).state = (s.inst j).state) ∧
      (s.beginReset i removing).onlyWrites i ∧ (s.beginReset i removing).queuesAborted i := by
  obtain ⟨hstate, hfrags, hqueues⟩ := State.stopWork_spec
    (s.updInst i (fun x => { x with state := if removing then .removing else .resetting, renewed := false })) i
  refine ⟨(hstate i).trans ?_, fun j hj => (hstate j).trans ?_, hfrags, hqueues⟩
  · rw [State.inst_updInst, if_pos rfl]
  · rw [State.inst_updInst, if_neg hj]

/-! ### Suspension (R342, R343) -/

/-- SUSP of a channel is set or cleared, and it is held or goes on. -/
def State.suspChan (on : Bool) (s : State) (n : Nat) : State :=
  let u := s.updChan n (fun x => { x with susp := on })
  if on then u.chHold n else u.chResume n

def State.suspQueues (s : State) (i : Nat) (on : Bool) : State :=
  (s.ownQueues i).foldl (fun s p => s.updQueue p.1 (fun q => { q with susp := on })) s

theorem State.setSusp_eq (s : State) (i : Nat) (on : Bool) :
    s.setSusp i on = ((s.suspQueues i on).ownChans i).foldl (State.suspChan on) (s.suspQueues i on) := rfl

theorem State.suspQueues_frame (s : State) (i : Nat) (on : Bool) : Frame [.queues] s (s.suspQueues i on) :=
  Frame.foldl (fun u p => u.updQueue_frame p.1 _) Frame.refl

theorem State.chHold_rests (s : State) (n : Nat) : Rests s (s.chHold n) := ite_rests (State.updChan_rests rfl) Rests.rfl_

theorem State.chResume_rests (s : State) (n : Nat) : Rests s (s.chResume n) := ite_rests Rests.rfl_ (State.asCalled_rests _ _)

theorem State.suspChan_spec (on : Bool) (s : State) (n : Nat) :
    (∀ j, ((s.suspChan on n).inst j).state = (s.inst j).state) ∧
      ∀ m, ((s.suspChan on n).chan m).susp = if m = n then on else (s.chan m).susp := by
  have hgoes : Rests (s.updChan n (fun x => { x with susp := on })) (s.suspChan on n) :=
    ite_rests (State.chHold_rests _ n) (State.chResume_rests _ n)
  refine ⟨hgoes.state, fun m => (hgoes.susp m).trans ?_⟩
  rw [State.chan_updChan]
  split <;> rfl

theorem State.suspChan_frame (on : Bool) (s : State) (n : Nat) : Frame [.flt, .insts, .chans] s (s.suspChan on n) := by
  have hset : Frame [.flt, .insts, .chans] s (s.updChan n (fun x => { x with susp := on })) :=
    (State.updChan_frame s n _).grow (by decide)
  unfold State.suspChan
  dsimp only
  split
  · exact hset.trans ((State.chHold_frame _ n).grow (by decide))
  · exact hset.trans (State.chResume_frame _ n)

theorem State.foldl_suspChan (on : Bool) (l : List Nat) (s : State) :
    (∀ j, ((l.foldl (State.suspChan on) s).inst j).state = (s.inst j).state) ∧
      ∀ n, n ∈ l ∨ (s.chan n).susp = on → ((l.foldl (State.suspChan on) s).chan n).susp = on := by
  induction l generalizing s with
  | nil => exact ⟨fun _ => rfl, fun n h => h.resolve_left (by simp)⟩
  | cons m l ih =>
    obtain ⟨hstate, hsusp⟩ := State.suspChan_spec on s m
    obtain ⟨hstate', hsusp'⟩ := ih (s.suspChan on m)
    refine ⟨fun j => (hstate' j).trans (hstate j), fun n h => hsusp' n ?_⟩
    rw [hsusp]
    by_cases hn : n = m
    · exact .inr (if_pos hn)
    · rw [if_neg hn]
      simpa [hn] using h

theorem State.setSusp_spec (s : State) (i : Nat) (on : Bool) : (∀ j, ((s.setSusp i on).inst j).state = (s.inst j).state) ∧
    (∀ g q, (s.setSusp i on).queue? g = some q → q.inst = i → q.susp = on) ∧
    ∀ n, (s.chan n).owner = i → (n, s.chan n) ∈ s.chans → ((s.setSusp i on).chan n).susp = on := by
  have hqueues := s.suspQueues_frame i on
  obtain ⟨hstate, hsusp⟩ := State.foldl_suspChan on ((s.suspQueues i on).ownChans i) (s.suspQueues i on)
  have hafter : Frame [.flt, .insts, .chans] (s.suspQueues i on) (s.setSusp i on) :=
    Frame.foldl (State.suspChan_frame on) Frame.refl
  refine ⟨fun j => (hstate j).trans (congrArg Inst.state (State.inst_congr (hqueues.get .insts rfl) j)), fun g q hq hi => ?_,
    fun n ho hn => hsusp n (.inl ?_)⟩
  · obtain ⟨q₀, hq₀, hinst, hP⟩ := State.queue_foldl_all (f := fun _ _ q => { q with susp := on })
      (P := fun q => q.susp = on) (fun _ _ _ => ⟨rfl, rfl⟩) (s.ownQueues i)
      ((State.queue_congr (hafter.get .queues rfl) g).symm.trans hq)
    exact hP (.inl (State.mem_ownQueues hq₀ (hinst.symm.trans hi)))
  · have hchans : (s.suspQueues i on).chans = s.chans := hqueues.get .chans rfl
    exact List.mem_map.2 ⟨_, List.mem_filter.2 ⟨hchans ▸ hn, by simp [ho]⟩, rfl⟩

/-- The instance enters a state, and its queues and channels are suspended or go on with it. -/
theorem State.restState_spec {s u : State} (hc : u.chans = s.chans) (i : Nat) (st : InstState) (on : Bool) :
    (((u.updInst i (fun x => { x with state := st })).setSusp i on).inst i).state = st ∧
      ((u.updInst i (fun x => { x with state := st })).setSusp i on).pur = u.pur ∧
      ((u.updInst i (fun x => { x with state := st })).setSusp i on).mbs = u.mbs ∧
      (∀ g q, ((u.updInst i (fun x => { x with state := st })).setSusp i on).queue? g = some q → q.inst = i → q.susp = on) ∧
      (∀ n, (s.chan n).owner = i → (n, s.chan n) ∈ s.chans →
        (((u.updInst i (fun x => { x with state := st })).setSusp i on).chan n).susp = on) ∧
      ((u.updInst i (fun x => { x with state := st })).setSusp i on).frags = u.frags ∧
      ((u.updInst i (fun x => { x with state := st })).setSusp i on).hold = u.hold := by
  have hupd := u.updInst_frame i (fun x => { x with state := st })
  have hinst := u.inst_updInst i (fun x => { x with state := st }) i
  generalize u.updInst i (fun x => { x with state := st }) = v at hupd hinst
  have hframe := v.setSusp_frame i on
  obtain ⟨hstate, hqueues, hchans⟩ := v.setSusp_spec i on
  have hsame : v.chans = s.chans := (hupd.get .chans rfl).trans hc
  have hchan (n : Nat) : v.chan n = s.chan n := by rw [State.chan, State.chan, hsame]
  simp only [hchan, hsame] at hchans
  refine ⟨?_, (hframe.get .pur rfl).trans (hupd.get .pur rfl), (hframe.get .mbs rfl).trans (hupd.get .mbs rfl), hqueues, hchans,
    (hframe.get .frags rfl).trans (hupd.get .frags rfl), (hframe.get .hold rfl).trans (hupd.get .hold rfl)⟩
  rw [hstate, hinst, if_pos rfl]

/-! ### The commands -/

section
variable {s : State} {c : Cmd} (h1 : 1 ≤ cInst c.raw) (hi : cInst c.raw < 1024) (he : s.exists_ (cInst c.raw) = true)
  (hd : s.pur.defer.all (fun d => d.inst != cInst c.raw) = true)
include h1 hi he hd

theorem doInstEnd_accepted (removing : Bool) :
    doInstEnd removing c s = (s.deferCmd c (cInst c.raw)).beginReset (cInst c.raw) removing :=
  State.checked_nil (State.instOk_of_other h1 hi he hd) _

theorem doSuspend_accepted (h : (s.inst (cInst c.raw)).state = .active) : doSuspend c s =
    ((s.deferCmd c (cInst c.raw)).updInst (cInst c.raw) (fun x => { x with state := .suspending })).setSusp (cInst c.raw) true :=
  State.checked_nil (by
    rw [State.instOk_of_other h1 hi he hd]
    simp only [State.instSound, State.isContained, State.inReset, h]
    rfl) _

theorem doResume_accepted (h : (s.inst (cInst c.raw)).state = .suspending ∨ (s.inst (cInst c.raw)).state = .suspended) :
    doResume c s = ((s.done c 0 []).updInst (cInst c.raw) (fun x => { x with state := .active })).setSusp (cInst c.raw) false :=
  State.checked_nil (by
    rw [State.instOk_of_other h1 hi he hd]
    rcases h with h | h <;> (simp only [State.instSound, State.isContained, State.inReset, h]; rfl)) _
end

/-- Settles O46: the commands pass their checks, a reset begins as `State.beginReset_spec` says, and a suspension reaches every queue
and channel by `State.setSusp_spec`. -/
theorem instancesEndAndRest : Obligations.InstancesEndAndRest := by
  unfold Obligations.InstancesEndAndRest
  intro s c i _ hr hc hi h1 hlt he hd
  subst hi
  refine ⟨fun x hx => ?_, fun hop hkind hactive => ?_, fun hop hkind hstate => ?_⟩
  · have hdefer := s.deferCmd_frame c (cInst c.raw) []
    have begun (removing : Bool) (hgo : exec x s = .next (doInstEnd removing c s))
        (hst : (if removing then InstState.removing else .resetting) = (if x = Instr.instReset then .resetting else .removing)) :
        ∃ t, exec x s = .next t ∧ (t.inst (cInst c.raw)).state = (if x = Instr.instReset then .resetting else .removing) ∧
          t.pur = (s.deferCmd c (cInst c.raw)).pur ∧ t.onlyWrites (cInst c.raw) ∧ t.queuesAborted (cInst c.raw) ∧
          (∀ j, j ≠ cInst c.raw → (t.inst j).state = (s.inst j).state) ∧ t.hold = s.hold := by
      rw [doInstEnd_accepted h1 hlt he hd] at hgo
      have hframe := (s.deferCmd c (cInst c.raw)).beginReset_frame (cInst c.raw) removing
      obtain ⟨hstate, hother, hfrags, hqueues⟩ := (s.deferCmd c (cInst c.raw)).beginReset_spec (cInst c.raw) removing
      exact ⟨_, hgo, hstate.trans hst, hframe.get .pur rfl, hfrags, hqueues,
        fun j hj => (hother j hj).trans (congrArg Inst.state (State.inst_congr (hdefer.get .insts rfl) j)),
        (hframe.get .hold rfl).trans (hdefer.get .hold rfl)⟩
    rcases hx with ⟨rfl, hop⟩ | ⟨rfl, hop⟩
    · exact begun false (congrArg Host.Outcome.next (State.onCmd_of_cur hr hc hop _)) rfl
    · exact begun true (congrArg Host.Outcome.next (State.onCmd_of_cur hr hc hop _)) rfl
  · have hgo := (State.onCmd_of_kind hr hc hop (kind := fun o => !o.testBit 0) (by simp [hkind]) doSuspend).trans
      (doSuspend_accepted h1 hlt he hd hactive)
    have hdefer := s.deferCmd_frame c (cInst c.raw) []
    obtain ⟨hstate, hpur, -, hqueues, hchans, hfrags, hhold⟩ :=
      State.restState_spec (hdefer.get .chans rfl) (cInst c.raw) .suspending true
    exact ⟨_, congrArg Host.Outcome.next hgo, hstate, hpur, hqueues, hchans, hfrags.trans (hdefer.get .frags rfl),
      hhold.trans (hdefer.get .hold rfl)⟩
  · have hgo := (State.onCmd_of_kind hr hc hop (kind := fun o => o.testBit 0) hkind doResume).trans
      (doResume_accepted h1 hlt he hd hstate)
    have hdone := s.done_frame c 0 []
    obtain ⟨hstate, hpur, hmbs, hqueues, hchans, hfrags, hhold⟩ :=
      State.restState_spec (hdone.get .chans rfl) (cInst c.raw) .active false
    exact ⟨_, congrArg Host.Outcome.next hgo, hstate, hpur, hmbs, hqueues, hchans, hfrags.trans (hdone.get .frags rfl),
      hhold.trans (hdone.get .hold rfl)⟩

end Sys2Proof.Machine
end
